-- ==== Sys2Proof/Word.lean ====
section
/-! DEFINITION. The word types of the Fenxina FX940: bytes, 32-bit registers, 64-bit addresses and instruction words,
64-byte blocks with their byte masks, and thread masks (R6, R9, R56, R65). -/

namespace Sys2Proof

/-- One byte of memory. -/
abbrev Byte := BitVec 8
/-- A 32-bit register of one thread (R32). -/
abbrev Word := BitVec 32
/-- A 64-bit value: an address, a register pair, an instruction word (R56, R125). -/
abbrev DWord := BitVec 64
/-- A 32-bit thread mask: bit t stands for thread t (R9). -/
abbrev TMask := BitVec 32
/-- The 64 bytes of a block, byte 0 least significant (R6, R65). -/
abbrev Blk := BitVec 512
/-- A mask over the 64 bytes of a block (R230). -/
abbrev BMask := BitVec 64
/-- A block tag: format code in the high byte, scale in the low byte (R65). -/
abbrev Tag := BitVec 16

end Sys2Proof
end

