-- ==== Sys2Proof/Machine/Float.lean ====
section
/-! DEFINITION. Element formats and exact arithmetic with one rounding: the formats of R57 and R58, FP32 and packed rounding
(R72 to R74), narrowing conversions (R76, R77), DS8 (R60 to R62), block scales (R66, R67) and the choice of a block's
scale (R80). Values are exact dyadic numbers; every rounding happens in `roundMag`. -/

namespace Sys2Proof.Machine

/-- A value before rounding: NaN, an infinity, or sign, mantissa and exponent with value ±m·2^e (zeros keep their sign). -/
inductive FVal where
  | nan
  | inf (neg : Bool)
  | fin (neg : Bool) (m : Nat) (e : Int)
  deriving DecidableEq, Repr

/-- A floating-point element format (R57): exponent and mantissa widths, bias, codes of the largest finite magnitude, of
infinity (none where the format has none) and of the canonical NaN. -/
structure Fmt where
  eb   : Nat
  mb   : Nat
  bias : Nat
  big  : Nat
  inf  : Option Nat
  nan  : Nat
  deriving DecidableEq, Repr

def fmtFP32 : Fmt := ⟨8, 23, 127, 0x7F7FFFFF, some 0x7F800000, 0x7FC00000⟩
def fmtBF16 : Fmt := ⟨8, 7, 127, 0x7F7F, some 0x7F80, 0x7FC0⟩
def fmtFP16 : Fmt := ⟨5, 10, 15, 0x7BFF, some 0x7C00, 0x7E00⟩
def fmtE4M3 : Fmt := ⟨4, 3, 7, 0x7E, none, 0x7F⟩
def fmtE5M2 : Fmt := ⟨5, 2, 15, 0x7B, some 0x7C, 0x7E⟩
/-- E2M1 has no NaN; a NaN input becomes +0 (R76). -/
def fmtE2M1 : Fmt := ⟨2, 1, 1, 0x7, none, 0x0⟩

/-- Rounding modes: those of R72 and stochastic rounding with its 16 random bits (R76, R77). -/
inductive RMode where
  | rne | rtz | rdn | rup
  | sr (rnd : BitVec 16)
  deriving DecidableEq, Repr

/-- MOD[1:0] of the FP class (R72). -/
def RMode.ofMod (m : BitVec 5) : RMode :=
  match m.toNat % 4 with
  | 0 => .rne
  | 1 => .rtz
  | 2 => .rdn
  | _ => .rup

/-- The exponent of the least significant bit of a format's subnormals. -/
def Fmt.emin (f : Fmt) : Int := 1 - (f.bias : Int) - (f.mb : Int)

def FVal.neg : FVal → FVal
  | .nan => .nan
  | .inf n => .inf (!n)
  | .fin n m e => .fin (!n) m e

def FVal.isNeg : FVal → Bool
  | .nan => false
  | .inf n => n
  | .fin n _ _ => n

def FVal.isZero : FVal → Bool
  | .fin _ m _ => m == 0
  | _ => false

def FVal.isNaN : FVal → Bool
  | .nan => true
  | _ => false

def FVal.isInf : FVal → Bool
  | .inf _ => true
  | _ => false

def FVal.zero : FVal := .fin false 0 0
def FVal.one : FVal := .fin false 1 0

/-- The value of an element code (R57, R58). -/
def Fmt.decode (f : Fmt) (code : Nat) : FVal :=
  let neg := (code >>> (f.eb + f.mb)) % 2 == 1
  let ef := (code >>> f.mb) % 2 ^ f.eb
  let m := code % 2 ^ f.mb
  let mag := code % 2 ^ (f.eb + f.mb)
  if f.inf.isSome && ef == 2 ^ f.eb - 1 then
    if m == 0 then .inf neg else .nan
  else if f.inf.isNone && f.nan != 0 && mag == f.nan then .nan
  else if ef == 0 then .fin neg m f.emin
  else .fin neg (m + 2 ^ f.mb) (f.emin + ((ef : Int) - 1))

/-- Whether an element code is subnormal or zero: exponent field 0. -/
def Fmt.isSub (f : Fmt) (code : Nat) : Bool := (code >>> f.mb) % 2 ^ f.eb == 0

/-- An input with the flush modifier: a subnormal is read as a zero of its sign (R72). -/
def Fmt.decodeFtz (f : Fmt) (ftz : Bool) (code : Nat) : FVal :=
  match f.decode code with
  | .fin n m e => if ftz && f.isSub code then .fin n 0 0 else .fin n m e
  | v => v

/-- m / 2^sh rounded to an integer magnitude of the given sign (R72, R77). -/
def roundMag (rm : RMode) (neg : Bool) (m sh : Nat) : Nat :=
  let k := m >>> sh
  let r := m % 2 ^ sh
  if r == 0 then k
  else
    let up := match rm with
      | .rne => 2 ^ sh < 2 * r || (2 * r == 2 ^ sh && k % 2 == 1)
      | .rtz => false
      | .rdn => neg
      | .rup => !neg
      | .sr rnd => 65536 ≤ (65536 * r) / 2 ^ sh + rnd.toNat
    if up then k + 1 else k

/-- m·2^e rounded to an integer multiple of 2^q. -/
def roundAt (rm : RMode) (neg : Bool) (m : Nat) (e q : Int) : Nat :=
  if q ≤ e then m <<< (e - q).toNat else roundMag rm neg m (q - e).toNat

/-- The magnitude code of m·2^e in a format with its exponent range unbounded above: codes grow with the magnitude. -/
def Fmt.magCode (f : Fmt) (rm : RMode) (neg : Bool) (m : Nat) (e : Int) : Nat :=
  if m == 0 then 0
  else
    let q := max (e + (Nat.log2 m : Int) - (f.mb : Int)) f.emin
    (q - f.emin).toNat * 2 ^ f.mb + roundAt rm neg m e q

/-- The code of a magnitude above the largest finite one: IEEE 754 per mode (R72), the narrowing table for formats without
infinities and for saturation (R76). -/
def Fmt.overflow (f : Fmt) (rm : RMode) (sat neg : Bool) : Nat :=
  match f.inf with
  | none => f.big
  | some i =>
    if sat then f.big
    else match rm with
      | .rtz => f.big
      | .rdn => if neg then i else f.big
      | .rup => if neg then f.big else i
      | _ => i

/-- A value rounded once to a format: NaN canonical (R73), infinities and overflow as R72 and R76 give, subnormal results
flushed with the flush modifier. -/
def Fmt.encode (f : Fmt) (rm : RMode) (ftz sat : Bool) (v : FVal) : Nat :=
  let sign (n : Bool) := if n then 2 ^ (f.eb + f.mb) else 0
  match v with
  | .nan => f.nan
  | .inf n => sign n + (match f.inf with | none => f.big | some i => if sat then f.big else i)
  | .fin n m e =>
    let k := f.magCode rm n m e
    if f.big < k then sign n + f.overflow rm sat n
    else if ftz && k < 2 ^ f.mb then sign n
    else sign n + k

/-! Exact arithmetic. -/

/-- The signed mantissa of a finite value at exponent q ≤ e. -/
def signedAt (neg : Bool) (m : Nat) (e q : Int) : Int :=
  let k : Int := ((m <<< (e - q).toNat : Nat) : Int)
  if neg then -k else k

/-- The exact value of an integer at an exponent; an exact zero sum of unlike terms is −0 in RDN and +0 otherwise (R203). -/
def FVal.ofInt (rm : RMode) (k : Int) (e : Int) : FVal :=
  if k == 0 then .fin (rm == .rdn) 0 0 else .fin (k < 0) k.natAbs e

/-- The exact sum (R203). -/
def FVal.add (rm : RMode) : FVal → FVal → FVal
  | .nan, _ => .nan
  | _, .nan => .nan
  | .inf a, .inf b => if a == b then .inf a else .nan
  | .inf a, _ => .inf a
  | _, .inf b => .inf b
  | .fin na ma ea, .fin nb mb eb =>
    if ma == 0 && mb == 0 then (if na == nb then .fin na 0 0 else .fin (rm == .rdn) 0 0)
    else
      let q := min ea eb
      FVal.ofInt rm (signedAt na ma ea q + signedAt nb mb eb q) q

/-- The exact product; a zero times an infinity is NaN (R203). -/
def FVal.mul : FVal → FVal → FVal
  | .nan, _ => .nan
  | _, .nan => .nan
  | .inf a, .inf b => .inf (a != b)
  | .inf a, .fin n m _ => if m == 0 then .nan else .inf (a != n)
  | .fin n m _, .inf b => if m == 0 then .nan else .inf (n != b)
  | .fin na ma ea, .fin nb mb eb => .fin (na != nb) (ma * mb) (ea + eb)

/-- The quotient with a sticky bit below 64 exact bits, enough for one rounding in any mode (R75, R203). -/
def FVal.div : FVal → FVal → FVal
  | .nan, _ => .nan
  | _, .nan => .nan
  | .inf a, .fin n _ _ => .inf (a != n)
  | .inf _, .inf _ => .nan
  | .fin n _ _, .inf b => .fin (n != b) 0 0
  | .fin na ma ea, .fin nb mb eb =>
    if mb == 0 then (if ma == 0 then .nan else .inf (na != nb))
    else if ma == 0 then .fin (na != nb) 0 0
    else
      let s := 96
      let num := ma <<< s
      .fin (na != nb) (2 * (num / mb) + (if num % mb == 0 then 0 else 1)) (ea - eb - (s : Int) - 1)

/-- One bit of an integer square root per unit of fuel. -/
def sqrtLoop : Nat → Nat → Nat → Nat
  | 0, _, r => r
  | k + 1, m, r => let c := r + 2 ^ k; sqrtLoop k m (if c * c ≤ m then c else r)

/-- The integer square root of a number below 2^256. -/
def natSqrt (m : Nat) : Nat := sqrtLoop 128 m 0

/-- The square root with a sticky bit below 60 exact bits (R75, R203). -/
def FVal.sqrt : FVal → FVal
  | .nan => .nan
  | .inf n => if n then .nan else .inf false
  | .fin n m e =>
    if m == 0 then .fin n 0 0
    else if n then .nan
    else
      let m1 := if e % 2 == 0 then m else 2 * m
      let e1 := if e % 2 == 0 then e else e - 1
      let w := m1 <<< 120
      let r := natSqrt w
      .fin false (2 * r + (if r * r == w then 0 else 1)) ((e1 - 120) / 2 - 1)

/-- The integral value nearest in the direction of the mode, sign kept (R204). -/
def FVal.rint (rm : RMode) : FVal → FVal
  | .fin n m e => if 0 ≤ e then .fin n m e else .fin n (roundMag rm n m (-e).toNat) 0
  | v => v

/-- Multiplication by a power of two. -/
def FVal.scale (k : Int) : FVal → FVal
  | .fin n m e => .fin n m (e + k)
  | v => v

/-- Strict order with −0 below +0 on values that are not NaN (R74). -/
def FVal.lt : FVal → FVal → Bool
  | .nan, _ => false
  | _, .nan => false
  | .inf a, .inf b => a && !b
  | .inf a, _ => a
  | _, .inf b => !b
  | .fin na ma ea, .fin nb mb eb =>
    if ma == 0 && mb == 0 then na && !nb
    else
      let q := min ea eb
      signedAt na ma ea q < signedAt nb mb eb q

/-- Equality of values, −0 equal to +0, NaN equal to nothing (R199). -/
def FVal.eqv : FVal → FVal → Bool
  | .nan, _ => false
  | _, .nan => false
  | .inf a, .inf b => a == b
  | .fin na ma ea, .fin nb mb eb =>
    let q := min ea eb
    signedAt na ma ea q == signedAt nb mb eb q
  | _, _ => false

/-- Minimum and maximum (R74). -/
def FVal.minmax (max : Bool) (a b : FVal) : FVal :=
  match a, b with
  | .nan, b => b
  | a, .nan => a
  | a, b => if a.lt b != max then a else b

/-- An exact sum of products and other terms with one sign rule for zeros (R83, R206). -/
def FVal.sum (rm : RMode) (xs : List FVal) : FVal :=
  match xs with
  | [] => FVal.zero
  | x :: rest => rest.foldl (FVal.add rm) x

/-! DS8 (R60 to R62), in units of 2^−6. -/

def ds8Term (s : Bool) (c : Nat) : Int :=
  if c == 7 then 0 else if s then -(((64 >>> c : Nat) : Int)) else ((64 >>> c : Nat) : Int)

/-- The value of a DS8 code in units of 2^−6 (R60). -/
def ds8Units (code : Nat) : Int :=
  ds8Term (code / 128 % 2 == 1) (code / 16 % 8) + ds8Term (code / 8 % 2 == 1) (code % 8)

def ds8Value (code : Nat) : FVal :=
  let k := ds8Units code
  .fin (k < 0) k.natAbs (-6)

/-- Two nonzero terms with a < b (R61 step 4); `same` asks for equal signs. -/
def ds8TwoTerm (same : Bool) (code : Nat) : Bool :=
  let a := code / 16 % 8
  let b := code % 8
  a < b && b < 7 && ((code / 128 % 2 == code / 8 % 2) == same)

/-- The canonical code of a DS8 value in units of 2^−6 (R61). -/
def ds8Canon (k : Int) : Nat :=
  if k == 0 then 0x77
  else if k == 128 then 0x00
  else if k == -128 then 0x88
  else
    let one := (List.range 7).find? (fun c => k.natAbs == 64 >>> c)
    match one with
    | some c => (if k < 0 then 128 else 0) + 16 * c + 7
    | none =>
      match (List.range 256).find? (fun c => ds8TwoTerm true c && ds8Units c == k) with
      | some c => c
      | none => ((List.range 256).find? (fun c => ds8TwoTerm false c && ds8Units c == k)).getD 0x77

/-- The magnitudes that DS8 represents, in units of 2^−6. -/
def ds8Mags : List Nat :=
  (List.range 129).filter (fun k => (List.range 256).any (fun c => ds8Units c == (k : Int)))

/-- The DS8 encoding of a real number (R62, R77). -/
def ds8Encode (rm : RMode) (v : FVal) : Nat :=
  match v with
  | .nan => 0x77
  | .inf n => if n then 0x88 else 0x00
  | .fin n m e =>
    let q := min e (-6)
    let w := m <<< (e - q).toNat
    let unit := 2 ^ (-6 - q).toNat
    if 128 * unit < w then (if n then 0x88 else 0x00)
    else
      let lo := (ds8Mags.filter (fun k => k * unit ≤ w)).getLastD 0
      let hi := (ds8Mags.find? (fun k => w < k * unit)).getD lo
      let k :=
        if lo * unit == w then lo
        else match rm with
          | .rtz => lo
          | .rdn => if n then hi else lo
          | .rup => if n then lo else hi
          | .rne => if w - lo * unit ≤ hi * unit - w then lo else hi
          | .sr rnd => if 65536 ≤ (65536 * (w - lo * unit)) / ((hi - lo) * unit) + rnd.toNat then hi else lo
      ds8Canon (if n then -(k : Int) else (k : Int))

/-- INT8 as a conversion target (R76): saturating at 127 and −128. -/
def int8Encode (rm : RMode) (v : FVal) : Nat :=
  match v with
  | .nan => 0
  | .inf n => if n then 0x80 else 0x7F
  | .fin n m e =>
    let k := if 0 ≤ e then m <<< e.toNat else roundAt rm n m e 0
    if n then (if 128 ≤ k then 0x80 else (256 - k) % 256) else (if 127 ≤ k then 0x7F else k)

/-! Element formats by tag code (R57, R65, R66). -/

/-- Bits of an element of a tagged format (R64); untyped blocks count as bytes. -/
def elemBits (code : Nat) : Nat :=
  match code with
  | 1 => 32
  | 2 => 16
  | 3 => 16
  | 6 => 4
  | _ => 8

/-- The floating-point format of a tag code (R57). -/
def fmtOf (code : Nat) : Option Fmt :=
  match code with
  | 1 => some fmtFP32
  | 2 => some fmtBF16
  | 3 => some fmtFP16
  | 4 => some fmtE4M3
  | 5 => some fmtE5M2
  | 6 => some fmtE2M1
  | _ => none

/-- The value of an element code without its block scale (R57 to R60). -/
def elemValue (code bits : Nat) : FVal :=
  match fmtOf code with
  | some f => f.decode bits
  | none => if code == 7 then .fin (128 ≤ bits) (if 128 ≤ bits then 256 - bits else bits) 0 else ds8Value bits

/-- The value of an element under its block's scale (R66). -/
def scaledValue (code scale bits : Nat) : FVal :=
  if scale == 0 then FVal.zero
  else if scale == 255 then .nan
  else (elemValue code bits).scale ((scale : Int) - 127)

/-- FP32 of a value, RNE (R67). -/
def toFP32 (rm : RMode) (v : FVal) : Word := BitVec.ofNat 32 (fmtFP32.encode rm false false v)

/-- The exact value of an FP32 word. -/
def ofFP32 (w : Word) : FVal := fmtFP32.decode w.toNat

/-- A value converted to the element code of a tag code in one narrowing mode (R76). -/
def narrow (code : Nat) (rm : RMode) (ftz sat : Bool) (v : FVal) : Nat :=
  match fmtOf code with
  | some f => f.encode rm ftz sat v
  | none => if code == 7 then int8Encode rm v else ds8Encode rm v

/-- The largest finite value of a target as mantissa and exponent (R80). -/
def targetMax (code : Nat) : Nat × Int :=
  match fmtOf code with
  | some f => match f.decode f.big with
    | .fin _ m e => (m, e)
    | _ => (0, 0)
  | none => if code == 7 then (127, 0) else (2, 0)

/-- Whether m·2^e ≤ F·2^k for a target's largest finite value F. -/
def fitsScale (code : Nat) (m : Nat) (e k : Int) : Bool :=
  let (fm, fe) := targetMax code
  let q := min e (fe + k)
  m <<< (e - q).toNat ≤ fm <<< (fe + k - q).toNat

/-- The scale exponent of R80 step 3: the smallest k from −126 to 127 that fits every finite element, or 127. -/
def blockScale (code : Nat) (xs : List FVal) : Int :=
  let ok (k : Int) : Bool := xs.all (fun x => match x with
    | .fin _ m e => m == 0 || fitsScale code m e k
    | _ => true)
  match (List.range 254).find? (fun (i : Nat) => ok ((i : Int) - 126)) with
  | some i => ((i : Nat) : Int) - 126
  | none => 127

/-- The element codes and tag of a block narrowed under R80; `rnd i` is the mode of the block's element i. -/
def narrowBlock (code : Nat) (sat : Bool) (rm : Nat → RMode) (xs : List FVal) : List Nat × Tag :=
  let zc := if code == 8 then 0x77 else 0
  let tag (s : Nat) : Tag := BitVec.ofNat 16 (code * 256 + s)
  let hasInf := match fmtOf code with | some f => f.inf.isSome | none => false
  if xs.any FVal.isNaN || (xs.any FVal.isInf && !hasInf) then (xs.map (fun _ => zc), tag 0xFF)
  else if xs.all FVal.isZero then (xs.map (fun _ => zc), tag 0)
  else
    let k := blockScale code xs
    (xs.mapIdx (fun i x => narrow code (rm i) false sat (x.scale (-k))), tag (k + 127).toNat)

/-! The generator of R78. -/

def rotl32 (x : Word) (k : Nat) : Word := x.rotateLeft k

/-- One round of R78 on (a, b, c, d). -/
def randRound (s : Word × Word × Word × Word) : Word × Word × Word × Word :=
  let (a, b, c, d) := s
  let a := a + b
  let d := rotl32 (d ^^^ a) 16
  let c := c + d
  let b := rotl32 (b ^^^ c) 12
  let a := a + b
  let d := rotl32 (d ^^^ a) 8
  let c := c + d
  let b := rotl32 (b ^^^ c) 7
  (a, b, c, d)

/-- The counter-based generator (R78). -/
def rand32 (key stream ctr idx : Word) : Word :=
  let s0 := (key ^^^ 0x6A09E667#32, stream, ctr, idx)
  let (a, b, c, d) := randRound (randRound (randRound (randRound s0)))
  a ^^^ b ^^^ c ^^^ d

end Sys2Proof.Machine
end

