-- ==== Sys2Proof/Syntax.lean ====
section
/-! DEFINITION. The instruction set and the machine's other whole steps: one constructor of `Instr` per row of
spec/opcode_table.json. Usron instructions carry their decoded fields (R126, R128, R133, R134, R137); the steps of the
hub, cores, homes, network, engines and ports carry what names the unit they act on and what comes from outside. -/

namespace Sys2Proof

/-- A 10-bit source field (R128). -/
inductive Src where
  /-- kind 00: a register, or the pair or quad based there -/
  | reg (i : BitVec 8)
  /-- kind 01: latch b0 (false) or b1 (true) -/
  | latch (one : Bool)
  /-- kind 10: the value of the extension word -/
  | ext
  /-- kind 11: a signed 8-bit short immediate -/
  | imm (v : BitVec 8)
  deriving DecidableEq, Repr

/-- The fields of an ATTR extension word (R134). -/
structure Attr where
  ispec  : BitVec 8
  policy : BitVec 3
  order  : BitVec 2
  scope  : BitVec 3
  offset : Word
  deriving DecidableEq, Repr

/-- The extension word (R133); `none` stands for X = 0. -/
inductive Ext where
  | none
  | imm32 (v : Word)
  | const (window : BitVec 3) (off : BitVec 17)
  | attr (a : Attr)
  deriving DecidableEq, Repr

/-- The fields of the general form (R126). -/
structure Ops where
  ext : Ext
  pn  : Bool
  p   : BitVec 8
  c   : Src
  b   : Src
  a   : Src
  mod : BitVec 5
  hd  : Bool
  ls  : Bool
  nw  : Bool
  d   : BitVec 8
  deriving DecidableEq, Repr

/-- The fields of the branch form (R137). -/
structure BrOps where
  pn  : Bool
  p   : BitVec 8
  rcv : BitVec 20
  tgt : BitVec 20
  deriving DecidableEq, Repr

/-- The partition modes (R28). -/
inductive PartMode where
  | one | two | four
  deriving DecidableEq, Repr

/-- What is trained between reset and full service (R22, R23). -/
inductive TrainUnit where
  | hostPort
  | troxia (k : Nat)
  | expander (k : Nat)
  | coreDie (p : Nat)
  | storeDie (p : Nat)
  | link (a b : Nat)
  | stack (k : Nat)
  | lpddr (k : Nat)
  deriving DecidableEq, Repr

/-- What Prosy is given when a context is created (R239, R367, R377, R388). -/
structure CtxSpec where
  partition : Nat
  sys       : Bool
  trapBase  : DWord
  root      : List DWord
  saveAreas : List (DWord × DWord)
  heapCaps  : List (Nat × Nat)
  deriving DecidableEq, Repr

/-- Where a storage error is found (R380): the place, and for a cached line the key of the line. -/
inductive EccLoc where
  | register (sheaf reg thread : Nat)
  | localStore (addr : Nat)
  | slotWord (addr : Nat)
  | tileWord (addr : Nat)
  | l1Line (core line : Nat)
  | sliceLine (die line : Nat)
  | icLine (core line : Nat)
  | ccBlock (core line : Nat)
  | mscBlock (block : Nat)
  | memBlock (block : Nat)
  | coreAllowance (core key : Nat)
  | dieAllowance (die key : Nat)
  deriving DecidableEq, Repr

/-- A received Troxia flit (R400): its header fields, whether its tag check and CRC pass, and its payload. -/
structure Flit where
  seq     : BitVec 24
  keyBit  : Bool
  ack     : BitVec 24
  ok      : Bool
  payload : List Byte
  deriving DecidableEq, Repr

/-- One constructor per row of the opcode table: the 151 Usron instructions, an unassigned opcode, and the machine's 123 other whole steps (those that name no unit last). -/
inductive Instr where
  /-- NOP (R180): No operation. -/
  | nop (o : Ops)
  /-- BRA (R180): Branches unconditionally to a PC-relative target. -/
  | bra (o : BrOps)
  /-- BRC (R181): Branches by predicate, pushing a reconvergence entry when the sheaf diverges. -/
  | brc (o : BrOps)
  /-- BRX (R182): Branches indirectly per thread, peeling groups by target. -/
  | brx (o : Ops)
  /-- CALL (R183): Pushes a call entry and branches to a PC-relative target. -/
  | call (o : BrOps)
  /-- CALLX (R182): Calls indirectly per thread, peeling groups by target. -/
  | callx (o : Ops)
  /-- RET (R184): Pops a call entry and returns. -/
  | ret (o : Ops)
  /-- EXIT (R185): Ends its executing threads, ending the sheaf when no thread remains live. -/
  | exit (o : Ops)
  /-- YIELD (R186): Leaves any stook and ranks the sheaf last at its next choice. -/
  | yield (o : Ops)
  /-- SLEEP (R186): Makes the sheaf not ready for a given number of cycles. -/
  | sleep (o : Ops)
  /-- BRK (R187): Raises the BRK trap. -/
  | brk (o : Ops)
  /-- TRAP (R187): Raises trap cause 0x20 + n. -/
  | trap (o : Ops)
  /-- CFETCH (R188): Requests instruction lines on the CODE counter. -/
  | cfetch (o : Ops)
  /-- CPIN (R188): Pins instruction lines and returns whether each pin succeeded. -/
  | cpin (o : Ops)
  /-- CUNPIN (R188): Unpins instruction lines. -/
  | cunpin (o : Ops)
  /-- IADD (R190): 32-bit add, wrapping or saturating. -/
  | iadd (o : Ops)
  /-- ISUB (R190): 32-bit subtract, wrapping or saturating. -/
  | isub (o : Ops)
  /-- ISUM3 (R190): Three-input add or add-subtract. -/
  | isum3 (o : Ops)
  /-- IMUL (R190): 32-bit multiply, low word. -/
  | imul (o : Ops)
  /-- IMULH (R190): 32-bit multiply, high word. -/
  | imulh (o : Ops)
  /-- IMAC (R190): 32-bit multiply-accumulate. -/
  | imac (o : Ops)
  /-- IMACW (R190): Widening multiply-accumulate to 64 bits. -/
  | imacw (o : Ops)
  /-- IADD64 (R190): 64-bit add. -/
  | iadd64 (o : Ops)
  /-- ISUB64 (R190): 64-bit subtract. -/
  | isub64 (o : Ops)
  /-- IMIN (R190): Signed or unsigned minimum. -/
  | imin (o : Ops)
  /-- IMAX (R190): Signed or unsigned maximum. -/
  | imax (o : Ops)
  /-- IABS (R190): Absolute value, optionally saturating. -/
  | iabs (o : Ops)
  /-- LEA (R192): Shift-and-add address computation. -/
  | lea (o : Ops)
  /-- LEA64 (R192): 64-bit shift-and-add address computation. -/
  | lea64 (o : Ops)
  /-- IDOT4 (R192): Four-way byte dot product with accumulate. -/
  | idot4 (o : Ops)
  /-- IDOT2 (R192): Two-way halfword dot product with accumulate. -/
  | idot2 (o : Ops)
  /-- AND (R193): Bitwise AND. -/
  | and (o : Ops)
  /-- OR (R193): Bitwise OR. -/
  | or (o : Ops)
  /-- XOR (R193): Bitwise XOR. -/
  | xor (o : Ops)
  /-- ANDN (R193): Bitwise AND with the complement of b. -/
  | andn (o : Ops)
  /-- LSEL (R194): Three-input logic function of a, b and the old destination. -/
  | lsel (o : Ops)
  /-- SHL (R193): Shift left. -/
  | shl (o : Ops)
  /-- SHR (R195): Logical or arithmetic shift right. -/
  | shr (o : Ops)
  /-- ROT (R193): Rotate left or right. -/
  | rot (o : Ops)
  /-- SHD (R195): Funnel shift of a pair of words. -/
  | shd (o : Ops)
  /-- POPC (R193): Population count. -/
  | popc (o : Ops)
  /-- CLZ (R193): Count leading zeros. -/
  | clz (o : Ops)
  /-- BREV (R193): Bit reverse. -/
  | brev (o : Ops)
  /-- XFLD (R196): Extract a bit field. -/
  | xfld (o : Ops)
  /-- IFLD (R196): Insert a bit field. -/
  | ifld (o : Ops)
  /-- BMUX (R196): Byte permute and fill. -/
  | bmux (o : Ops)
  /-- CLMUL (R197): Carry-less multiply, low or high word. -/
  | clmul (o : Ops)
  /-- ICMP (R198): 32-bit integer compare to a predicate. -/
  | icmp (o : Ops)
  /-- FCMP (R199): FP32 compare to a predicate. -/
  | fcmp (o : Ops)
  /-- SEL (R200): Select a or b by c. -/
  | sel (o : Ops)
  /-- MOV (R200): Move a 32-bit value. -/
  | mov (o : Ops)
  /-- MOVI (R200): Replace one halfword of the destination. -/
  | movi (o : Ops)
  /-- MOVS (R201): Read a special register. -/
  | movs (o : Ops)
  /-- MOV64 (R200): Move a 64-bit value. -/
  | mov64 (o : Ops)
  /-- ICMP64 (R198): 64-bit integer compare to a predicate. -/
  | icmp64 (o : Ops)
  /-- FADD (R202): FP32 add. -/
  | fadd (o : Ops)
  /-- FMUL (R202): FP32 multiply. -/
  | fmul (o : Ops)
  /-- FFMA (R202): FP32 fused multiply-add. -/
  | ffma (o : Ops)
  /-- FMIN (R202): FP32 minimum. -/
  | fmin (o : Ops)
  /-- FMAX (R202): FP32 maximum. -/
  | fmax (o : Ops)
  /-- FRND (R204): Round to an integral value. -/
  | frnd (o : Ops)
  /-- FFRC (R204): Fractional part. -/
  | ffrc (o : Ops)
  /-- FSCL (R204): Scale by a power of two. -/
  | fscl (o : Ops)
  /-- FRCP (R202): Reciprocal. -/
  | frcp (o : Ops)
  /-- FRSQ (R202): Reciprocal square root. -/
  | frsq (o : Ops)
  /-- FSQRT (R202): Correctly rounded square root. -/
  | fsqrt (o : Ops)
  /-- FDIV (R202): Correctly rounded divide. -/
  | fdiv (o : Ops)
  /-- FEX2 (R202): Base-2 exponential. -/
  | fex2 (o : Ops)
  /-- FLG2 (R202): Base-2 logarithm. -/
  | flg2 (o : Ops)
  /-- FSIN (R202): Sine. -/
  | fsin (o : Ops)
  /-- FCOS (R202): Cosine. -/
  | fcos (o : Ops)
  /-- HADD2 (R205): Packed FP16 or BF16 add. -/
  | hadd2 (o : Ops)
  /-- HMUL2 (R205): Packed FP16 or BF16 multiply. -/
  | hmul2 (o : Ops)
  /-- HFMA2 (R205): Packed FP16 or BF16 fused multiply-add. -/
  | hfma2 (o : Ops)
  /-- HMIN2 (R205): Packed FP16 or BF16 minimum. -/
  | hmin2 (o : Ops)
  /-- HMAX2 (R205): Packed FP16 or BF16 maximum. -/
  | hmax2 (o : Ops)
  /-- FDP2 (R206): Two-way 16-bit dot product into FP32. -/
  | fdp2 (o : Ops)
  /-- FDP4 (R206): Four-way 8-bit FP dot product into FP32. -/
  | fdp4 (o : Ops)
  /-- F2I (R207): FP32 to integer. -/
  | f2i (o : Ops)
  /-- I2F (R208): Integer to FP32. -/
  | i2f (o : Ops)
  /-- F2F (R210): Narrow FP32 to a smaller format. -/
  | f2f (o : Ops)
  /-- CVPK (R211): Convert two values and pack them. -/
  | cvpk (o : Ops)
  /-- CVUP (R212): Widen one packed element to FP32. -/
  | cvup (o : Ops)
  /-- DSENC (R213): Encode FP32 to DS8 and shift it in. -/
  | dsenc (o : Ops)
  /-- DSDEC (R213): Decode one DS8 byte to FP32. -/
  | dsdec (o : Ops)
  /-- RELAY (R215): Cross-thread value exchange. -/
  | relay (o : Ops)
  /-- POLL (R216): Vote over the executing threads. -/
  | poll (o : Ops)
  /-- SRED (R217): Ordered reduction over the threads. -/
  | sred (o : Ops)
  /-- SSCAN (R217): Ordered inclusive scan over the threads. -/
  | sscan (o : Ops)
  /-- MATCH (R218): Mask of threads with equal values. -/
  | matchv (o : Ops)
  /-- FIRST (R218): Broadcast the lowest executing thread's value or index. -/
  | firstv (o : Ops)
  /-- LD (R256): Load per thread through a generic pointer. -/
  | ld (o : Ops)
  /-- ST (R256): Store per thread through a generic pointer. -/
  | st (o : Ops)
  /-- LDB (R265): Load through a buffer record with bounds. -/
  | ldb (o : Ops)
  /-- STB (R265): Store through a buffer record with bounds. -/
  | stb (o : Ops)
  /-- LDTG (R257): Load one tagged element widened to FP32. -/
  | ldtg (o : Ops)
  /-- STTG (R258): Store a word and set the block tag atomically. -/
  | sttg (o : Ops)
  /-- TAGRD (R259): Read a block tag. -/
  | tagrd (o : Ops)
  /-- TAGWR (R258): Write a block tag. -/
  | tagwr (o : Ops)
  /-- PREF (R260): Prefetch lines into the L1 and slice. -/
  | pref (o : Ops)
  /-- CCTL (R261): Invalidate an L1, instruction-cache or remote-section copy. -/
  | cctl (o : Ops)
  /-- ATOM (R340): 32-bit returning atomic. -/
  | atom (o : Ops)
  /-- ATOM64 (R340): 64-bit returning atomic. -/
  | atom64 (o : Ops)
  /-- CAS (R340): 32-bit compare-and-swap. -/
  | cas (o : Ops)
  /-- CAS64 (R340): 64-bit compare-and-swap. -/
  | cas64 (o : Ops)
  /-- FATOM (R340): FP32 returning atomic. -/
  | fatom (o : Ops)
  /-- HATOM2 (R340): Packed 16-bit FP returning atomic. -/
  | hatom2 (o : Ops)
  /-- RED (R340): Integer reduction without return. -/
  | red (o : Ops)
  /-- FRED (R340): Floating-point reduction without return. -/
  | fred (o : Ops)
  /-- CPY (R272): Engine copy by record, pointer or multicast. -/
  | cpy (o : Ops)
  /-- GATH (R276): Engine gather of table rows with optional conversion. -/
  | gath (o : Ops)
  /-- BAGS (R277): Engine embedding-bag sums. -/
  | bags (o : Ops)
  /-- SCAD (R278): Engine scatter-add of rows into a table at the homes. -/
  | scad (o : Ops)
  /-- FILL (R279): Engine fill of a record's array with a value. -/
  | fill (o : Ops)
  /-- WAITC (R281): Waits until a counter is at most n and raises any latched engine error. -/
  | waitc (o : Ops)
  /-- CNTRD (R282): Reads the counters or the engine error state. -/
  | cntrd (o : Ops)
  /-- SCLAIM (R301): Claims a run of operand slots. -/
  | sclaim (o : Ops)
  /-- SREL (R301): Releases operand slots. -/
  | srel (o : Ops)
  /-- SWR (R302): Writes one slot row with its tags. -/
  | swr (o : Ops)
  /-- SRD (R302): Reads one slot row or its tags. -/
  | srd (o : Ops)
  /-- ACLAIM (R301): Claims a run of accumulator tiles. -/
  | aclaim (o : Ops)
  /-- AREL (R301): Releases accumulator tiles. -/
  | arel (o : Ops)
  /-- MMA (R305): Queues a matrix multiply-accumulate into a tile. -/
  | mma (o : Ops)
  /-- ACLR (R306): Queues a clear of a tile. -/
  | aclr (o : Ops)
  /-- ARD (R303): Queues a read of one tile row into registers. -/
  | ard (o : Ops)
  /-- AWR (R303): Queues a write of one tile row from registers. -/
  | awr (o : Ops)
  /-- AOP (R306): Queues an elementwise transform of a tile. -/
  | aop (o : Ops)
  /-- ADRN (R307): Queues a drain of a tile to memory in one or two formats. -/
  | adrn (o : Ops)
  /-- FENCE (R345): Release, acquire or both at a scope. -/
  | fence (o : Ops)
  /-- BAR (R347): Arrives at a workgroup barrier and waits for its phase to flip. -/
  | bar (o : Ops)
  /-- BARA (R347): Arrives at a workgroup barrier and returns a phase token. -/
  | bara (o : Ops)
  /-- BARW (R347): Waits on a barrier phase token. -/
  | barw (o : Ops)
  /-- BOINIT (R350): Initialises a barrier object. -/
  | boinit (o : Ops)
  /-- BOEXP (R350): Adjusts a barrier object's expected count. -/
  | boexp (o : Ops)
  /-- BOARR (R350): Arrives at a barrier object. -/
  | boarr (o : Ops)
  /-- BOWAIT (R350): Waits for a barrier object's phase to change. -/
  | bowait (o : Ops)
  /-- ALINIT (R362): Initialises an allowance counter. -/
  | alinit (o : Ops)
  /-- ALTAKE (R353): Takes units from an allowance counter. -/
  | altake (o : Ops)
  /-- ALGIVE (R356): Gives units to an allowance counter. -/
  | algive (o : Ops)
  /-- ALREAD (R357): Reads a counter's exact total after a recall. -/
  | alread (o : Ops)
  /-- ALPEEK (R357): Reads the local core and die allowances. -/
  | alpeek (o : Ops)
  /-- ALCLOSE (R357): Retires a counter into plain data holding its total. -/
  | alclose (o : Ops)
  /-- LAUNCH (R364): Arms a graph-store slot from 64 bytes of local store. -/
  | launch (o : Ops)
  /-- NDEC (R365): Sends one decrement to a slot. -/
  | ndec (o : Ops)
  /-- EVSIG (R366): Signals an MSI-X event with a payload. -/
  | evsig (o : Ops)
  /-- CSRRD (R388): Reads a control register. -/
  | csrrd (o : Ops)
  /-- CSRWR (R388): Writes a control register. -/
  | csrwr (o : Ops)
  /-- TRET (R372): Returns from a handler, re-executing, replaying or skipping the trapped instruction. -/
  | tret (o : Ops)
  /-- CTXSV (R389): Asks the hub to vacate workgroups of a node. -/
  | ctxsv (o : Ops)
  /-- CTXLD (R389): Clears a slot's save hold. -/
  | ctxld (o : Ops)
  /-- XLINV (R390): Invalidates translations and cached copies of a range at a scope. -/
  | xlinv (o : Ops)
  /-- UNASSIGNED_OPCODE (R142): A sheaf reaches an instruction word whose OP is unassigned and raises ILLEGAL_INSTRUCTION at decode step 1. -/
  | unassignedOpcode (w : DWord)
  /-- REGISTER_WRITE (R11): A write to a control register or CSR field with no behaviour of its own stores the value under its access type. -/
  | registerWrite (off width : Nat) (v : DWord)
  /-- TRAINING_ATTEMPT_DONE (R23): A training attempt of a port, core die, link, store die, stack or LPDDR port ends, passing or failing and retrying up to three attempts. -/
  | trainingAttemptDone (u : TrainUnit) (pass : Bool)
  /-- MIN_SVN_RAISE (R19): A host command to Prosy raises MIN_SVN in full service, never above the running version and never lower. -/
  | minSvnRaise (v : BitVec 16)
  /-- ATTESTATION_REPORT (R21): Prosy returns a dual-signed attestation report for the requester's nonce. -/
  | attestationReport (nonce : List Byte)
  /-- SET_PARTITION_MODE (R28): Prosy sets the partition mode while no context exists, and refuses it otherwise. -/
  | setPartitionMode (m : PartMode)
  /-- CONTEXT_CREATE (R239): Prosy creates a context with its root table, save-area table and heap capacities, and loads the homes' root copies. -/
  | contextCreate (asid : BitVec 16) (spec : CtxSpec)
  /-- ROOT_ENTRY_UPDATE (R422): Through Prosy, system software changes a root entry, and Prosy updates every home's copy. -/
  | rootEntryUpdate (asid : BitVec 16) (heap : Fin 16) (entry : DWord)
  /-- SLOT_WRITE (R96): A host or LAUNCH write to a graph-store slot is applied to an idle slot, or discarded with WRITE_DROP on a busy one. -/
  | slotWrite (slot first : Nat) (bytes : List Byte)
  /-- NODE_ARM (R93): A write of ARM 0x01 to an idle slot copies and checks the record, then refuses it or makes it WAITING or READY. -/
  | nodeArm (slot : Nat) (record : Blk)
  /-- DECREMENT (R97): A decrement reaching a slot counts pending, lowers the live count and may make the node READY, or is discarded with EXTRA_DEC. -/
  | decrement (slot : Nat)
  /-- PRIORITY_AGEING (R99): Each QUANTUM of waiting raises a ready node's effective priority, up to 6. -/
  | priorityAgeing (slot : Nat)
  /-- PLACE_WORKGROUP (R112): The distributor places the next workgroup of the serving node on a core with room, choosing lanes, granules and a local-store region. -/
  | placeWorkgroup (partition : Nat)
  /-- RECLAIM_DONE (R117): The last outstanding L1 fill into the reclaimed units returns, the DEVICE acquire runs and all sheaves become ready. -/
  | reclaimDone (wg : Nat)
  /-- PREEMPT_CANDIDATE (R101): When PREEMPT_WAIT expires for a blocked node, victims of lower priority are chosen on one core and vacated. -/
  | preemptCandidate (partition : Nat)
  /-- VACATE_REQUEST (R374): A vacate request reaches a core, and the workgroup's sheaves stop starting chains and halt between chains. -/
  | vacateRequest (wg : Nat)
  /-- VACATE_ABANDON_TIMER (R375): At request plus 1,500 cycles the workgroup's outstanding accesses are abandoned, dropped, or let complete. -/
  | vacateAbandonTimer (wg : Nat)
  /-- WORKGROUP_SAVE (R377): Once halting is complete, the save engine writes the save record and the core performs a DIE release for the workgroup. -/
  | workgroupSave (wg : Nat)
  /-- VACATE_DONE (R377): The save and the release have finished and queued matrix work is done, so the room is freed and claims are dropped. -/
  | vacateDone (wg : Nat)
  /-- WORKGROUP_RESTORE (R379): A saved workgroup is placed again, with the suspension die's DEVICE markers answered, its state restored and its claims retaken. -/
  | workgroupRestore (wg : Nat)
  /-- WORKGROUP_RETIRE (R391): When its sheaves have ended and its counted operations are complete, the workgroup releases at DIE scope, frees its resources and reports to the hub. -/
  | workgroupRetire (wg : Nat)
  /-- COMPLETION_RELEASE_DONE (R392): The last marker answer arrives, and the hub sends the completion-word store. -/
  | completionReleaseDone (slot : Nat)
  /-- COMPLETION_WORD_DONE (R103): The CWORD store is acknowledged, so STATE becomes COMPLETE, successors are decremented and MSI-X is raised. -/
  | completionWordDone (slot : Nat)
  /-- ICACHE_FILL (R119): The later of a missing line's two blocks arrives, and the line is placed in the instruction cache. -/
  | icacheFill (core : Nat)
  /-- FETCH_BUFFER_FILL (R120): A requested line reaches a sheaf's fetch buffer, and the sheaf may become ready. -/
  | fetchBufferFill (core : Nat)
  /-- CONST_FILL_RETURN (R47): A constant-cache fill returns its block, or a fault parks the sheaf. -/
  | constFillReturn (core : Nat) (victim : Option Nat)
  /-- LOAD_RESPONSE (R228): A block returns to the coalescing window, and its threads' values are written, clearing the pending bit when all have arrived. -/
  | loadResponse (core : Nat) (victim : Option Nat)
  /-- STORE_CONFIRM (R230): Write permission for a store's block is confirmed, and the block enters the store buffer. -/
  | storeConfirm (core : Nat)
  /-- STORE_BUFFER_DRAIN (R230): The oldest store-buffer entry drains into the L1 and is written through to its die-cache slice. -/
  | storeBufferDrain (core lgrp : Nat)
  /-- WRITE_THROUGH_ARRIVE (R319): A write-through reaches its slice, enters the pending write table and is forwarded to its home. -/
  | writeThroughArrive (die slice : Nat)
  /-- SLICE_READ (R237): A read reaches a slice, hits, merges into a merge-table entry or sends a miss. -/
  | sliceRead (die slice : Nat)
  /-- SLICE_FILL_RETURN (R274): A block returns to a slice, which sends one packet per requester record, one per cycle. -/
  | sliceFillReturn (die slice : Nat) (victim : Option Nat)
  /-- LS_BANK_ACCEPT (R225): A local-store bank accepts its longest-waiting 64-byte access. -/
  | lsBankAccept (core bank : Nat)
  /-- PEER_LS_ACCESS (R226): A peer local-store access reaches the target core, is checked against its regions, performed and acknowledged. -/
  | peerLsAccess (core : Nat)
  /-- TRANSLATION_WALK (R422): At the home, a translation miss walks the tables from the root, and the access continues or its fault is confirmed when the last read returns. -/
  | translationWalk (heap : Nat)
  /-- FAULT_RESPONSE (R243): A fault response reaches the lane or engine, and the sheaf parks with the fault mask. -/
  | faultResponse (core : Nat)
  /-- PARK_RELEASE_REPLAY (R245): A PARK_ID write with FAIL 0 releases a page's parked sheaves and held engine blocks to replay. -/
  | parkReleaseReplay (parkId : Word)
  /-- PARK_RELEASE_FAIL (R245): A PARK_ID write with FAIL 1 makes the parked threads take ADDRESS and drops held engine blocks, latching ADDRESS. -/
  | parkReleaseFail (parkId : Word)
  /-- PARK_REPLAY (R246): A released sheaf replays its faulted instructions from the kept window entries, then continues. -/
  | parkReplay (sheaf : Nat)
  /-- RESPONSE_TIME_TRAP (R371): A failing response is taken as a trap at the sheaf's first instruction boundary after it returns. -/
  | responseTimeTrap (sheaf : Nat)
  /-- DEBUG_RESUME (R386): Through Prosy, the debug port resumes a stopped sheaf with the choices of TRET. -/
  | debugResume (sheaf : Nat) (skip : Bool)
  /-- DEBUG_REGISTER_ACCESS (R386): Through Prosy, the debug port reads or writes a stopped sheaf's registers. -/
  | debugRegisterAccess (sheaf reg thread : Nat) (write : Option Word)
  /-- DEBUG_PATCH_PINNED (R386): The debug port writes instruction words to memory and to a pinned cache line together. -/
  | debugPatchPinned (core : Nat) (asid : BitVec 16) (va : DWord) (word : DWord)
  /-- SLEEP_EXPIRY (R186): A SLEEP count runs out, and the sheaf becomes ready. -/
  | sleepExpiry (sheaf : Nat)
  /-- BARRIER_WAKE (R347): 2 cycles after a barrier phase flips, the waiting sheaves become ready and acquire at CORE scope unless .rlx. -/
  | barrierWake (sheaf : Nat)
  /-- BO_WAKE (R349): 2 cycles after a barrier-object flip, BOWAIT sheaves become ready. -/
  | boWake (sheaf : Nat)
  /-- RELEASE_DONE (R317): Every step of a release's scope is done, so later writes of the sheaf may proceed. -/
  | releaseDone (sheaf : Nat)
  /-- ATOMIC_LINE_IDLE_WRITE_THROUGH (R335): After 4,096 cycles with no atomic applied, an L1 line in the atomic state is written through. -/
  | atomicLineIdleWriteThrough (core line : Nat)
  /-- L1_ATOMIC (R335): An L1-point atomic drains its block from the store buffer, holds the line in the atomic state and applies its operations. -/
  | l1Atomic (core : Nat) (victim : Option Nat)
  /-- ATOMIC_RESPONSE (R336): A returning atomic's old values reach the lane and are written. -/
  | atomicResponse (core : Nat)
  /-- HOST_ATOMICOP_COMPLETION (R337): The host completes a SYSTEM-scope AtomicOp, or rejects it, which raises ATOMIC_UNSUPPORTED. -/
  | hostAtomicopCompletion (result : Option DWord)
  /-- CROSSBAR_GRANT (R343): Each crossbar output grants one head packet per cycle by ageing, priority and least-recent grant. -/
  | crossbarGrant (die output : Nat)
  /-- LINK_PORT_SEND (R421): A link port sends one packet per cycle by class and age. -/
  | linkPortSend (die toDie : Nat)
  /-- APERTURE_READ (R397): A host read through BAR 2 reads device memory at BASE plus the offset without translation. -/
  | apertureRead (off len : Nat)
  /-- APERTURE_WRITE (R397): A host write through BAR 2 writes device memory untranslated, or is discarded. -/
  | apertureWrite (off : Nat) (bytes : List Byte)
  /-- MSIX_VECTOR_UNMASK (R398): Unmasking a vector with its pending bit set sends one MSI-X message. -/
  | msixVectorUnmask (vector : Nat)
  /-- ENGINE_OP_BEGIN (R267): After the sheaf's earlier stores are performed, a copy-and-gather operation begins and reads its record. -/
  | engineOpBegin (core : Nat)
  /-- ENGINE_BLOCK_WRITE (R268): An engine block write is performed at its bank or acknowledged by its home. -/
  | engineBlockWrite (core : Nat)
  /-- BO_ARRIVAL (R408): A counted engine block adds its bytes to the barrier object at the receiver, which may flip the phase with a release. -/
  | boArrival (core : Nat)
  /-- ENGINE_COMPLETE (R268): An operation completes, and counters drop in issue order within the class. -/
  | engineComplete (core : Nat)
  /-- MATRIX_ADMIT (R293): The matrix queue admits one operation per cycle round-robin over lanes. -/
  | matrixAdmit (core lgrp : Nat)
  /-- MATRIX_OP_BEGIN (R294): The matrix engine begins the next admitted operation when the previous occupancy ends. -/
  | matrixOpBegin (core lgrp : Nat)
  /-- MATRIX_OP_END (R294): An operation's occupancy ends, and tile elements are written. -/
  | matrixOpEnd (core lgrp : Nat)
  /-- SWR_COMMIT (R295): A lane's row buffer commits its slot row and tags through the shared port. -/
  | swrCommit (core lane : Nat)
  /-- XLINV_DONE (R390): The homes' invalidation, the drains and the markers of an XLINV finish, and the sheaf becomes ready. -/
  | xlinvDone (sheaf : Nat)
  /-- MX_CMD_FREE (R292): MX_CMD FREE clears the content owner of the selected entry. -/
  | mxCmdFree (core : Nat)
  /-- MX_CMD_ADOPT (R292): MX_CMD ADOPT makes the claim holder the content owner of the selected entry. -/
  | mxCmdAdopt (core : Nat)
  /-- MIGRATION_COPY_PHASE_DONE (R248): A copy phase ends, and the move repeats, is abandoned, or holds writes, switches and applies them. -/
  | migrationCopyPhaseDone (page : Nat)
  /-- HBM_RATE_CHANGE (R403): A write of RATE starts a per-channel rate switch of a stack. -/
  | hbmRateChange (stack : Nat) (rate : BitVec 2)
  /-- HBM_CHANNEL_RATE_SWITCHED (R403): A channel finishes its issued commands, switches rate and resumes. -/
  | hbmChannelRateSwitched (stack channel : Nat)
  /-- HBM_POWER_DOWN_ENTRY (R404): After PD_IDLE idle cycles a pseudo-channel enters power-down. -/
  | hbmPowerDownEntry (stack pc : Nat)
  /-- HBM_SELF_REFRESH_ENTRY (R404): After SR_IDLE × 1,024 idle cycles a pseudo-channel enters self-refresh. -/
  | hbmSelfRefreshEntry (stack pc : Nat)
  /-- HBM_CRC_FAILURE (R382): An interface CRC failure is replayed and counted, and eight in a row retrain the channel. -/
  | hbmCrcFailure (stack channel : Nat)
  /-- ECC_ERROR_DETECTED (R380): A correctable or uncorrectable storage error is corrected, refetched or poisoned, and counted. -/
  | eccErrorDetected (loc : EccLoc) (uncorrectable : Bool)
  /-- REGISTER_SCRUB (R380): Every 2 ms a background sweep corrects single-bit errors in each register file. -/
  | registerScrub (core : Nat)
  /-- EXPANDER_LINK_DROP (R383): An expander link drops, outstanding heap-14 accesses complete as lost and the heap stays lost. -/
  | expanderLinkDrop (port : Nat)
  /-- TROXIA_FLIT_RECEIVE (R400): A received flit is authenticated and delivered in sequence, or rejected and replayed. -/
  | troxiaFlitReceive (port : Nat) (flit : Flit)
  /-- TROXIA_PORT_DOWN (R402): A port whose link drops or that rejects one flit eight times goes down, and its unacknowledged accesses raise ADDRESS. -/
  | troxiaPortDown (port : Nat)
  /-- KEY_ROLLOVER (R401): Prosy installs a new key at both ends, and the sender seals from sequence s under it. -/
  | keyRollover (port : Nat) (seq : BitVec 24)
  /-- TROXIA_OLD_KEY_ERASE (R401): Once no flit below s is held and s is acknowledged, the old key is erased at both ends. -/
  | troxiaOldKeyErase (port : Nat)
  /-- POWER_AVERAGE_UPDATE (R406): The 1 ms power average is updated and THROTTLE is adjusted against LIMIT_W. -/
  | powerAverageUpdate (mw : Word)
  /-- DIE_OVER_TEMPERATURE (R406): A die exceeds 105 °C, and THROTTLE is set to 4. -/
  | dieOverTemperature (die : Nat) (temp : BitVec 16)
  /-- ENGINE_BLOCK_READ_RETURN (R275): A block read by a copy-and-gather engine returns, and the engine converts, adds or forwards it and requests any further blocks of the row. -/
  | engineBlockReadReturn (core : Nat)
  /-- LINK_PORT_RECEIVE (R421): A packet arrives on a link's receive side and is delivered, in arrival order, to the input of the far die's crossbar. -/
  | linkPortReceive (die fromDie : Nat)
  /-- CONTEXT_TEARDOWN (R359): System software tears down a context through Prosy, and its allowances are returned to their homes. -/
  | contextTeardown (asid : BitVec 16)
  /-- WORKGROUP_RESTORE_DONE (R379): The restore has written every saved part back and its DEVICE acquire is done, so the resumed sheaves become ready. -/
  | workgroupRestoreDone (wg : Nat)
  /-- HOST_READ_COMPLETION (R395): The completion of a device read of host memory (heap 13) returns through the host port to the hub's home. -/
  | hostReadCompletion (data : Option Blk)
  /-- EXPANDER_ACCESS_COMPLETION (R399): A CXL.mem completion from an expander returns to the heap-14 home at the hub. -/
  | expanderAccessCompletion (poisoned : Bool)
  /-- DIE_TEMPERATURE_BELOW_LIMIT (R406): No die exceeds 105 °C any longer, and THROTTLE is no longer held at 4. -/
  | dieTemperatureBelowLimit (die : Nat) (temp : BitVec 16)
  /-- PACKAGE_RESET (R14): Package reset deasserts, every phase and register returns to reset, and the root of trust starts from its mask ROM. -/
  | packageReset
  /-- MANIFEST_CHECK (R16): Once hub power and clocks are stable, the root of trust checks the manifest and images and enters training or recovery. -/
  | manifestCheck
  /-- RECOVERY_CHECK_AND_STORE (R18): Mailbox CMD 1 makes the root of trust read the host's set and check it under R16 and R17. -/
  | recoveryCheckAndStore
  /-- RECOVERY_SET_CHECKED (R18): The set check ends, writing the boot flash and STATUS ACCEPTED, or leaving the flash and setting REJECTED with REASON. -/
  | recoverySetChecked
  /-- RECOVERY_RESET_REQUEST (R18): Mailbox CMD 2 performs a package reset. -/
  | recoveryResetRequest
  /-- HOST_PORT_LINK_UP (R23): PCI Express link training of the host port completes, and the host can see the device. -/
  | hostPortLinkUp
  /-- TRANSITION_GRACE_EXPIRY (R27): After 12,000,000 cycles the hub pre-empts the workgroups still resident. -/
  | transitionGraceExpiry
  /-- TRANSITION_FINISH (R27): With no workgroup resident, atomic lines are written through, LS_CAP and rates are raised, heaps come online, the discovery table is rewritten and full service begins. -/
  | transitionFinish
  /-- HEAP14_RESTORE (R383): System software restores a lost expander heap through Prosy. -/
  | heap14Restore
  /-- HOME_WRITE (R236): The home orders a write in coherence order, updates its home-section copy and acknowledges it. -/
  | homeWrite
  /-- WRITE_ACK (R319): A home acknowledgement reaches the slice and frees the pending write-table entry. -/
  | writeAck
  /-- SLICE_MARKER (R320): A slice answers a DEVICE marker once every write-through forwarded before it has been acknowledged. -/
  | sliceMarker
  /-- FAULT_RECORD_TIMER (R244): 256 cycles after a page's first fault, the hub writes its record to the fault queue. -/
  | faultRecordTimer
  /-- FAULT_QUEUE_ROOM (R245): When room frees in the ring, the held records are written in order and the accesses waiting at homes walk again. -/
  | faultQueueRoom
  /-- HOME_ATOMIC (R340): An atomic or reduction packet reaches the home's memory-side-cache ALU and is applied in ascending thread order. -/
  | homeAtomic
  /-- HOST_FLUSH_READ_COMPLETE (R321): The zero-length flushing read of a SYSTEM release completes on the host port. -/
  | hostFlushReadComplete
  /-- TROXIA_POD_MARKER (R321): A hub Troxia port answers a POD marker once its earlier space-5 writes are acknowledged. -/
  | troxiaPodMarker
  /-- HOST_POSTED_WRITE (R332): A host posted write into a device heap is sent to its home in arrival order. -/
  | hostPostedWrite
  /-- AL_TAKE_AT_DIE (R353): A TAKE reaches a die slice, which serves it from a_die or forwards a refill take to the home. -/
  | alTakeAtDie
  /-- AL_TAKE_AT_HOME (R353): A TAKE reaches the home, which grants a refill or queues it and starts a recall. -/
  | alTakeAtHome
  /-- AL_GRANT (R353): A grant reaches a die or core, adds to its allowance and answers the waiting take. -/
  | alGrant
  /-- AL_RECALL (R354): A RECALL reaches a die or core, which returns its allowance and forwards queued takes. -/
  | alRecall
  /-- AL_RETURN (R354): Returned units reach the home, and on the last answer the round completes, the state is set and the queue is served. -/
  | alReturn
  /-- AL_GIVE_FORWARD (R356): Given units or excess reach a die or the home and are added. -/
  | alGiveForward
  /-- AL_POISON (R360): A POISON message sets the counter's STATE to POISONED. -/
  | alPoison
  /-- AL_ANSWER (R415): A take's answer reaches the thread with its state, and the levels it passes record SCARCE or NORMAL. -/
  | alAnswer
  /-- EVSIG_REQUEST (R366): The hub writes EVT_DATA of the vector and sends MSI-X. -/
  | evsigRequest
  /-- CTXSV_REQUEST (R389): The hub accepts a CTXSV and vacates the named workgroups, with or without a hold. -/
  | ctxsvRequest
  /-- CTXLD_REQUEST (R389): The hub clears a slot's hold so that its saved workgroups may be placed. -/
  | ctxldRequest
  /-- HUB_STATUS_RETURN (R414): A LAUNCH, CTXSV or CTXLD status reaches the issuing sheaf and is written. -/
  | hubStatusReturn
  /-- TRACKING_PERIOD_END (R247): At the end of a tracking period, hot pages are ranked and moves are started up to BUDGET. -/
  | trackingPeriodEnd
  /-- EXPANDER_ACCESS_TIMEOUT (R383): A heap-14 access with no completion for 60,000 cycles completes as lost. -/
  | expanderAccessTimeout
  /-- HOME_READ (R242): A read reaches a heap's home, is translated, ordered in coherence order and served from the memory-side cache or media, and its data is sent back. -/
  | homeRead
  /-- REMOTE_STORE_ACK (R226): The acknowledgement of a space-2 or space-5 store reaches the issuing core, lowering REMOTE and satisfying a waiting CORE release. -/
  | remoteStoreAck
  /-- ALREAD_ALCLOSE_AT_HOME (R357): An ALREAD or ALCLOSE request reaches the counter's home and joins the home queue, and a recall starts unless the masks are empty. -/
  | alreadAlcloseAtHome
  deriving DecidableEq, Repr

end Sys2Proof
end

