-- ==== Sys2Proof/Machine/Form.lean ====
section
/-! DEFINITION. What each instruction accepts in each of its fields: destination, source positions with their widths and
kinds, MOD values, predicate, ATTR fields and extension words (R126 to R142 and the entries' encoding tables), the
opcode map (R139), and the step 3 and step 4 checks of decode written from them. -/

namespace Sys2Proof

/-- Operand widths (R129). -/
inductive Width where
  | w32 | w64 | w128
  deriving DecidableEq, Repr

/-- How a short immediate is read in a position (R130). -/
inductive ImmTy where
  | int | fp32 | fp16 | bf16
  deriving DecidableEq, Repr

/-- What a source position accepts. -/
inductive Pos where
  /-- an unused field: must be 0 (R127) -/
  | unused
  /-- a value of any of the four kinds (R128, R177) -/
  | val (w : Width) (ty : ImmTy)
  /-- a 64-bit pointer or pair source: register pair or latch (R253, R299, R338) -/
  | ptr
  /-- a register quad only (R256) -/
  | quad
  /-- a buffer record: a register pair, or kind 10 with CONST (R263, R271) -/
  | recd
  /-- kind 11 only, from 0 to below the bound -/
  | shortImm (bound : Nat)
  /-- kind 11 naming an F2F target code 2 to 6 (R210) -/
  | fmtImm
  /-- kind 11 or IMM32, from 1 to 127 or from 1 to 1,048,575 (R179) -/
  | branchOff
  /-- kind 11 or IMM32, any value (R194) -/
  | immOrImm32
  /-- a register or a short immediate (R346) -/
  | regOrImm
  /-- kind 11 naming an assigned CSR of the width MOD[0] gives (R387, R388) -/
  | csr
  deriving DecidableEq, Repr

/-- The destination of an instruction (R127, R129). -/
inductive Dst where
  | none
  | reg (w : Width)
  /-- a 32-bit destination that is also read: NW must be 0 (R194, R200) -/
  | rmw
  deriving DecidableEq, Repr

/-- ATTR with every field zero, which an instruction without an ATTR word reads (R135). -/
def Attr.zero : Attr := { ispec := 0, policy := 0, order := 0, scope := 0, offset := 0 }

/-- The ATTR fields that an instruction reads (R135). -/
def Ops.attr (o : Ops) : Attr :=
  match o.ext with
  | .attr a => a
  | _ => Attr.zero

/-- MOD[1:0], MOD[2:0], MOD[3:0] and MOD[4:2]. -/
def lo2 (m : BitVec 5) : Nat := m.toNat % 4
def lo3 (m : BitVec 5) : Nat := m.toNat % 8
def lo4 (m : BitVec 5) : Nat := m.toNat % 16
def hi3 (m : BitVec 5) : Nat := m.toNat / 4

/-- What an instruction's entry accepts. -/
structure Form where
  dst  : Dst := .none
  a    : Pos := .unused
  b    : Pos := .unused
  c    : Pos := .unused
  mod  : Bool
  pred : Bool := true
  /-- whether ATTR fields of these values are allowed -/
  attr : Attr → Bool := fun a => a == Attr.zero
  /-- whether the extension word is allowed at all -/
  ext  : Bool := true

def i32 : Pos := .val .w32 .int
def i64 : Pos := .val .w64 .int
def f32 : Pos := .val .w32 .fp32
/-- A packed FP16 or BF16 position, by MOD[4] (R205). -/
def packed (o : Ops) : Pos := .val .w32 (if o.mod.getLsbD 4 then .bf16 else .fp16)
/-- Data of a store and destination of a load by MOD[2:0] (R136, R256). -/
def dataSize (o : Ops) : Pos :=
  if lo3 o.mod ≤ 2 then i32 else if lo3 o.mod == 3 then i64 else .quad
def dstSize (o : Ops) : Dst :=
  if lo3 o.mod ≤ 2 then .reg .w32 else if lo3 o.mod == 3 then .reg .w64 else .reg .w128

def ord01 (_ : Ops) (a : Attr) : Bool := a.order == 0 || a.order == 1
def ord02 (_ : Ops) (a : Attr) : Bool := a.order == 0 || a.order == 2
/-- SCOPE is 0 when ORDER is 00 (R134). -/
def scopeOk (a : Attr) : Bool := a.order != 0 || a.scope == 0
/-- All ATTR fields zero. -/
def zeroAttr (a : Attr) : Bool := a == Attr.zero
/-- Group 0x7 through a pointer (R253). -/
def memAttr (ord : Attr → Bool) (a : Attr) : Bool :=
  a.ispec == 0 && a.policy.toNat ≤ 4 && ord a && scopeOk a
/-- LDB and STB: OFFSET must be 0 (R253). -/
def recAttr (ord : Attr → Bool) (a : Attr) : Bool := memAttr ord a && a.offset == 0
/-- Group 0x8: any SCOPE with ORDER 00 (R134, R338). -/
def atomAttr (ord : Attr → Bool) (a : Attr) : Bool := a.ispec == 0 && a.policy.toNat ≤ 4 && ord a
/-- Group 0x9 and ADRN (R271, R299). -/
def engAttr (ok : Attr → Bool) (a : Attr) : Bool := a.policy.toNat ≤ 4 && scopeOk a && ok a
/-- Groups 0xB and 0xC: OFFSET, ORDER and SCOPE (R350, R362, R363). -/
def ctlAttr (ok : Attr → Bool) (a : Attr) : Bool := a.policy == 0 && a.ispec == 0 && scopeOk a && ok a

/-- GATH's ISPEC with its MOD values (R276). -/
def gathOk (o : Ops) (a : Attr) : Bool :=
  let f := a.ispec.toNat
  (f ≤ 1 || (4 ≤ f && f ≤ 8)) && (lo2 o.mod == 0 || 4 ≤ f) && (!o.mod.getLsbD 2 || f == 5)

/-- ADRN's ISPEC with its MOD values (R307). -/
def adrnOk (o : Ops) (a : Attr) : Bool :=
  let f1 := a.ispec.toNat % 16
  let f2 := a.ispec.toNat / 16
  let tr := o.mod.getLsbD 2
  f1 ≤ 8 && (if tr then f2 ≤ 8 else f2 == 0)
    && (lo2 o.mod == 0 || (2 ≤ f1 && (!tr || 2 ≤ f2)))
    && (!o.mod.getLsbD 3 || f1 == 5 || (tr && f2 == 5))

/-- The width of an assigned CSR (R388); none for an unassigned number. -/
def csrWidth (n : Nat) : Option Width :=
  if n == 1 || n == 2 || n == 7 || n == 0x10 || (0x40 ≤ n && n ≤ 0x43) then some .w64
  else if n ≤ 8 || (0x11 ≤ n && n ≤ 0x15) || n == 0x20 || n == 0x21 || (0x30 ≤ n && n ≤ 0x33) || n == 0x44 then some .w32
  else none

/-- The general-form fields of an instruction and what its entry accepts in them; none for the branch form and for the
machine's other steps (R126, R127, the entries' tables). DEDUCED (log 119): A of FIRST.idx is a 32-bit source of any kind like that of FIRST, and
is read. DEDUCED (log 121): the operands of group 0x9 that are no records, and the coordinates of LDB and STB, take any kind. -/
def Instr.form : Instr → Option (Ops × Form)
  | .nop o => some (o, { mod := o.mod == 0, pred := false })
  | .brx o => some (o, { a := i64, b := .branchOff, mod := o.mod == 0 })
  | .callx o => some (o, { a := i64, b := .branchOff, mod := o.mod == 0 })
  | .ret o => some (o, { mod := o.mod == 0 })
  | .exit o => some (o, { mod := o.mod == 0 })
  | .yield o => some (o, { mod := o.mod == 0, pred := false })
  | .sleep o => some (o, { a := i32, mod := o.mod == 0 })
  | .brk o => some (o, { mod := o.mod == 0 })
  | .trap o => some (o, { a := .shortImm 32, mod := o.mod == 0 })
  | .cfetch o => some (o, { a := (if o.mod.getLsbD 0 then i32 else i64), mod := o.mod.toNat ≤ 1 })
  | .cpin o => some (o, { dst := .reg .w32, a := (if o.mod.getLsbD 0 then i32 else i64), mod := o.mod.toNat ≤ 1 })
  | .cunpin o => some (o, { a := (if o.mod.getLsbD 0 then i32 else i64), mod := o.mod.toNat ≤ 1 })
  | .iadd o => some (o, { dst := .reg .w32, a := i32, b := i32, mod := o.mod == 0 || o.mod == 1 || o.mod == 3 })
  | .isub o => some (o, { dst := .reg .w32, a := i32, b := i32, mod := o.mod == 0 || o.mod == 1 || o.mod == 3 })
  | .isum3 o => some (o, { dst := .reg .w32, a := i32, b := i32, c := i32, mod := o.mod.toNat ≤ 1 })
  | .imul o => some (o, { dst := .reg .w32, a := i32, b := i32, mod := o.mod == 0 })
  | .imulh o => some (o, { dst := .reg .w32, a := i32, b := i32, mod := o.mod.toNat ≤ 1 })
  | .imac o => some (o, { dst := .reg .w32, a := i32, b := i32, c := i32, mod := o.mod == 0 })
  | .imacw o => some (o, { dst := .reg .w64, a := i32, b := i32, c := i64, mod := o.mod.toNat ≤ 1 })
  | .iadd64 o => some (o, { dst := .reg .w64, a := i64, b := i64, mod := o.mod == 0 })
  | .isub64 o => some (o, { dst := .reg .w64, a := i64, b := i64, mod := o.mod == 0 })
  | .imin o => some (o, { dst := .reg .w32, a := i32, b := i32, mod := o.mod.toNat ≤ 1 })
  | .imax o => some (o, { dst := .reg .w32, a := i32, b := i32, mod := o.mod.toNat ≤ 1 })
  | .iabs o => some (o, { dst := .reg .w32, a := i32, mod := o.mod.toNat ≤ 1 })
  | .lea o => some (o, { dst := .reg .w32, a := i32, b := i32, c := .shortImm 32, mod := o.mod == 0 })
  | .lea64 o => some (o, { dst := .reg .w64, a := i32, b := i64, c := .shortImm 64, mod := o.mod.toNat ≤ 1 })
  | .idot4 o => some (o, { dst := .reg .w32, a := i32, b := i32, c := i32, mod := o.mod.toNat ≤ 3 })
  | .idot2 o => some (o, { dst := .reg .w32, a := i32, b := i32, c := i32, mod := o.mod.toNat ≤ 3 })
  | .and o => some (o, { dst := .reg .w32, a := i32, b := i32, mod := o.mod == 0 })
  | .or o => some (o, { dst := .reg .w32, a := i32, b := i32, mod := o.mod == 0 })
  | .xor o => some (o, { dst := .reg .w32, a := i32, b := i32, mod := o.mod == 0 })
  | .andn o => some (o, { dst := .reg .w32, a := i32, b := i32, mod := o.mod == 0 })
  | .lsel o => some (o, { dst := .rmw, a := i32, b := i32, c := .immOrImm32, mod := o.mod == 0 })
  | .shl o => some (o, { dst := .reg .w32, a := i32, b := i32, mod := o.mod == 0 })
  | .shr o => some (o, { dst := .reg .w32, a := i32, b := i32, mod := o.mod.toNat ≤ 1 })
  | .rot o => some (o, { dst := .reg .w32, a := i32, b := i32, mod := o.mod.toNat ≤ 1 })
  | .shd o => some (o, { dst := .reg .w32, a := i32, b := i32, c := i32, mod := o.mod.toNat ≤ 1 })
  | .popc o => some (o, { dst := .reg .w32, a := i32, mod := o.mod == 0 })
  | .clz o => some (o, { dst := .reg .w32, a := i32, mod := o.mod == 0 })
  | .brev o => some (o, { dst := .reg .w32, a := i32, mod := o.mod == 0 })
  | .xfld o => some (o, { dst := .reg .w32, a := i32, b := i32, mod := o.mod.toNat ≤ 1 })
  | .ifld o => some (o, { dst := .reg .w32, a := i32, b := i32, c := i32, mod := o.mod == 0 })
  | .bmux o => some (o, { dst := .reg .w32, a := i32, b := i32, c := i32, mod := o.mod == 0 })
  | .clmul o => some (o, { dst := .reg .w32, a := i32, b := i32, mod := o.mod.toNat ≤ 1 })
  | .icmp o => some (o, { dst := .reg .w32, a := i32, b := i32, mod := lo3 o.mod ≤ 5 })
  | .fcmp o => some (o, { dst := .reg .w32, a := f32, b := f32, mod := !(o.mod.getLsbD 3 && 6 ≤ lo3 o.mod) })
  | .sel o => some (o, { dst := .reg .w32, a := i32, b := i32, c := i32, mod := o.mod == 0 })
  | .mov o => some (o, { dst := .reg .w32, a := i32, mod := o.mod == 0 })
  | .movi o => some (o, { dst := .rmw, a := i32, mod := o.mod.toNat ≤ 1 })
  | .movs o => some (o, { dst := (if o.a == .imm 0x0E then .reg .w64 else .reg .w32), a := .shortImm 18, mod := o.mod == 0 })
  | .mov64 o => some (o, { dst := .reg .w64, a := i64, mod := o.mod == 0 })
  | .icmp64 o => some (o, { dst := .reg .w32, a := i64, b := i64, mod := lo3 o.mod ≤ 5 })
  | .fadd o => some (o, { dst := .reg .w32, a := f32, b := f32, mod := true })
  | .fmul o => some (o, { dst := .reg .w32, a := f32, b := f32, mod := true })
  | .ffma o => some (o, { dst := .reg .w32, a := f32, b := f32, c := f32, mod := true })
  | .fmin o => some (o, { dst := .reg .w32, a := f32, b := f32, mod := lo2 o.mod == 0 })
  | .fmax o => some (o, { dst := .reg .w32, a := f32, b := f32, mod := lo2 o.mod == 0 })
  | .frnd o => some (o, { dst := .reg .w32, a := f32, mod := !o.mod.getLsbD 4 })
  | .ffrc o => some (o, { dst := .reg .w32, a := f32, mod := !o.mod.getLsbD 4 })
  | .fscl o => some (o, { dst := .reg .w32, a := f32, b := i32, mod := !o.mod.getLsbD 4 })
  | .frcp o => some (o, { dst := .reg .w32, a := f32, mod := lo2 o.mod == 0 && !o.mod.getLsbD 4 })
  | .frsq o => some (o, { dst := .reg .w32, a := f32, mod := lo2 o.mod == 0 && !o.mod.getLsbD 4 })
  | .fsqrt o => some (o, { dst := .reg .w32, a := f32, mod := !o.mod.getLsbD 4 })
  | .fdiv o => some (o, { dst := .reg .w32, a := f32, b := f32, mod := true })
  | .fex2 o => some (o, { dst := .reg .w32, a := f32, mod := lo2 o.mod == 0 && !o.mod.getLsbD 4 })
  | .flg2 o => some (o, { dst := .reg .w32, a := f32, mod := lo2 o.mod == 0 && !o.mod.getLsbD 4 })
  | .fsin o => some (o, { dst := .reg .w32, a := f32, mod := lo2 o.mod == 0 && !o.mod.getLsbD 4 })
  | .fcos o => some (o, { dst := .reg .w32, a := f32, mod := lo2 o.mod == 0 && !o.mod.getLsbD 4 })
  | .hadd2 o => some (o, { dst := .reg .w32, a := (packed o), b := (packed o), mod := true })
  | .hmul2 o => some (o, { dst := .reg .w32, a := (packed o), b := (packed o), mod := true })
  | .hfma2 o => some (o, { dst := .reg .w32, a := (packed o), b := (packed o), c := (packed o), mod := true })
  | .hmin2 o => some (o, { dst := .reg .w32, a := (packed o), b := (packed o), mod := lo2 o.mod == 0 })
  | .hmax2 o => some (o, { dst := .reg .w32, a := (packed o), b := (packed o), mod := lo2 o.mod == 0 })
  | .fdp2 o => some (o, { dst := .reg .w32, a := (packed o), b := (packed o), c := f32, mod := true })
  | .fdp4 o => some (o, { dst := .reg .w32, a := i32, b := i32, c := f32, mod := true })
  | .f2i o => some (o, { dst := (if o.mod.getLsbD 4 then .reg .w64 else .reg .w32), a := f32, mod := true })
  | .i2f o => some (o, { dst := .reg .w32, a := (if o.mod.getLsbD 4 then i64 else i32), mod := !o.mod.getLsbD 2 })
  | .f2f o => some (o, { dst := .reg .w32, a := f32, b := .fmtImm, mod := lo2 o.mod != 3 && !o.mod.getLsbD 4 && (!o.mod.getLsbD 3 || o.b == .imm 5) })
  | .cvpk o => some (o, { dst := .reg .w32, a := f32, b := f32, c := (if 2 ≤ hi3 o.mod then i32 else .unused), mod := lo2 o.mod != 3 && hi3 o.mod ≤ 5 })
  | .cvup o => some (o, { dst := .reg .w32, a := i32, b := i32, mod := o.mod.toNat ≤ 5 })
  | .dsenc o => some (o, { dst := .reg .w32, a := f32, c := i32, mod := o.mod.toNat ≤ 2 })
  | .dsdec o => some (o, { dst := .reg .w32, a := i32, b := i32, mod := o.mod == 0 })
  | .relay o => some (o, { dst := .reg .w32, a := i32, b := i32, mod := o.mod.toNat ≤ 3 })
  | .poll o => some (o, { dst := .reg .w32, a := i32, mod := lo3 o.mod ≤ 4 && !o.mod.getLsbD 3 && (!o.mod.getLsbD 4 || lo3 o.mod == 0 || lo3 o.mod == 1 || lo3 o.mod == 3) })
  | .sred o => some (o, { dst := .reg .w32, a := (if o.mod.getLsbD 3 then f32 else i32), mod := o.mod.toNat ≤ 11 })
  | .sscan o => some (o, { dst := .reg .w32, a := (if o.mod.getLsbD 3 then f32 else i32), mod := o.mod.toNat ≤ 11 })
  | .matchv o => some (o, { dst := .reg .w32, a := (if o.mod.getLsbD 0 then i64 else i32), mod := o.mod.toNat ≤ 1 })
  | .firstv o => some (o, { dst := .reg .w32, a := i32, mod := o.mod.toNat ≤ 1 })
  | .ld o => some (o, { dst := (dstSize o), a := .ptr, mod := lo3 o.mod ≤ 4 && (!o.mod.getLsbD 3 || lo3 o.mod ≤ 1) && !o.mod.getLsbD 4, attr := memAttr (ord01 o) })
  | .st o => some (o, { a := .ptr, b := (dataSize o), mod := o.mod.toNat ≤ 4, attr := memAttr (ord02 o) })
  | .ldb o => some (o, { dst := (dstSize o), a := .recd, b := i64, mod := lo3 o.mod ≤ 3 && (!o.mod.getLsbD 3 || lo3 o.mod ≤ 1) && !o.mod.getLsbD 4, attr := recAttr (ord01 o) })
  | .stb o => some (o, { a := .recd, b := i64, c := (dataSize o), mod := o.mod.toNat ≤ 3, attr := recAttr (ord02 o) })
  | .ldtg o => some (o, { dst := .reg .w32, a := .ptr, b := i32, mod := o.mod == 0, attr := memAttr (ord01 o) })
  | .sttg o => some (o, { a := .ptr, b := i32, c := i32, mod := o.mod == 0, attr := memAttr (ord02 o) })
  | .tagrd o => some (o, { dst := .reg .w32, a := .ptr, mod := o.mod == 0, attr := memAttr (ord01 o) })
  | .tagwr o => some (o, { a := .ptr, b := i32, mod := o.mod == 0, attr := memAttr (ord02 o) })
  | .pref o => some (o, { a := .ptr, mod := o.mod.toNat ≤ 1, attr := memAttr (fun a => a.order == 0) })
  | .cctl o => some (o, { a := .ptr, mod := o.mod.toNat ≤ 2, attr := memAttr (fun a => a.order == 0 && a.policy == 0) })
  | .atom o => some (o, { dst := .reg .w32, a := .ptr, b := i32, mod := o.mod.toNat ≤ 10, attr := atomAttr (fun _ => true) })
  | .atom64 o => some (o, { dst := .reg .w64, a := .ptr, b := i64, mod := o.mod.toNat ≤ 10, attr := atomAttr (fun _ => true) })
  | .cas o => some (o, { dst := .reg .w32, a := .ptr, b := i32, c := i32, mod := o.mod == 0, attr := atomAttr (fun _ => true) })
  | .cas64 o => some (o, { dst := .reg .w64, a := .ptr, b := i64, c := i64, mod := o.mod == 0, attr := atomAttr (fun _ => true) })
  | .fatom o => some (o, { dst := .reg .w32, a := .ptr, b := f32, mod := o.mod.toNat ≤ 2, attr := atomAttr (fun _ => true) })
  | .hatom2 o => some (o, { dst := .reg .w32, a := .ptr, b := (packed o), mod := lo4 o.mod ≤ 2, attr := atomAttr (fun _ => true) })
  | .red o => some (o, { a := .ptr, b := (if o.mod.getLsbD 4 then i64 else i32), mod := lo4 o.mod ≤ 7, attr := atomAttr (fun a => a.order == 0 || a.order == 2) })
  | .fred o => some (o, { a := .ptr, b := (if lo4 o.mod == 3 then packed o else f32), mod := lo4 o.mod ≤ 3 && (!o.mod.getLsbD 4 || lo4 o.mod == 3), attr := atomAttr (fun a => a.order == 0 || a.order == 2) })
  | .cpy o => some (o, { a := (if lo3 o.mod == 0 then .recd else if lo3 o.mod == 1 then i64 else i32), b := .recd, c := (if lo3 o.mod == 2 then i32 else .unused), mod := lo3 o.mod ≤ 2 && !o.mod.getLsbD 4, attr := engAttr (fun a => a.policy == 0 && (a.order == 0 || a.order == 2)) })
  | .gath o => some (o, { a := i64, b := .recd, c := i32, mod := lo2 o.mod != 3 && !o.mod.getLsbD 4, attr := engAttr (fun a => a.order == 0 && gathOk o a) })
  | .bags o => some (o, { a := i64, b := .recd, c := i32, mod := o.mod &&& 0b10110 == 0, attr := engAttr (fun a => a.order == 0 && a.ispec == 0) })
  | .scad o => some (o, { a := i64, b := .recd, c := i32, mod := o.mod == 0, attr := engAttr (fun a => (a.order == 0 || a.order == 2) && a.ispec == 0 && a.offset == 0) })
  | .fill o => some (o, { a := .recd, b := i32, mod := o.mod == 0 || o.mod == 8, attr := engAttr (fun a => a.order == 0 && a.policy == 0) })
  | .waitc o => some (o, { a := .shortImm 64, mod := o.mod.toNat ≤ 3, attr := zeroAttr })
  | .cntrd o => some (o, { dst := .reg .w32, mod := o.mod.toNat ≤ 1, attr := zeroAttr })
  | .sclaim o => some (o, { dst := .reg .w32, a := i32, mod := o.mod == 0, attr := zeroAttr })
  | .srel o => some (o, { a := i32, b := i32, mod := o.mod == 0, attr := zeroAttr })
  | .swr o => some (o, { a := i32, b := i32, c := i32, mod := o.mod == 0, attr := zeroAttr })
  | .srd o => some (o, { dst := .reg .w32, a := i32, mod := o.mod.toNat ≤ 1, attr := zeroAttr })
  | .aclaim o => some (o, { dst := .reg .w32, a := i32, mod := o.mod == 0, attr := zeroAttr })
  | .arel o => some (o, { a := i32, b := i32, mod := o.mod == 0, attr := zeroAttr })
  | .mma o => some (o, { a := i32, b := i32, c := i32, mod := lo4 o.mod ≤ 9, attr := fun a => a.ispec.toNat ≤ 2 && { a with ispec := 0 } == Attr.zero })
  | .aclr o => some (o, { a := i32, mod := o.mod == 0, attr := zeroAttr })
  | .ard o => some (o, { dst := .reg .w64, a := i32, mod := o.mod == 0, attr := zeroAttr })
  | .awr o => some (o, { a := i32, b := .ptr, mod := o.mod == 0, attr := zeroAttr })
  | .aop o => some (o, { a := i32, b := (match lo2 o.mod with | 0 => f32 | 1 => .ptr | 2 => .unused | _ => f32), c := (if lo2 o.mod == 3 then f32 else .unused), mod := o.mod.toNat ≤ 3, attr := zeroAttr })
  | .adrn o => some (o, { a := i32, b := .recd, c := (if o.mod.getLsbD 2 then .recd else .unused), mod := lo2 o.mod != 3, attr := engAttr (fun a => (a.order == 0 || a.order == 2) && adrnOk o a) })
  | .fence o => some (o, { mod := o.mod == 0, attr := fun a => a.order != 0 && a.offset == 0 && a.policy == 0 && a.ispec == 0 })
  | .bar o => some (o, { a := .regOrImm, b := (if o.mod.getLsbD 1 then i32 else .unused), mod := o.mod.toNat ≤ 3, ext := o.ext == .none })
  | .bara o => some (o, { dst := .reg .w32, a := .regOrImm, b := (if o.mod.getLsbD 1 then i32 else .unused), mod := o.mod.toNat ≤ 3, ext := o.ext == .none })
  | .barw o => some (o, { a := .regOrImm, b := i32, mod := o.mod.toNat ≤ 1, ext := o.ext == .none })
  | .boinit o => some (o, { a := .ptr, b := i32, mod := o.mod == 0, attr := ctlAttr (fun a => a.order == 0) })
  | .boexp o => some (o, { a := .ptr, b := i32, mod := o.mod == 0, attr := ctlAttr (fun a => a.order == 0) })
  | .boarr o => some (o, { dst := .reg .w32, a := .ptr, b := i32, mod := o.mod == 0, attr := ctlAttr (fun a => a.order == 0 || a.order == 2) })
  | .bowait o => some (o, { a := .ptr, b := i32, mod := o.mod == 0, attr := ctlAttr (fun a => a.order == 0 || a.order == 1) })
  | .alinit o => some (o, { a := .ptr, b := i64, c := i32, mod := o.mod == 0, attr := fun a => a.order == 0 && a.policy == 0 && a.ispec.toNat ≤ 1 && 4 ≤ a.scope.toNat && a.scope.toNat ≤ 6 })
  | .altake o => some (o, { dst := .reg .w32, a := .ptr, b := i32, mod := o.mod.toNat ≤ 1, attr := ctlAttr (fun a => a.order == 0 || a.order == 1) })
  | .algive o => some (o, { a := .ptr, b := i32, mod := o.mod == 0, attr := ctlAttr (fun a => a.order == 0 || a.order == 2) })
  | .alread o => some (o, { dst := .reg .w64, a := .ptr, mod := o.mod == 0, attr := ctlAttr (fun a => a.order == 0) })
  | .alpeek o => some (o, { dst := .reg .w64, a := .ptr, mod := o.mod == 0, attr := ctlAttr (fun a => a.order == 0) })
  | .alclose o => some (o, { dst := .reg .w64, a := .ptr, mod := o.mod == 0, attr := ctlAttr (fun a => a.order == 0) })
  | .launch o => some (o, { dst := .reg .w32, a := i32, b := .ptr, mod := o.mod == 0, attr := ctlAttr (fun a => (a.order == 0 || a.order == 2) && a.offset == 0) })
  | .ndec o => some (o, { a := i32, mod := o.mod == 0, attr := ctlAttr (fun a => (a.order == 0 || a.order == 2) && a.offset == 0) })
  | .evsig o => some (o, { a := i32, b := i32, mod := o.mod == 0, attr := ctlAttr (fun a => (a.order == 0 || a.order == 2) && a.offset == 0) })
  | .csrrd o => some (o, { dst := (if o.mod.getLsbD 0 then .reg .w64 else .reg .w32), a := .csr, mod := o.mod.toNat ≤ 1 })
  | .csrwr o => some (o, { a := .csr, b := (if o.mod.getLsbD 0 then i64 else i32), mod := o.mod.toNat ≤ 1 })
  | .tret o => some (o, { mod := o.mod.toNat ≤ 1, pred := false })
  | .ctxsv o => some (o, { dst := .reg .w32, a := i32, b := i32, mod := o.mod.toNat ≤ 1 })
  | .ctxld o => some (o, { dst := .reg .w32, a := i32, mod := o.mod == 0 })
  | .xlinv o => some (o, { a := i64, b := i32, c := i32, mod := 3 ≤ o.mod.toNat && o.mod.toNat ≤ 5 })
  | _ => none

/-- The branch-form fields (R137). -/
def Instr.branch : Instr → Option BrOps
  | .bra o => some o
  | .brc o => some o
  | .call o => some o
  | _ => none

/-- The major opcode (R139); none for the machine's other steps. -/
def Instr.opcode : Instr → Option (BitVec 8)
  | .nop _ => some 0x00
  | .bra _ => some 0x01
  | .brc _ => some 0x02
  | .brx _ => some 0x03
  | .call _ => some 0x04
  | .callx _ => some 0x05
  | .ret _ => some 0x06
  | .exit _ => some 0x07
  | .yield _ => some 0x08
  | .sleep _ => some 0x09
  | .brk _ => some 0x0A
  | .trap _ => some 0x0B
  | .cfetch _ => some 0x0C
  | .cpin _ => some 0x0D
  | .cunpin _ => some 0x0E
  | .iadd _ => some 0x10
  | .isub _ => some 0x11
  | .isum3 _ => some 0x12
  | .imul _ => some 0x13
  | .imulh _ => some 0x14
  | .imac _ => some 0x15
  | .imacw _ => some 0x16
  | .iadd64 _ => some 0x17
  | .isub64 _ => some 0x18
  | .imin _ => some 0x19
  | .imax _ => some 0x1A
  | .iabs _ => some 0x1B
  | .lea _ => some 0x1C
  | .lea64 _ => some 0x1D
  | .idot4 _ => some 0x1E
  | .idot2 _ => some 0x1F
  | .and _ => some 0x20
  | .or _ => some 0x21
  | .xor _ => some 0x22
  | .andn _ => some 0x23
  | .lsel _ => some 0x24
  | .shl _ => some 0x25
  | .shr _ => some 0x26
  | .rot _ => some 0x27
  | .shd _ => some 0x28
  | .popc _ => some 0x29
  | .clz _ => some 0x2A
  | .brev _ => some 0x2B
  | .xfld _ => some 0x2C
  | .ifld _ => some 0x2D
  | .bmux _ => some 0x2E
  | .clmul _ => some 0x2F
  | .icmp _ => some 0x30
  | .fcmp _ => some 0x31
  | .sel _ => some 0x32
  | .mov _ => some 0x33
  | .movi _ => some 0x34
  | .movs _ => some 0x35
  | .mov64 _ => some 0x36
  | .icmp64 _ => some 0x37
  | .fadd _ => some 0x40
  | .fmul _ => some 0x41
  | .ffma _ => some 0x42
  | .fmin _ => some 0x43
  | .fmax _ => some 0x44
  | .frnd _ => some 0x45
  | .ffrc _ => some 0x46
  | .fscl _ => some 0x47
  | .frcp _ => some 0x48
  | .frsq _ => some 0x49
  | .fsqrt _ => some 0x4A
  | .fdiv _ => some 0x4B
  | .fex2 _ => some 0x4C
  | .flg2 _ => some 0x4D
  | .fsin _ => some 0x4E
  | .fcos _ => some 0x4F
  | .hadd2 _ => some 0x50
  | .hmul2 _ => some 0x51
  | .hfma2 _ => some 0x52
  | .hmin2 _ => some 0x53
  | .hmax2 _ => some 0x54
  | .fdp2 _ => some 0x55
  | .fdp4 _ => some 0x56
  | .f2i _ => some 0x57
  | .i2f _ => some 0x58
  | .f2f _ => some 0x59
  | .cvpk _ => some 0x5A
  | .cvup _ => some 0x5B
  | .dsenc _ => some 0x5C
  | .dsdec _ => some 0x5D
  | .relay _ => some 0x60
  | .poll _ => some 0x61
  | .sred _ => some 0x62
  | .sscan _ => some 0x63
  | .matchv _ => some 0x64
  | .firstv _ => some 0x65
  | .ld _ => some 0x70
  | .st _ => some 0x71
  | .ldb _ => some 0x72
  | .stb _ => some 0x73
  | .ldtg _ => some 0x74
  | .sttg _ => some 0x75
  | .tagrd _ => some 0x76
  | .tagwr _ => some 0x77
  | .pref _ => some 0x78
  | .cctl _ => some 0x79
  | .atom _ => some 0x80
  | .atom64 _ => some 0x81
  | .cas _ => some 0x82
  | .cas64 _ => some 0x83
  | .fatom _ => some 0x84
  | .hatom2 _ => some 0x85
  | .red _ => some 0x86
  | .fred _ => some 0x87
  | .cpy _ => some 0x90
  | .gath _ => some 0x91
  | .bags _ => some 0x92
  | .scad _ => some 0x93
  | .fill _ => some 0x94
  | .waitc _ => some 0x95
  | .cntrd _ => some 0x96
  | .sclaim _ => some 0xA0
  | .srel _ => some 0xA1
  | .swr _ => some 0xA2
  | .srd _ => some 0xA3
  | .aclaim _ => some 0xA4
  | .arel _ => some 0xA5
  | .mma _ => some 0xA6
  | .aclr _ => some 0xA7
  | .ard _ => some 0xA8
  | .awr _ => some 0xA9
  | .aop _ => some 0xAA
  | .adrn _ => some 0xAB
  | .fence _ => some 0xB0
  | .bar _ => some 0xB1
  | .bara _ => some 0xB2
  | .barw _ => some 0xB3
  | .boinit _ => some 0xB4
  | .boexp _ => some 0xB5
  | .boarr _ => some 0xB6
  | .bowait _ => some 0xB7
  | .alinit _ => some 0xB8
  | .altake _ => some 0xB9
  | .algive _ => some 0xBA
  | .alread _ => some 0xBB
  | .alpeek _ => some 0xBC
  | .alclose _ => some 0xBD
  | .launch _ => some 0xC0
  | .ndec _ => some 0xC1
  | .evsig _ => some 0xC2
  | .csrrd _ => some 0xF0
  | .csrwr _ => some 0xF1
  | .tret _ => some 0xF2
  | .ctxsv _ => some 0xF3
  | .ctxld _ => some 0xF4
  | .xlinv _ => some 0xF5
  | _ => none

/-- The instruction of a general-form opcode with the given fields (R139). -/
def Instr.ofGeneral (op : BitVec 8) (o : Ops) : Option Instr :=
  match op.toNat with
  | 0x00 => some (.nop o)
  | 0x03 => some (.brx o)
  | 0x05 => some (.callx o)
  | 0x06 => some (.ret o)
  | 0x07 => some (.exit o)
  | 0x08 => some (.yield o)
  | 0x09 => some (.sleep o)
  | 0x0A => some (.brk o)
  | 0x0B => some (.trap o)
  | 0x0C => some (.cfetch o)
  | 0x0D => some (.cpin o)
  | 0x0E => some (.cunpin o)
  | 0x10 => some (.iadd o)
  | 0x11 => some (.isub o)
  | 0x12 => some (.isum3 o)
  | 0x13 => some (.imul o)
  | 0x14 => some (.imulh o)
  | 0x15 => some (.imac o)
  | 0x16 => some (.imacw o)
  | 0x17 => some (.iadd64 o)
  | 0x18 => some (.isub64 o)
  | 0x19 => some (.imin o)
  | 0x1A => some (.imax o)
  | 0x1B => some (.iabs o)
  | 0x1C => some (.lea o)
  | 0x1D => some (.lea64 o)
  | 0x1E => some (.idot4 o)
  | 0x1F => some (.idot2 o)
  | 0x20 => some (.and o)
  | 0x21 => some (.or o)
  | 0x22 => some (.xor o)
  | 0x23 => some (.andn o)
  | 0x24 => some (.lsel o)
  | 0x25 => some (.shl o)
  | 0x26 => some (.shr o)
  | 0x27 => some (.rot o)
  | 0x28 => some (.shd o)
  | 0x29 => some (.popc o)
  | 0x2A => some (.clz o)
  | 0x2B => some (.brev o)
  | 0x2C => some (.xfld o)
  | 0x2D => some (.ifld o)
  | 0x2E => some (.bmux o)
  | 0x2F => some (.clmul o)
  | 0x30 => some (.icmp o)
  | 0x31 => some (.fcmp o)
  | 0x32 => some (.sel o)
  | 0x33 => some (.mov o)
  | 0x34 => some (.movi o)
  | 0x35 => some (.movs o)
  | 0x36 => some (.mov64 o)
  | 0x37 => some (.icmp64 o)
  | 0x40 => some (.fadd o)
  | 0x41 => some (.fmul o)
  | 0x42 => some (.ffma o)
  | 0x43 => some (.fmin o)
  | 0x44 => some (.fmax o)
  | 0x45 => some (.frnd o)
  | 0x46 => some (.ffrc o)
  | 0x47 => some (.fscl o)
  | 0x48 => some (.frcp o)
  | 0x49 => some (.frsq o)
  | 0x4A => some (.fsqrt o)
  | 0x4B => some (.fdiv o)
  | 0x4C => some (.fex2 o)
  | 0x4D => some (.flg2 o)
  | 0x4E => some (.fsin o)
  | 0x4F => some (.fcos o)
  | 0x50 => some (.hadd2 o)
  | 0x51 => some (.hmul2 o)
  | 0x52 => some (.hfma2 o)
  | 0x53 => some (.hmin2 o)
  | 0x54 => some (.hmax2 o)
  | 0x55 => some (.fdp2 o)
  | 0x56 => some (.fdp4 o)
  | 0x57 => some (.f2i o)
  | 0x58 => some (.i2f o)
  | 0x59 => some (.f2f o)
  | 0x5A => some (.cvpk o)
  | 0x5B => some (.cvup o)
  | 0x5C => some (.dsenc o)
  | 0x5D => some (.dsdec o)
  | 0x60 => some (.relay o)
  | 0x61 => some (.poll o)
  | 0x62 => some (.sred o)
  | 0x63 => some (.sscan o)
  | 0x64 => some (.matchv o)
  | 0x65 => some (.firstv o)
  | 0x70 => some (.ld o)
  | 0x71 => some (.st o)
  | 0x72 => some (.ldb o)
  | 0x73 => some (.stb o)
  | 0x74 => some (.ldtg o)
  | 0x75 => some (.sttg o)
  | 0x76 => some (.tagrd o)
  | 0x77 => some (.tagwr o)
  | 0x78 => some (.pref o)
  | 0x79 => some (.cctl o)
  | 0x80 => some (.atom o)
  | 0x81 => some (.atom64 o)
  | 0x82 => some (.cas o)
  | 0x83 => some (.cas64 o)
  | 0x84 => some (.fatom o)
  | 0x85 => some (.hatom2 o)
  | 0x86 => some (.red o)
  | 0x87 => some (.fred o)
  | 0x90 => some (.cpy o)
  | 0x91 => some (.gath o)
  | 0x92 => some (.bags o)
  | 0x93 => some (.scad o)
  | 0x94 => some (.fill o)
  | 0x95 => some (.waitc o)
  | 0x96 => some (.cntrd o)
  | 0xA0 => some (.sclaim o)
  | 0xA1 => some (.srel o)
  | 0xA2 => some (.swr o)
  | 0xA3 => some (.srd o)
  | 0xA4 => some (.aclaim o)
  | 0xA5 => some (.arel o)
  | 0xA6 => some (.mma o)
  | 0xA7 => some (.aclr o)
  | 0xA8 => some (.ard o)
  | 0xA9 => some (.awr o)
  | 0xAA => some (.aop o)
  | 0xAB => some (.adrn o)
  | 0xB0 => some (.fence o)
  | 0xB1 => some (.bar o)
  | 0xB2 => some (.bara o)
  | 0xB3 => some (.barw o)
  | 0xB4 => some (.boinit o)
  | 0xB5 => some (.boexp o)
  | 0xB6 => some (.boarr o)
  | 0xB7 => some (.bowait o)
  | 0xB8 => some (.alinit o)
  | 0xB9 => some (.altake o)
  | 0xBA => some (.algive o)
  | 0xBB => some (.alread o)
  | 0xBC => some (.alpeek o)
  | 0xBD => some (.alclose o)
  | 0xC0 => some (.launch o)
  | 0xC1 => some (.ndec o)
  | 0xC2 => some (.evsig o)
  | 0xF0 => some (.csrrd o)
  | 0xF1 => some (.csrwr o)
  | 0xF2 => some (.tret o)
  | 0xF3 => some (.ctxsv o)
  | 0xF4 => some (.ctxld o)
  | 0xF5 => some (.xlinv o)
  | _ => none

/-- The instruction of a branch-form opcode with the given fields (R137, R139). -/
def Instr.ofBranch (op : BitVec 8) (o : BrOps) : Option Instr :=
  match op.toNat with
  | 0x01 => some (.bra o)
  | 0x02 => some (.brc o)
  | 0x04 => some (.call o)
  | _ => none

/-- Step 3 for one source field (R128, R131): the kind is accepted in the position and kind 10 has a word to take. -/
def Pos.accepts (p : Pos) (o : Ops) (s : Src) : Bool :=
  match p, s with
  | .unused, s => s == .reg 0
  | .val _ _, .reg _ => true
  | .val w _, .latch _ => w != .w128
  | .val w _, .ext => w != .w128 && (match o.ext with | .imm32 _ => true | .const _ _ => true | _ => false)
  | .val w _, .imm _ => w != .w128
  | .ptr, .reg _ => true
  | .ptr, .latch _ => true
  | .quad, .reg _ => true
  | .recd, .reg _ => true
  | .recd, .ext => (match o.ext with | .const _ _ => true | _ => false)
  | .shortImm n, .imm v => v.toNat < n && v.toNat < 128
  | .fmtImm, .imm v => 2 ≤ v.toNat && v.toNat ≤ 6
  | .branchOff, .imm v => 1 ≤ v.toNat && v.toNat ≤ 127
  | .branchOff, .ext => (match o.ext with | .imm32 v => 1 ≤ v.toNat && v.toNat ≤ 1048575 | _ => false)
  | .immOrImm32, .imm _ => true
  | .immOrImm32, .ext => (match o.ext with | .imm32 _ => true | _ => false)
  | .regOrImm, .reg _ => true
  | .regOrImm, .imm _ => true
  | .csr, .imm v => v.toNat < 128 && csrWidth v.toNat == some (if o.mod.getLsbD 0 then .w64 else .w32)
  | _, _ => false

/-- An IMM32 or CONST word is named by a source, and ATTR stands only on groups 0x7 to 0xC (R133). -/
def extUseOk (op : Nat) (o : Ops) : Bool :=
  match o.ext with
  | .none => true
  | .attr _ => 0x70 ≤ op && op < 0xD0
  | _ => o.a == .ext || o.b == .ext || o.c == .ext

/-- D, NW and LS are 0 without a register result, and NW is 0 where D is also read (R127, R194, R200). -/
def dstOk (o : Ops) : Dst → Bool
  | .none => o.d == 0 && !o.nw && !o.ls
  | .reg _ => true
  | .rmw => !o.nw

/-- Step 3 of decode (R142) for the general form. -/
def generalOk (op : BitVec 8) (o : Ops) (f : Form) : Bool :=
  f.mod && f.ext && dstOk o f.dst && f.a.accepts o o.a && f.b.accepts o o.b && f.c.accepts o o.c
    && f.attr o.attr && extUseOk op.toNat o
    && (!o.hd || (0x10 ≤ op.toNat && op.toNat < 0x70))
    && (if f.pred then !(o.p == 0 && o.pn) else o.p == 0 && !o.pn)

/-- Step 3 of decode for the branch form (R138). -/
def branchOk (op : BitVec 8) (o : BrOps) : Bool :=
  if op == 2 then o.p != 0 && o.rcv != 0 else o.p == 0 && !o.pn && o.rcv == 0

/-- The register quantities of step 4: the highest index a width reaches, and whether the base is aligned (R129). -/
def Width.span : Width → Nat
  | .w32 => 1
  | .w64 => 2
  | .w128 => 4

/-- A register base of a width in a kernel of n registers (R33, R129). -/
def Width.regOk (w : Width) (n : Nat) (i : BitVec 8) : Bool :=
  i.toNat % w.span == 0 && i.toNat + w.span ≤ n

/-- The width a position reads registers at. -/
def Pos.width : Pos → Width
  | .val w _ => w
  | .ptr => .w64
  | .recd => .w64
  | .quad => .w128
  | _ => .w32

/-- The type a position's short immediate has (R130). -/
def Pos.immTy : Pos → ImmTy
  | .val _ ty => ty
  | _ => .int

/-- The width of a destination. -/
def Dst.width : Dst → Width
  | .reg w => w
  | _ => .w32

/-- Step 4 for one source field: register index and alignment, and the even CONST offset of a 64-bit position (R131). -/
def Pos.operandOk (p : Pos) (n : Nat) (o : Ops) (s : Src) : Bool :=
  match p, s with
  | .unused, _ => true
  | p, .reg i => p.width.regOk n i
  | .val .w64 _, .ext => (match o.ext with | .const _ k => k.toNat % 2 == 0 | _ => true)
  | _, _ => true

/-- Step 4 of decode (R142) for the general form: indices below n, alignment, even CONST offsets. -/
def operandsOk (n : Nat) (o : Ops) (f : Form) : Bool :=
  o.p.toNat < n && f.a.operandOk n o o.a && f.b.operandOk n o o.b && f.c.operandOk n o o.c
    && (match f.dst with
        | .none => true
        | .reg w => o.nw || w.regOk n o.d
        | .rmw => Width.w32.regOk n o.d)

end Sys2Proof
end

