-- ==== Sys2Proof/Machine/Flags.lean ====
section
/-! DEFINITION. Conditions: the machine has no flags register (R73), and every comparison writes a register. The conditions
of ICMP and ICMP64 (R136, R198), of FCMP (R199), the predicate of a thread (R36) and the truth values written. -/

namespace Sys2Proof.Machine

/-- MOD[2:0] of ICMP and ICMP64: eq, ne, lt, le, gt, ge on exact integers (R136). -/
def intCond (m : BitVec 5) (a b : Int) : Bool :=
  match lo3 m with
  | 0 => a == b
  | 1 => a != b
  | 2 => a < b
  | 3 => a ≤ b
  | 4 => b < a
  | _ => b ≤ a

/-- The integer an operand of width w stands for, unsigned with MOD[3] (R136). -/
def cmpInt {w : Nat} (m : BitVec 5) (a : BitVec w) : Int := if m.getLsbD 3 then (a.toNat : Int) else a.toInt

/-- 1 or the all-ones word of MOD[4] (R198, R199), and 0 when the condition fails. -/
def truth (wide cond : Bool) : Word := if cond then (if wide then 0xFFFFFFFF#32 else 1#32) else 0#32

/-- FCMP's conditions (R199); comparisons are exact and −0 equals +0. -/
def fpCond (m : BitVec 5) (a b : FVal) : Bool :=
  let un := a.isNaN || b.isNaN
  let eq := a.eqv b
  let lt := !eq && a.lt b
  let gt := !eq && b.lt a
  match lo3 m with
  | 6 => un
  | 7 => !un
  | c =>
    if un then m.getLsbD 3
    else match c with
      | 0 => eq
      | 1 => !eq
      | 2 => lt
      | 3 => lt || eq
      | 4 => gt
      | _ => gt || eq

/-- A thread's predicate (R36): true where the register is nonzero, inverted by PN. -/
def predTrue (pn : Bool) (v : Word) : Bool := (v != 0) != pn

end Sys2Proof.Machine
end

