-- ==== Sys2Proof/Config.lean ====
section
/-! DEFINITION. What an implementation fixes and the spec leaves open: constants with no body. A statement about the model
holds whatever they are. -/

namespace Sys2Proof

/-- The instructions whose results R75 bounds but does not state. -/
inductive TransOp where
  | rcp | rsq | ex2 | lg2 | sin | cos
  deriving DecidableEq, Repr

/-- The fixed function of each transcendental instruction (R75): any word, taken where it meets the bound (log 20). -/
opaque Config.transcendental : TransOp → Word → Word

/-- Values that the spec leaves undefined in a state the machine goes on from: one word for each value of the state's
counter `free` (log 13). -/
opaque Config.freeWord : Nat → Word
opaque Config.freeDWord : Nat → DWord
opaque Config.freeBlk : Nat → Blk
/-- The workgroup tags that a package gives to its workgroups, by the order in which they were placed (log 22). -/
opaque Config.wgTag : Nat → Word

/-- Prosy's route table of Troxia ports: the ports that reach a package, first choice first (R402). -/
opaque Config.podRoute : Nat → List Nat
/-- What a flit's payload says where it carries an answer of another package: the request's number, the cause of a failure or 0,
the block, its tag, an atomic's old values by thread (R400; log 23). -/
opaque Config.flitRequest : List Byte → Nat
opaque Config.flitCause : List Byte → Nat
opaque Config.flitBlk : List Byte → Blk
opaque Config.flitTag : List Byte → Tag
opaque Config.flitOld : List Byte → Nat → DWord
/-- What an answer to a take says: whether the home served it exactly, with what units, and the counter's state (R353, R415). -/
opaque Config.flitExact : List Byte → Bool
opaque Config.flitUnits : List Byte → Nat
opaque Config.flitState : List Byte → Nat
/-- What a flit says of the other end: that it has rejected the flit after the one it acknowledges, that it has erased its old key (R400, R401; log
79). -/
opaque Config.flitRejects : List Byte → Bool
opaque Config.flitErased : List Byte → Bool
/-- The AES-GCM-256 tag of a flit that a port sends: port, sequence number and key epoch of its nonce, acknowledgement, request (R400; log 23). -/
opaque Config.flitTagOf : Nat → BitVec 24 → Nat → BitVec 24 → Nat → BitVec 128
/-- The quanta of a counter of another package, and its NOGIVE, by ASID and address (R351, R352; log 23). -/
opaque Config.podQuanta : BitVec 16 → DWord → Nat × Nat
opaque Config.podNoGive : BitVec 16 → DWord → Bool
/-- The entries of a slice's pending write table beyond the first (R319; log 42). -/
opaque Config.pendingWrites : Nat
/-- SHA-384, and the verification of a signature: key, signature, digest (R16, R17, R21). -/
opaque Config.sha384 : List Byte → List Byte
opaque Config.verifyEd : List Byte → List Byte → List Byte → Bool
opaque Config.verifyMl : List Byte → List Byte → List Byte → Bool
/-- The public key of a seed, and the signature that a seed's key makes of a digest, for Ed25519 and ML-DSA-65 (R20, R21; log 107). -/
opaque Config.keyEd : List Byte → List Byte
opaque Config.keyMl : List Byte → List Byte
opaque Config.signEd : List Byte → List Byte → List Byte
opaque Config.signMl : List Byte → List Byte → List Byte
/-- The class codes with which the host port enumerates in recovery and otherwise (R18). -/
opaque Config.recoveryClass : Word
opaque Config.deviceClass : Word
/-- How a manifest and image set is laid out (R16, R17; log 4): the manifest's bytes, its keys and signatures, its version; for each image the
listed length and digest, and the image's bytes where it is there. -/
opaque Config.setBody : List Byte → List Byte
opaque Config.setKeyEd : List Byte → List Byte
opaque Config.setKeyMl : List Byte → List Byte
opaque Config.setSigEd : List Byte → List Byte
opaque Config.setSigMl : List Byte → List Byte
opaque Config.setVersion : List Byte → Nat
opaque Config.setImages : List Byte → List (Nat × List Byte × Option (List Byte))
/-- The pseudo-channel of an offset within a stack (R404; log 24). -/
opaque Config.pseudoChannel : Nat → Nat

end Sys2Proof
end

