-- ==== Sys2Proof/Machine/Transc.lean ====
section
/-! DEFINITION. FRCP, FRSQ, FEX2, FLG2, FSIN and FCOS (R75): the special values of the table, and for every other input the
implementation's own word where it lies within the stated bound of a fixed-point approximation of the exact value, else the
approximation rounded (log 20). -/

namespace Sys2Proof.Machine

/-- The exponent of one ulp of FP32 at a nonzero value. -/
def ulpExp (m : Nat) (e : Int) : Int := max (e + (Nat.log2 m : Int) - 23) (-149)

/-- |c − y| ≤ k·2^u for finite values. -/
def withinBound (c y : FVal) (k : Nat) (u : Int) : Bool :=
  match c, y with
  | .fin nc mc ec, .fin ny my ey =>
    let q := min (min ec ey) u
    (signedAt nc mc ec q - signedAt ny my ey q).natAbs ≤ k <<< (u - q).toNat
  | _, _ => false

/-- The error bound of a transcendental at input x with approximation y: a count of units of 2^u (R75). -/
def transBound (op : TransOp) (x y : FVal) : Nat × Int :=
  let ulps (k : Nat) : Nat × Int := match y with
    | .fin _ m e => (k, if m == 0 then -149 else ulpExp m e)
    | _ => (0, 0)
  match op with
  | .rcp => ulps 1
  | .rsq => ulps 1
  | .ex2 => ulps 2
  | .lg2 =>
    let half := FVal.fin false 1 (-1)
    let two := FVal.fin false 2 0
    if !(x.lt half) && !(two.lt x) then (1, -22) else ulps 2
  | .sin => (1, -21)
  | .cos => (1, -21)

/-- ln 2 and 2π in units of 2^−128, and 1/2π in units of 2^−320. -/
def ln2Fixed : Nat := 0xb17217f7d1cf79abc9e3b39803f2f6af
def twoPiFixed : Nat := 0x6487ed5110b4611a62633145c06e0e689
def invTwoPiFixed : Nat := 0x28be60db9391054a7f09d5f47d4d377036d8a5664f10e4107f9458eaf7aef1586dc91b8e909374b8

/-- The sum of t^k/k! in units of 2^−128. -/
def expSeries (t : Nat) : Nat :=
  ((List.range 40).foldl (fun (p : Nat × Nat) k => (p.1 + p.2, (p.2 * t) >>> 128 / (k + 1))) (0, 2 ^ 128)).1

/-- 2^x for a finite x between −160 and 160. -/
def ex2Approx (n : Bool) (m : Nat) (e : Int) : FVal :=
  let fixed : Int := if 0 ≤ e + 128 then ((m <<< (e + 128).toNat : Nat) : Int) else ((m >>> (-(e + 128)).toNat : Nat) : Int)
  let fixed := if n then -fixed else fixed
  let whole := fixed / (2 ^ 128 : Int)
  let frac := (fixed % (2 ^ 128 : Int)).toNat
  .fin false (expSeries ((frac * ln2Fixed) >>> 128)) (whole - 128)

/-- The fraction bits of log₂ of w·2^−160 in [1, 2), most significant first, by repeated squaring. -/
def log2Bits : Nat → Nat → Nat → Nat
  | 0, _, acc => acc
  | k + 1, w, acc =>
    let q := (w * w) >>> 160
    if 2 ^ 161 ≤ q then log2Bits k (q >>> 1) (2 * acc + 1) else log2Bits k q (2 * acc)

/-- log₂ x for a positive finite x. -/
def lg2Approx (m : Nat) (e : Int) : FVal :=
  let l := Nat.log2 m
  FVal.ofInt .rne ((e + (l : Int)) * (2 ^ 80 : Int) + (log2Bits 80 (m <<< (160 - l)) 0 : Int)) (-80)

/-- The series Σ (−1)^k θ^(2k+odd) / (2k+odd)! in units of 2^−128. -/
def trigSeries (odd : Nat) (t : Int) : Int :=
  let sq := (t * t) / (2 ^ 128 : Int)
  let t0 : Int := if odd == 1 then t else (2 ^ 128 : Int)
  ((List.range 40).foldl (fun (p : Int × Int) k =>
    (p.1 + p.2, -(p.2 * sq / (2 ^ 128 : Int)) / (((2 * k + 1 + odd) * (2 * k + 2 + odd) : Nat) : Int))) (0, t0)).1

/-- Sine or cosine with exact argument reduction. -/
def trigApprox (odd : Nat) (n : Bool) (m : Nat) (e : Int) : FVal :=
  let sh := (320 - e).toNat
  let frac := ((m * invTwoPiFixed) % 2 ^ sh) >>> (sh - 128)
  let v := trigSeries odd ((((frac * twoPiFixed) >>> 128 : Nat)) : Int)
  FVal.ofInt .rne (if n && odd == 1 then -v else v) (-128)

/-- The exact value of a transcendental to well below its bound. -/
def transApprox (op : TransOp) (x : FVal) : FVal :=
  match x with
  | .fin n m e =>
    match op with
    | .rcp => FVal.div FVal.one x
    | .rsq => FVal.sqrt (FVal.div FVal.one x)
    | .ex2 => ex2Approx n m e
    | .lg2 => lg2Approx m e
    | .sin => trigApprox 1 n m e
    | .cos => trigApprox 0 n m e
  | v => v

/-- The fixed special values of R75; none for an input whose result is only bounded. -/
def transSpecial (op : TransOp) (x : FVal) : Option FVal :=
  match x with
  | .nan => some .nan
  | .inf n =>
    some (match op with
      | .rcp => .fin n 0 0
      | .rsq => if n then .nan else FVal.zero
      | .ex2 => if n then FVal.zero else .inf false
      | .lg2 => if n then .nan else .inf false
      | .sin => .nan
      | .cos => .nan)
  | .fin n m _ =>
    if m == 0 then
      match op with
      | .rcp => some (.inf n)
      | .rsq => some (.inf n)
      | .lg2 => some (.inf true)
      | .sin => some x
      | .cos => some FVal.one
      | .ex2 => none
    else
      match op with
      | .rsq => if n then some .nan else none
      | .lg2 => if n then some .nan else if x.eqv FVal.one then some FVal.zero else none
      | .ex2 =>
        if !n && !(x.lt (.fin false 128 0)) then some (.inf false)
        else if x.lt (.fin true 150 0) then some FVal.zero
        else none
      | .rcp => none
      | .sin => none
      | .cos => none

/-- A transcendental instruction's result before output flush (R75): special values; otherwise the implementation's word
if it meets the bound, and the rounded exact value if not. -/
def transcendental (op : TransOp) (x : FVal) : FVal :=
  match transSpecial op x with
  | some v => v
  | none =>
    let y := transApprox op x
    let best := toFP32 .rne y
    let c := ofFP32 (Config.transcendental op (toFP32 .rne x))
    let (k, u) := transBound op x y
    if (ofFP32 best).isInf then ofFP32 best
    else if withinBound c y k u then c else ofFP32 best

end Sys2Proof.Machine
end

