-- ==== Sys2Proof/Machine/Alu.lean ====
section
/-! DEFINITION. The result of every instruction of groups 0x1 to 0x5 in one thread (R190 to R213), as functions of the values
its sources give. -/

namespace Sys2Proof.Machine

/-- What one executing thread gives an instruction: the values of A, B and C (32-bit values in the low half), the old value
of D, and the thread's generator word (R78) where SR is selected. -/
structure LaneIn where
  a   : DWord
  b   : DWord
  c   : DWord
  old : Word
  rnd : Word
  deriving DecidableEq, Repr

def low (x : DWord) : Word := x.extractLsb' 0 32
def wide (x : Word) : DWord := x.setWidth 64
/-- An unsigned or signed reading of a value. -/
def intOf {w : Nat} (uns : Bool) (x : BitVec w) : Int := if uns then (x.toNat : Int) else x.toInt
def wrap32 (k : Int) : Word := BitVec.ofInt 32 k
def wrap64 (k : Int) : DWord := BitVec.ofInt 64 k
/-- Limits an integer to a range (R177). -/
def clampInt (lo hi k : Int) : Int := if k < lo then lo else if hi < k then hi else k

/-! Integer (R190 to R192). -/

/-- Saturation of IADD and ISUB (R191). -/
def satAdd (m : BitVec 5) (f : Int → Int → Int) (a b : Word) : Word :=
  if m.getLsbD 0 then
    if m.getLsbD 1 then wrap32 (clampInt 0 (2 ^ 32 - 1) (f a.toNat b.toNat))
    else wrap32 (clampInt (-(2 ^ 31)) (2 ^ 31 - 1) (f a.toInt b.toInt))
  else wrap32 (f a.toInt b.toInt)

def aluIadd (m : BitVec 5) (v : LaneIn) : DWord := wide (satAdd m (· + ·) (low v.a) (low v.b))
def aluIsub (m : BitVec 5) (v : LaneIn) : DWord := wide (satAdd m (· - ·) (low v.a) (low v.b))
def aluIsum3 (m : BitVec 5) (v : LaneIn) : DWord :=
  wide (if m.getLsbD 0 then low v.a + low v.b - low v.c else low v.a + low v.b + low v.c)
def aluImul (v : LaneIn) : DWord := wide (low v.a * low v.b)
/-- The exact product of two words, by sign (R190). -/
def mulInt (uns : Bool) (a b : Word) : Int := intOf uns a * intOf uns b
def aluImulh (m : BitVec 5) (v : LaneIn) : DWord :=
  wide (wrap32 (mulInt (m.getLsbD 0) (low v.a) (low v.b) / 2 ^ 32))
def aluImac (v : LaneIn) : DWord := wide (low v.a * low v.b + low v.c)
def aluImacw (m : BitVec 5) (v : LaneIn) : DWord := wrap64 (mulInt (m.getLsbD 0) (low v.a) (low v.b)) + v.c
def aluIadd64 (v : LaneIn) : DWord := v.a + v.b
def aluIsub64 (v : LaneIn) : DWord := v.a - v.b
def aluImin (m : BitVec 5) (v : LaneIn) : DWord :=
  wide (if intOf (m.getLsbD 0) (low v.b) < intOf (m.getLsbD 0) (low v.a) then low v.b else low v.a)
def aluImax (m : BitVec 5) (v : LaneIn) : DWord :=
  wide (if intOf (m.getLsbD 0) (low v.a) < intOf (m.getLsbD 0) (low v.b) then low v.b else low v.a)
def aluIabs (m : BitVec 5) (v : LaneIn) : DWord :=
  let k : Int := (low v.a).toInt.natAbs
  wide (wrap32 (if m.getLsbD 0 then clampInt 0 (2 ^ 31 - 1) k else k))
def aluLea (v : LaneIn) : DWord := wide ((low v.a) <<< (low v.c).toNat + low v.b)
def aluLea64 (m : BitVec 5) (v : LaneIn) : DWord :=
  (if m.getLsbD 0 then (low v.a).signExtend 64 else (low v.a).setWidth 64) <<< (low v.c).toNat + v.b
/-- Σ of element products of a packed integer pair, each element signed unless its flag is set (R192). -/
def dotInt (count width : Nat) (m : BitVec 5) (a b : Word) : Int :=
  (List.range count).foldl (fun s i =>
    s + intOf (m.getLsbD 0) (a.extractLsb' (width * i) width) * intOf (m.getLsbD 1) (b.extractLsb' (width * i) width)) 0
def aluIdot4 (m : BitVec 5) (v : LaneIn) : DWord := wide (wrap32 ((low v.c).toNat + dotInt 4 8 m (low v.a) (low v.b)))
def aluIdot2 (m : BitVec 5) (v : LaneIn) : DWord := wide (wrap32 ((low v.c).toNat + dotInt 2 16 m (low v.a) (low v.b)))

/-! Logic and bits (R193 to R197). -/

def aluAnd (v : LaneIn) : DWord := wide (low v.a &&& low v.b)
def aluOr (v : LaneIn) : DWord := wide (low v.a ||| low v.b)
def aluXor (v : LaneIn) : DWord := wide (low v.a ^^^ low v.b)
def aluAndn (v : LaneIn) : DWord := wide (low v.a &&& ~~~(low v.b))
/-- One bit of LSEL (R194). -/
def lselBit (f : Word) (old b a : Bool) : Bool :=
  f.getLsbD ((if old then 4 else 0) + (if b then 2 else 0) + (if a then 1 else 0))
/-- A word from its bits. -/
def wordOfBits (f : Nat → Bool) : Word :=
  BitVec.ofNat 32 ((List.range 32).foldl (fun s i => if f i then s + 2 ^ i else s) 0)
def aluLsel (v : LaneIn) : DWord :=
  wide (wordOfBits (fun i => lselBit (low v.c) (v.old.getLsbD i) (v.b.getLsbD i) (v.a.getLsbD i)))
def aluShl (v : LaneIn) : DWord := wide (if (low v.b).toNat < 32 then low v.a <<< (low v.b).toNat else 0#32)
def aluShr (m : BitVec 5) (v : LaneIn) : DWord :=
  wide (if m.getLsbD 0 then (low v.a).sshiftRight (low v.b).toNat else low v.a >>> (low v.b).toNat)
def aluRot (m : BitVec 5) (v : LaneIn) : DWord :=
  let k := (low v.b).toNat % 32
  wide (if m.getLsbD 0 then (low v.a).rotateRight k else (low v.a).rotateLeft k)
def aluShd (m : BitVec 5) (v : LaneIn) : DWord :=
  let w : DWord := low v.a ++ low v.b
  let k := (low v.c).toNat % 32
  wide (if m.getLsbD 0 then (w >>> k).extractLsb' 0 32 else (w <<< k).extractLsb' 32 32)
def popCount (x : Word) : Nat := (List.range 32).foldl (fun s i => if x.getLsbD i then s + 1 else s) 0
def aluPopc (v : LaneIn) : DWord := wide (BitVec.ofNat 32 (popCount (low v.a)))
def aluClz (v : LaneIn) : DWord :=
  wide (BitVec.ofNat 32 (if low v.a == 0 then 32 else 31 - Nat.log2 (low v.a).toNat))
def aluBrev (v : LaneIn) : DWord := wide (wordOfBits (fun i => v.a.getLsbD (31 - i)))
/-- Position and length of a bit-field descriptor (R196). -/
def fieldPos (d : Word) : Nat := d.toNat % 32
def fieldLen (d : Word) : Nat := min (d.toNat / 32 % 64) 32
def aluXfld (m : BitVec 5) (v : LaneIn) : DWord :=
  let pos := fieldPos (low v.b)
  let len := fieldLen (low v.b)
  let sx := m.getLsbD 0
  let f := ((if sx then (low v.a).signExtend 64 else (low v.a).setWidth 64) >>> pos).toNat % 2 ^ len
  wide (if len == 0 then 0#32
        else if sx && 2 ^ (len - 1) ≤ f then wrap32 ((f : Int) - 2 ^ len)
        else BitVec.ofNat 32 f)
def aluIfld (v : LaneIn) : DWord :=
  let pos := fieldPos (low v.c)
  let mask : Word := BitVec.ofNat 32 ((2 ^ fieldLen (low v.c) - 1) <<< pos)
  wide ((low v.a &&& ~~~mask) ||| ((low v.b <<< pos) &&& mask))
/-- One byte of BMUX under its selector (R196). -/
def bmuxByte (x : DWord) (s : BitVec 5) : Byte :=
  let y : Byte := x.extractLsb' (8 * (s.toNat % 8)) 8
  match s.toNat / 8 with
  | 0 => y
  | 1 => if y.getLsbD 7 then 0xFF else 0x00
  | 2 => 0x00
  | _ => 0xFF
def aluBmux (v : LaneIn) : DWord :=
  let x : DWord := low v.b ++ low v.a
  let byte (i : Nat) : Byte := bmuxByte x (v.c.extractLsb' (5 * i) 5)
  wide (byte 3 ++ byte 2 ++ byte 1 ++ byte 0)
/-- The carry-less product (R197). -/
def clmulNat (a : DWord) (b : Word) : DWord :=
  (List.range 32).foldl (fun p i => if b.getLsbD i then p ^^^ (a <<< i) else p) 0
def aluClmul (m : BitVec 5) (v : LaneIn) : DWord :=
  let p := clmulNat (wide (low v.a)) (low v.b)
  wide (if m.getLsbD 0 then p.extractLsb' 32 32 else low p)

/-! Compare and move (R198 to R200). -/

def aluIcmp (m : BitVec 5) (v : LaneIn) : DWord :=
  wide (truth (m.getLsbD 4) (intCond m (cmpInt m (low v.a)) (cmpInt m (low v.b))))
def aluIcmp64 (m : BitVec 5) (v : LaneIn) : DWord :=
  wide (truth (m.getLsbD 4) (intCond m (cmpInt m v.a) (cmpInt m v.b)))
def aluFcmp (m : BitVec 5) (v : LaneIn) : DWord :=
  wide (truth (m.getLsbD 4) (fpCond m (ofFP32 (low v.a)) (ofFP32 (low v.b))))
def aluSel (v : LaneIn) : DWord := wide (if low v.c != 0 then low v.a else low v.b)
def aluMov (v : LaneIn) : DWord := wide (low v.a)
def aluMovi (m : BitVec 5) (v : LaneIn) : DWord :=
  let h : BitVec 16 := v.a.extractLsb' 0 16
  wide (if m.getLsbD 0 then h ++ v.old.extractLsb' 0 16 else v.old.extractLsb' 16 16 ++ h)
def aluMov64 (v : LaneIn) : DWord := v.a

/-! FP32 (R202 to R204). -/

def modFtz (m : BitVec 5) : Bool := m.getLsbD 2
/-- An FP32 source with the negate and flush modifiers: negation comes before any other step (R202). -/
def fpIn (m : BitVec 5) (neg : Bool) (x : Word) : FVal :=
  fmtFP32.decodeFtz (modFtz m) (if neg then x ^^^ 0x80000000#32 else x).toNat
def fpA (m : BitVec 5) (v : LaneIn) : FVal := fpIn m (m.getLsbD 3) (low v.a)
def fpB (m : BitVec 5) (v : LaneIn) : FVal := fpIn m (m.getLsbD 4) (low v.b)
def fpC (m : BitVec 5) (v : LaneIn) : FVal := fpIn m false (low v.c)
/-- An FP32 result rounded once in a mode, with output flush (R72, R73). -/
def fpOut (m : BitVec 5) (rm : RMode) (r : FVal) : DWord := BitVec.ofNat 64 (fmtFP32.encode rm (modFtz m) false r)

def aluFadd (m : BitVec 5) (v : LaneIn) : DWord :=
  fpOut m (RMode.ofMod m) (FVal.add (RMode.ofMod m) (fpA m v) (fpB m v))
def aluFmul (m : BitVec 5) (v : LaneIn) : DWord := fpOut m (RMode.ofMod m) (FVal.mul (fpA m v) (fpB m v))
def aluFfma (m : BitVec 5) (v : LaneIn) : DWord :=
  fpOut m (RMode.ofMod m) (FVal.add (RMode.ofMod m) (FVal.mul (fpA m v) (fpB m v)) (fpC m v))
def aluFmin (m : BitVec 5) (v : LaneIn) : DWord := fpOut m .rne (FVal.minmax false (fpA m v) (fpB m v))
def aluFmax (m : BitVec 5) (v : LaneIn) : DWord := fpOut m .rne (FVal.minmax true (fpA m v) (fpB m v))
def aluFrnd (m : BitVec 5) (v : LaneIn) : DWord := fpOut m (RMode.ofMod m) ((fpA m v).rint (RMode.ofMod m))
def aluFfrc (m : BitVec 5) (v : LaneIn) : DWord :=
  let x := fpA m v
  fpOut m (RMode.ofMod m) (if x.isInf then .nan else FVal.add (RMode.ofMod m) x (x.rint .rdn).neg)
/-- FSCL's power of two; beyond ±4,096 every FP32 value rounds as it does there (R204). -/
def aluFscl (m : BitVec 5) (v : LaneIn) : DWord :=
  let x := fpA m v
  fpOut m (RMode.ofMod m) (if x.isZero then x else x.scale (clampInt (-4096) 4096 (low v.b).toInt))
def aluFsqrt (m : BitVec 5) (v : LaneIn) : DWord := fpOut m (RMode.ofMod m) (fpA m v).sqrt
def aluFdiv (m : BitVec 5) (v : LaneIn) : DWord := fpOut m (RMode.ofMod m) (FVal.div (fpA m v) (fpB m v))
def aluFrcp (m : BitVec 5) (v : LaneIn) : DWord := fpOut m .rne (transcendental .rcp (fpA m v))
def aluFrsq (m : BitVec 5) (v : LaneIn) : DWord := fpOut m .rne (transcendental .rsq (fpA m v))
def aluFex2 (m : BitVec 5) (v : LaneIn) : DWord := fpOut m .rne (transcendental .ex2 (fpA m v))
def aluFlg2 (m : BitVec 5) (v : LaneIn) : DWord := fpOut m .rne (transcendental .lg2 (fpA m v))
def aluFsin (m : BitVec 5) (v : LaneIn) : DWord := fpOut m .rne (transcendental .sin (fpA m v))
def aluFcos (m : BitVec 5) (v : LaneIn) : DWord := fpOut m .rne (transcendental .cos (fpA m v))

/-! Packed and dot products (R205, R206). -/

def packFmt (m : BitVec 5) : Fmt := if m.getLsbD 4 then fmtBF16 else fmtFP16
/-- Element e of a packed source. -/
def half (x : DWord) (e : Nat) : Nat := (x.extractLsb' (16 * e) 16).toNat
def packA (m : BitVec 5) (v : LaneIn) (e : Nat) : FVal :=
  (packFmt m).decodeFtz (modFtz m) (if m.getLsbD 3 then half v.a e ^^^ 0x8000 else half v.a e)
def packB (m : BitVec 5) (v : LaneIn) (e : Nat) : FVal := (packFmt m).decodeFtz (modFtz m) (half v.b e)
def packC (m : BitVec 5) (v : LaneIn) (e : Nat) : FVal := (packFmt m).decodeFtz (modFtz m) (half v.c e)
/-- Both elements of a packed result, each rounded once (R205). -/
def packOut (m : BitVec 5) (rm : RMode) (f : Nat → FVal) : DWord :=
  let one (e : Nat) : Nat := (packFmt m).encode rm (modFtz m) false (f e)
  BitVec.ofNat 64 (one 0 + 65536 * one 1)

def aluHadd2 (m : BitVec 5) (v : LaneIn) : DWord :=
  packOut m (RMode.ofMod m) (fun e => FVal.add (RMode.ofMod m) (packA m v e) (packB m v e))
def aluHmul2 (m : BitVec 5) (v : LaneIn) : DWord :=
  packOut m (RMode.ofMod m) (fun e => FVal.mul (packA m v e) (packB m v e))
def aluHfma2 (m : BitVec 5) (v : LaneIn) : DWord :=
  packOut m (RMode.ofMod m) (fun e => FVal.add (RMode.ofMod m) (FVal.mul (packA m v e) (packB m v e)) (packC m v e))
def aluHmin2 (m : BitVec 5) (v : LaneIn) : DWord :=
  packOut m .rne (fun e => FVal.minmax false (packA m v e) (packB m v e))
def aluHmax2 (m : BitVec 5) (v : LaneIn) : DWord :=
  packOut m .rne (fun e => FVal.minmax true (packA m v e) (packB m v e))
def aluFdp2 (m : BitVec 5) (v : LaneIn) : DWord :=
  let rm := RMode.ofMod m
  fpOut m rm (FVal.sum rm (fpIn m false (low v.c) :: [0, 1].map (fun e => FVal.mul (packA m v e) (packB m v e))))
/-- Byte i of a source as E4M3 or E5M2 with flush (R206). -/
def fp8In (m : BitVec 5) (e5 : Bool) (x : DWord) (i : Nat) : FVal :=
  (if e5 then fmtE5M2 else fmtE4M3).decodeFtz (modFtz m) (x.extractLsb' (8 * i) 8).toNat
def aluFdp4 (m : BitVec 5) (v : LaneIn) : DWord :=
  let rm := RMode.ofMod m
  fpOut m rm (FVal.sum rm (fpIn m false (low v.c) ::
    [0, 1, 2, 3].map (fun i => FVal.mul (fp8In m (m.getLsbD 3) v.a i) (fp8In m (m.getLsbD 4) v.b i))))

/-! Conversion (R207 to R213). -/

/-- The ends of an integer range. -/
def intRange (uns : Bool) (w : Nat) : Int × Int := if uns then (0, 2 ^ w - 1) else (-(2 ^ (w - 1)), 2 ^ (w - 1) - 1)
def aluF2i (m : BitVec 5) (v : LaneIn) : DWord :=
  let w := if m.getLsbD 4 then 64 else 32
  let (lo, hi) := intRange (m.getLsbD 3) w
  let k : Int := match fmtFP32.decodeFtz (modFtz m) (low v.a).toNat with
    | .nan => 0
    | .inf n => if n then lo else hi
    | .fin n mm e =>
      let mag : Int := ((if 0 ≤ e then mm <<< e.toNat else roundMag (RMode.ofMod m) n mm (-e).toNat : Nat) : Int)
      clampInt lo hi (if n then -mag else mag)
  if m.getLsbD 4 then wrap64 k else wide (wrap32 k)
def aluI2f (m : BitVec 5) (v : LaneIn) : DWord :=
  let k := if m.getLsbD 4 then intOf (m.getLsbD 3) v.a else intOf (m.getLsbD 3) (low v.a)
  wide (toFP32 (RMode.ofMod m) (.fin (k < 0) k.natAbs 0))

/-- MOD[1:0] of the narrowing conversions, with the 16 random bits SR uses (R209). -/
def narrowMode (m : BitVec 5) (rnd : BitVec 16) : RMode :=
  match lo2 m with
  | 0 => .rne
  | 1 => .rtz
  | _ => .sr rnd
def rndHi (v : LaneIn) : BitVec 16 := v.rnd.extractLsb' 16 16
def rndLo (v : LaneIn) : BitVec 16 := v.rnd.extractLsb' 0 16
/-- The target code of F2F (R210) stands in its B field. -/
def aluF2f (m : BitVec 5) (code : Nat) (v : LaneIn) : DWord :=
  BitVec.ofNat 64 (narrow code (narrowMode m (rndHi v)) (modFtz m) (m.getLsbD 3) (ofFP32 (low v.a)))
/-- CVPK's target code and saturation by MOD[4:2] (R211). -/
def cvpkTarget (m : BitVec 5) : Nat × Bool :=
  match hi3 m with
  | 0 => (2, false)
  | 1 => (3, false)
  | 2 => (4, false)
  | 3 => (5, false)
  | 4 => (5, true)
  | _ => (6, false)
def aluCvpk (m : BitVec 5) (v : LaneIn) : DWord :=
  let (code, sat) := cvpkTarget m
  let ea := narrow code (narrowMode m (rndHi v)) false sat (ofFP32 (low v.a))
  let eb := narrow code (narrowMode m (rndLo v)) false sat (ofFP32 (low v.b))
  let c := (low v.c).toNat
  BitVec.ofNat 64 (match code with
    | 2 => ea + 65536 * eb
    | 3 => ea + 65536 * eb
    | 6 => c % 2 ^ 24 * 256 + 16 * eb + ea
    | _ => c % 65536 * 65536 + 256 * eb + ea)
/-- CVUP's format code by MOD[2:0] (R212). -/
def cvupCode (m : BitVec 5) : Nat := lo3 m + 2
def aluCvup (m : BitVec 5) (v : LaneIn) : DWord :=
  let code := cvupCode m
  let w := elemBits code
  let i := (low v.b).toNat % (32 / w)
  wide (toFP32 .rne (elemValue code ((low v.a).toNat >>> (w * i) % 2 ^ w)))
def aluDsenc (m : BitVec 5) (v : LaneIn) : DWord :=
  BitVec.ofNat 64 ((low v.c).toNat % 2 ^ 24 * 256 + ds8Encode (narrowMode m (rndHi v)) (ofFP32 (low v.a)))
def aluDsdec (v : LaneIn) : DWord :=
  wide (toFP32 .rne (ds8Value ((low v.a).toNat >>> (8 * ((low v.b).toNat % 4)) % 256)))

end Sys2Proof.Machine
end

