-- ==== Sys2Proof/WellFormed.lean ====
section
/-! DEFINITION. Which terms of `Instr` stand for an encodable instruction: the fields pass step 3 of decode (R142), an
unassigned word has an unassigned opcode (R139), and a machine step names units the package can have (R3). -/

namespace Sys2Proof

/-- Whether a major opcode is assigned (R139). -/
def opAssigned (op : BitVec 8) : Bool :=
  (Instr.ofGeneral op ⟨.none, false, 0, .reg 0, .reg 0, .reg 0, 0, false, false, false, 0⟩).isSome
    || (Instr.ofBranch op ⟨false, 0, 0, 0⟩).isSome

/-- The general-form instruction of an opcode and its fields pass step 3 (R142). -/
def Instr.wfGeneral (i : Instr) : Bool :=
  match i.form, i.opcode with
  | some (o, f), some op => generalOk op o f
  | _, _ => false

/-- The branch-form instruction passes step 3 (R138, R142). -/
def Instr.wfBranch (i : Instr) : Bool :=
  match i.branch, i.opcode with
  | some o, some op => branchOk op o
  | _, _ => false

/-- Every instruction that some word encodes: the words that meet decode beyond step 3, and the unassigned words. -/
def Instr.encodable (i : Instr) : Bool :=
  match i with
  | .unassignedOpcode w => !opAssigned (w.extractLsb' 0 8)
  | i => i.wfGeneral || i.wfBranch

/-- The range checks of the machine's own steps: register writes are 4 or 8 bytes and aligned, 2 to a slot owner, or up to 8 within a
slot (R91, R94, R396); an MSI-X vector is one of 64 (R398), a heap that is translated one of 15 (R239), a slot one of 65,536 (R90). -/
def Instr.wfStep (i : Instr) : Bool :=
  match i with
  | .registerWrite off width _ => (width == 4 || width == 8) && off % width == 0
      || width == 2 && off % 2 == 0 && 0x840000 ≤ off && off < 0x860000
      || 1 ≤ width && width ≤ 8 && 0x400000 ≤ off && off < 0x800000 && off % 64 + width ≤ 64
  | .msixVectorUnmask v => v < 64
  | .translationWalk h => h < 15
  | .slotWrite slot first bytes => slot < 65536 && first + bytes.length ≤ 64
  | .nodeArm slot _ => slot < 65536
  | .decrement slot => slot < 65536
  | .priorityAgeing slot => slot < 65536
  | .placeWorkgroup q => q < 4
  | .preemptCandidate q => q < 4
  | _ => i.opcode.isNone && (match i with | .unassignedOpcode _ => false | _ => true)

/-- Well-formed: encodable, or a machine step whose operands are in range. -/
def Instr.wf (i : Instr) : Bool := i.encodable || i.wfStep

end Sys2Proof
end

