-- ==== Sys2Proof/Decode.lean ====
section
/-! DEFINITION. Decoding of instruction words (R125 to R138, steps 1 to 3 of R142), total on any bytes and rejecting by the
name of the failed check, and the encoder written from the same tables. -/

namespace Sys2Proof

/-- Why a word is not an instruction: the step of R142 that fails, or bytes that are missing. -/
inductive DecodeError where
  /-- step 1: the opcode is not assigned -/
  | unassigned
  /-- step 3: the form fields; the opcode says whether step 2 comes first (R141) -/
  | fields (op : BitVec 8)
  /-- fewer bytes than the instruction has -/
  | short
  deriving DecidableEq, Repr

/-- A source field (R128); none where a must-be-zero bit is set. -/
def decodeSrc (f : BitVec 10) : Option Src :=
  let v := f.extractLsb' 0 8
  match (f.extractLsb' 8 2).toNat with
  | 0 => some (.reg v)
  | 1 => if v.extractLsb' 1 7 == 0 then some (.latch (v.getLsbD 0)) else none
  | 2 => if v == 0 then some .ext else none
  | _ => some (.imm v)

/-- The extension word (R133, R134); none for the reserved kind and for a must-be-zero bit that is set. -/
def decodeExt (w : DWord) : Option Ext :=
  match (w.extractLsb' 62 2).toNat with
  | 0 => if w.extractLsb' 32 30 == 0 then some (.imm32 (w.extractLsb' 0 32)) else none
  | 1 => if w.extractLsb' 20 42 == 0 then some (.const (w.extractLsb' 17 3) (w.extractLsb' 0 17)) else none
  | 2 => if w.extractLsb' 48 14 == 0 then
      some (.attr { ispec := w.extractLsb' 40 8, policy := w.extractLsb' 37 3, order := w.extractLsb' 35 2,
                    scope := w.extractLsb' 32 3, offset := w.extractLsb' 0 32 })
    else none
  | _ => none

/-- The X bit (R125). -/
def hasExt (w : DWord) : Bool := w.getLsbD 63

/-- The fields of the general form (R126), with the extension word where X = 1. -/
def decodeOps (w ext : DWord) : Option Ops :=
  match (if hasExt w then decodeExt ext else some .none), decodeSrc (w.extractLsb' 44 10),
        decodeSrc (w.extractLsb' 34 10), decodeSrc (w.extractLsb' 24 10) with
  | some x, some c, some b, some a =>
    some { ext := x, pn := w.getLsbD 62, p := w.extractLsb' 54 8, c := c, b := b, a := a, mod := w.extractLsb' 19 5,
           hd := w.getLsbD 18, ls := w.getLsbD 17, nw := w.getLsbD 16, d := w.extractLsb' 8 8 }
  | _, _, _, _ => none

/-- The fields of the branch form (R137); none where X or a reserved bit is set (R138). -/
def decodeBrOps (w : DWord) : Option BrOps :=
  if hasExt w || w.extractLsb' 48 6 != 0 then none
  else some { pn := w.getLsbD 62, p := w.extractLsb' 54 8, rcv := w.extractLsb' 28 20, tgt := w.extractLsb' 8 20 }

/-- Steps 1 and 3 of R142 on a base word and the word after it. -/
def decodeWords (w ext : DWord) : Except DecodeError Instr :=
  let op : BitVec 8 := w.extractLsb' 0 8
  if !opAssigned op then .ok (.unassignedOpcode w)
  else
    let i : Option Instr := match op.toNat with
      | 1 => (decodeBrOps w).bind (Instr.ofBranch op)
      | 2 => (decodeBrOps w).bind (Instr.ofBranch op)
      | 4 => (decodeBrOps w).bind (Instr.ofBranch op)
      | _ => (decodeOps w ext).bind (Instr.ofGeneral op)
    match i with
    | none => .error (.fields op)
    | some i => if i.encodable then .ok i else .error (.fields op)

/-- A little-endian doubleword from eight bytes, lowest address first (R125). -/
def dwordOfBytes (bs : List Byte) : DWord :=
  BitVec.ofNat 64 (bs.foldr (fun b acc => b.toNat + 256 * acc) 0)

/-- The eight bytes of a doubleword, lowest address first. -/
def bytesOfDword (w : DWord) : List Byte :=
  (List.range 8).map (fun k => w.extractLsb' (8 * k) 8)

/-- Decoding of the bytes at a PC: the instruction and the bytes after it. -/
def decodeBytes (bs : List Byte) : Except DecodeError (Instr × List Byte) :=
  if bs.length < 8 then .error .short
  else
    let w := dwordOfBytes (bs.take 8)
    let op : BitVec 8 := w.extractLsb' 0 8
    if opAssigned op && hasExt w && op != 1 && op != 2 && op != 4 then
      if bs.length < 16 then .error .short
      else (decodeWords w (dwordOfBytes ((bs.drop 8).take 8))).map (fun i => (i, bs.drop 16))
    else (decodeWords w 0).map (fun i => (i, bs.drop 8))

/-- The instruction in `nbits` bits numbered as the opcode table numbers them, every later bit 0. -/
def decodeTableWord (nbits w : Nat) : Option Instr :=
  let v := w % 2 ^ nbits
  match decodeBytes ((List.range 16).map (fun k => BitVec.ofNat 8 (v >>> (8 * k)))) with
  | .ok (i, _) => some i
  | .error _ => none

/-! The encoder. -/

/-- The code of a source field (R128). -/
def encodeSrc : Src → BitVec 10
  | .reg i => (0b00#2) ++ i
  | .latch l => (0b01#2) ++ (0#7) ++ BitVec.ofBool l
  | .ext => (0b10#2) ++ (0#8)
  | .imm v => (0b11#2) ++ v

/-- The extension word (R133, R134); none where X = 0. -/
def encodeExt : Ext → Option DWord
  | .none => none
  | .imm32 v => some ((0b00#2) ++ (0#30) ++ v)
  | .const win off => some ((0b01#2) ++ (0#42) ++ win ++ off)
  | .attr a => some ((0b10#2) ++ (0#14) ++ a.ispec ++ a.policy ++ a.order ++ a.scope ++ a.offset)

/-- The base word of the general form (R126). -/
def encodeOps (op : BitVec 8) (o : Ops) : DWord :=
  BitVec.ofBool (encodeExt o.ext).isSome ++ BitVec.ofBool o.pn ++ o.p ++ encodeSrc o.c ++ encodeSrc o.b ++ encodeSrc o.a
    ++ o.mod ++ BitVec.ofBool o.hd ++ BitVec.ofBool o.ls ++ BitVec.ofBool o.nw ++ o.d ++ op

/-- The word of the branch form (R137). -/
def encodeBrOps (op : BitVec 8) (o : BrOps) : DWord :=
  (0#1) ++ BitVec.ofBool o.pn ++ o.p ++ (0#6) ++ o.rcv ++ o.tgt ++ op

/-- The words of an encodable instruction: base word, then the extension word where X = 1; none for the machine's own
steps, which no word encodes. -/
def encode (i : Instr) : Option (List DWord) :=
  match i with
  | .unassignedOpcode w => some [w]
  | i => match i.form, i.branch, i.opcode with
    | some (o, _), _, some op => some (encodeOps op o :: (encodeExt o.ext).toList)
    | _, some o, some op => some [encodeBrOps op o]
    | _, _, _ => none

/-- The bytes of an encodable instruction, lowest address first. -/
def encodeBytes (i : Instr) : Option (List Byte) :=
  (encode i).map (fun ws => ws.flatMap bytesOfDword)

/-- The length of an instruction in bytes (R125): 16 with an extension word, otherwise 8. -/
def Instr.size (i : Instr) : Nat :=
  match i with
  | .unassignedOpcode w => if hasExt w then 16 else 8
  | i => match i.form with
    | some (o, _) => if (encodeExt o.ext).isSome then 16 else 8
    | none => 8

end Sys2Proof
end

