-- ==== Sys2Proof/Machine/Map.lean ====
section
/-! DEFINITION. Sparse plain data: lists of key and value pairs with strictly rising keys, so that equal contents are equal
lists. The value forms `getD` and `putD` never list a default value. -/

namespace Sys2Proof.Machine

/-- Key and value pairs, keys strictly rising. -/
abbrev Map (α : Type) := List (Nat × α)

/-- The value at a key. -/
def mapFind {α : Type} : Map α → Nat → Option α
  | [], _ => none
  | (k, v) :: rest, i => if i == k then some v else mapFind rest i

/-- The map with a value at a key. -/
def mapInsert {α : Type} : Map α → Nat → α → Map α
  | [], i, x => [(i, x)]
  | (k, v) :: rest, i, x =>
    if i == k then (i, x) :: rest else if i < k then (i, x) :: (k, v) :: rest else (k, v) :: mapInsert rest i x

/-- The map with nothing at a key. -/
def mapErase {α : Type} (m : Map α) (i : Nat) : Map α := m.filter (fun kv => kv.1 != i)

/-- The value at a key, or the default that unlisted keys read as. -/
def mapGetD {α : Type} (m : Map α) (i : Nat) (d : α) : α := (mapFind m i).getD d

/-- The map with a value at a key; the default is never listed. -/
def mapPutD {α : Type} [DecidableEq α] (m : Map α) (i : Nat) (x d : α) : Map α :=
  if x = d then mapErase m i else mapInsert m i x

/-- Whether a key is listed. -/
def mapHas {α : Type} (m : Map α) (i : Nat) : Bool := (mapFind m i).isSome

/-- The entries whose key and value meet a condition. -/
def mapFilter {α : Type} (p : Nat → α → Bool) (m : Map α) : Map α := m.filter (fun kv => p kv.1 kv.2)

/-- Every value changed by its key. -/
def mapMap {α : Type} (f : Nat → α → α) (m : Map α) : Map α := m.map (fun kv => (kv.1, f kv.1 kv.2))

/-- The value at a key changed, if the key is listed. -/
def mapModify {α : Type} (m : Map α) (i : Nat) (f : α → α) : Map α :=
  match mapFind m i with
  | some v => mapInsert m i (f v)
  | none => m

/-- The first key above every key listed. -/
def mapFresh {α : Type} (m : Map α) : Nat := m.foldl (fun n kv => max n (kv.1 + 1)) 0

/-- The canonical form: keys strictly rising from a bound. -/
def mapSortedFrom {α : Type} : Nat → Map α → Bool
  | _, [] => true
  | lo, (k, _) :: rest => lo ≤ k && mapSortedFrom (k + 1) rest

/-- The canonical form. -/
def mapSorted {α : Type} (m : Map α) : Bool := mapSortedFrom 0 m

/-- The canonical form with no default listed. -/
def mapWf {α : Type} [DecidableEq α] (d : α) (m : Map α) : Bool := mapSorted m && m.all (fun kv => kv.2 != d)

end Sys2Proof.Machine
end

