-- ==== Sys2Proof/Machine/Types.lean ====
section
/-! DEFINITION. The records that the state is made of: sheaves, workgroups, nodes, contexts (R32, R37, R40, R92, R239, R367,
R370). Plain data only. -/

namespace Sys2Proof.Machine

/-- Privilege levels (R367). -/
inductive Level where
  | user | handler | system
  deriving DecidableEq, Repr

/-- The code of a level (R367). -/
def Level.code : Level → Nat
  | .user => 0
  | .handler => 1
  | .system => 2

/-- Scalarisation classes (R163): a register at its placement value takes no store entry. -/
inductive RegClass where
  | placed
  | uni (base : Word)
  | aff (base stride : Word)
  | var
  deriving DecidableEq, Repr

/-- A reconvergence-stack entry (R170, R178). -/
structure StackEntry where
  rpc   : DWord
  pmask : TMask
  ppc   : DWord
  deriving DecidableEq, Repr

/-- The trap registers of a sheaf (R370); TRAP_FRAME is computed (R369). -/
structure TrapRegs where
  cause : Word
  pc    : DWord
  npc   : DWord
  mask  : TMask
  rmask : TMask
  amask : TMask
  info  : Word
  deriving DecidableEq, Repr

/-- What TRET needs of a handler entry (R369, R372): the stack depth and level at entry, the kept window entry of the
trapped instruction, whether the trap came at a response, and the breakpoint registers that do not match again (R384). -/
structure HandlerEntry where
  depth : Nat
  level : Level
  entry : Option Nat
  resp  : Bool
  skip  : List Nat := []
  deriving DecidableEq, Repr

/-- Why a sheaf that is neither parked nor halted does not issue (R157). -/
inductive Wait where
  | none
  /-- SLEEP, until a cycle (R186) -/
  | sleep (till : Nat)
  /-- a constant-cache fill of a block, with the instruction's executing threads (R47) -/
  | const (va : DWord) (mask : TMask)
  /-- BARW or BAR at a barrier whose phase at arrival was `phase` (R346) -/
  | barrier (b : Nat) (phase : Bool)
  /-- WAITC until a counter is low enough (R281) -/
  | counter (cls limit : Nat)
  /-- BOWAIT on a barrier object (R349): the address, the phase waited for and the acquire scope -/
  | object (addr : DWord) (phase : Bool) (acquire : Option Nat)
  /-- a release or acquire in progress (R317), by its number -/
  | order (id : Nat)
  /-- XLINV in progress (R390) -/
  | xlinv (id : Nat)
  /-- TRET's reading of the frame (R372): done at a cycle -/
  | frame (till : Nat)
  deriving DecidableEq, Repr

/-- What a parked sheaf waits to do again (R243, R246, R47, R124, R270). -/
inductive ParkKind where
  /-- a window entry's faulted threads -/
  | entry (id : Nat)
  /-- a constant-window fill, with the fault mask and the address after the instruction -/
  | const (mask : TMask) (npc : DWord)
  /-- a demand fetch at the PC -/
  | fetch
  /-- blocks held by an engine operation -/
  | engine (op : Nat)
  deriving DecidableEq, Repr

/-- One page a sheaf is parked on: the PARK_ID of the page, what waits, and the release once it has come (FAIL). -/
structure Park where
  token : Word
  kind  : ParkKind
  done  : Option Bool
  deriving DecidableEq, Repr

/-- A response-time trap held for its sheaf (R371): cause, the threads, TRAP_PC and TRAP_INFO, the kept window entry. -/
structure RespTrap where
  seq   : Nat
  cause : BitVec 8
  info  : Word
  mask  : TMask
  pc    : DWord
  /-- the level of its instruction: while a handler runs, traps of the interrupted program are held -/
  level : Level
  entry : Option Nat
  deriving DecidableEq, Repr

/-- An issue-time trap that a sheaf owes at its pc (R47, R124, R371, R373): a code line or a constant block that failed, or a park of them released
with FAIL = 1. It is raised when the sheaf next issues there at its level, after the response-time traps that are due: cause, TRAP_INFO, the
threads, TRAP_PC and TRAP_NPC, the address of the memory behind it. -/
structure Owed where
  cause : BitVec 8
  info  : Word
  mask  : TMask
  pc    : DWord
  npc   : DWord
  va    : DWord
  level : Level
  deriving DecidableEq, Repr

/-- A line in a fetch buffer (R120): its address without POLICY and its two blocks. -/
structure FetchLine where
  va : DWord
  lo : Blk
  hi : Blk
  deriving DecidableEq, Repr

/-- A resident or saved sheaf (R32, R37). -/
structure Sheaf where
  wg       : Nat
  idx      : Nat
  pc       : DWord
  m        : TMask
  live     : TMask
  /-- hardware entries, oldest first -/
  stack    : List StackEntry
  /-- entries spilled to local store, oldest first (R173); what was written there -/
  spilled  : List StackEntry
  /-- registers by r·32 + t; unlisted ones read 0 (R34) -/
  regs     : Map Word
  /-- poisoned registers by r·32 + t (R380) -/
  rpoison  : List Nat
  cls      : Map RegClass
  /-- scoreboard (R156) -/
  pend     : BitVec 256
  /-- pending registers whose values come at a fixed cycle: the cycle (R282, R388) -/
  pendTill : Map Nat
  cCopy    : Nat
  cMatrix  : Nat
  cCode    : Nat
  cRemote  : Nat
  /-- latches: validity and values by thread (R127, R161) -/
  valid0   : Bool
  valid1   : Bool
  latch0   : Map DWord
  latch1   : Map DWord
  /-- engine error state (R269, R298) -/
  errCopy  : Option (BitVec 8)
  errMatrix : Option (BitVec 8)
  /-- instructions issued in the open chain; 0 when none is open (R160) -/
  chain    : Nat
  /-- conversion counter (R79) -/
  conv     : Word
  level    : Level
  trap     : TrapRegs
  handler  : Option HandlerEntry
  ctxAsid  : BitVec 16
  wait     : Wait
  parks    : List Park
  /-- window entries whose replay has been released, in issue order, with FAIL (R246) -/
  replays  : List (Nat × Bool)
  respTraps : List RespTrap
  owed     : Option Owed
  /-- an executing mask imposed on the next issue: TRET's re-execution and a constant-window replay (R372, R47) -/
  force    : Option TMask
  fbuf     : List FetchLine
  /-- a line request outstanding for this slot (R120) -/
  fetching : Option DWord
  /-- the next sequential line, asked for by an issue from the last 32 bytes of its line (R120) -/
  seqLine  : Option DWord
  /-- cycle from which the sheaf has been ready, and of its last thread-operation (R158) -/
  readyAt  : Nat
  lastOp   : Nat
  yielded  : Bool
  /-- breakpoint registers that have fired and do not match again until a chain has issued (R384) -/
  bpSkip   : List Nat
  /-- no chain head has issued yet (R385) -/
  fresh    : Bool
  /-- halted for pre-emption (R374) -/
  halted   : Bool
  /-- stopped by the debug port (R386) -/
  stopped  : Bool
  /-- ended: no live thread, waiting for outstanding operations (R39, R185) -/
  ended    : Bool
  deriving DecidableEq, Repr

/-- A barrier of a workgroup (R41, R347): expected and arrived sheaf counts, the phase, and whether the current phase took the
live-sheaf count. -/
structure Barrier where
  expected : Nat
  arrived  : Nat
  phase    : Bool
  byLive   : Bool
  deriving DecidableEq, Repr

/-- A part of a workgroup on one lane group (R110, R111). -/
structure Part where
  lgrp  : Nat
  base  : Nat
  count : Nat
  first : Nat
  deriving DecidableEq, Repr

/-- Where a workgroup stands between placement and retirement (R116, R117, R374 to R379, R391). -/
inductive WgStage where
  /-- the reclaim runs until a cycle and until the fills outstanding into its core return (R116) -/
  | reclaiming (till : Nat)
  | running
  /-- vacate requested at a cycle (R374) -/
  | vacating (since : Nat)
  /-- the record is written and the DIE release with this number runs (R377) -/
  | saving (order : Nat)
  | saved
  /-- placed again: the reclaim runs until a cycle, the markers to the suspension die are out (R379) -/
  | restoring (till : Nat)
  /-- retiring: the DIE release with this number runs (R391) -/
  | retiring (order : Nat)
  deriving DecidableEq, Repr

/-- What one thread asks of memory (R227): its effective address, the data it brings (store data, atomic operand), and a
second operand (a tag, a swap value; for LDB and STB the policy of the thread's record, R234). -/
structure ThreadReq where
  addr  : DWord
  data  : BitVec 128
  data2 : DWord
  deriving DecidableEq, Repr

/-- Where a block request of a window entry stands (R228, R229, R243, R223). -/
inductive BlkStage where
  /-- behind an earlier request of the same sheaf to the same block, or waiting for a release, a bank or a store-buffer entry -/
  | held
  | sent
  | done
  /-- its page is pending under this token -/
  | faulted (token : Word)
  deriving DecidableEq, Repr

/-- A block request of a window entry: the block's address, the threads that touch it, where it stands. -/
structure BlkReq where
  base  : DWord
  mask  : TMask
  stage : BlkStage
  deriving DecidableEq, Repr

/-- An entry of a lane's coalescing window (R227). Entries are numbered in issue order. -/
structure WinEntry where
  sheaf : Nat
  pc    : DWord
  npc   : DWord
  instr : Instr
  asid  : BitVec 16
  level : Level
  thr   : Map ThreadReq
  blks  : List BlkReq
  /-- executing threads of this pass -/
  mask  : TMask
  /-- threads without a result (R227) -/
  left  : TMask
  /-- a release that the entry's requests wait for (R317), by its number -/
  order : Option Nat
  /-- kept for TRET after a response-time trap (R372) -/
  kept  : Bool
  /-- counted on REMOTE (R255) -/
  remote : Bool
  /-- a result of class U (R255) -/
  uni    : Bool
  /-- threads that failed at the response, with their causes (R223) -/
  fails  : Map (BitVec 8)
  deriving DecidableEq, Repr

/-- A graph or system request to the hub (R363, R389). -/
inductive HubReq where
  | launch (slot : Nat) (record : Blk)
  | ndec (slot : Nat)
  | evsig (vector : Nat) (payload : Word)
  | ctxsv (slot : Nat) (wg : Nat) (hold : Bool)
  | ctxld (slot : Nat)
  deriving DecidableEq, Repr

/-- The sheaf behind a hub request: its workgroup, its index, the destination register, the threads. -/
structure HubFrom where
  wg    : Nat
  idx   : Nat
  core  : Nat
  asid  : BitVec 16
  part  : Nat
  d     : Option Nat
  mask  : TMask
  pc    : DWord
  level : Level
  seq   : Nat
  deriving DecidableEq, Repr

/-- What a saved workgroup keeps beside its sheaves (R377, R378): its region's bytes, tags, poisoned words and barrier objects by
offset, frame copies by sheaf index, window entries with the sheaf index in place of the slot, the entries counted on REMOTE, graph
requests that wait for a release. -/
structure Saved where
  bytes  : Map Byte
  tags   : Map Tag
  poison : Map Bool
  bos    : Map Bool
  frames : Map (List (Blk × Bool))
  win    : Map WinEntry
  remote : List Nat
  /-- graph requests behind a release, by its number, with the scope -/
  hub    : List (Nat × Nat × HubFrom × HubReq)
  deriving DecidableEq, Repr

def Saved.empty : Saved := { bytes := [], tags := [], poison := [], bos := [], frames := [], win := [], remote := [], hub := [] }

/-- A workgroup (R40 to R42, R87). -/
structure Workgroup where
  node    : Nat
  lin     : Nat
  tag     : Word
  asid    : BitVec 16
  nSheaf  : Nat
  nReg    : Nat
  units   : Nat
  core    : Nat
  parts   : List Part
  lsBase  : Nat
  bars    : List Barrier
  repro   : Bool
  seed    : Word
  stage   : WgStage
  placedAt : Nat
  /-- the number of its last placement, in the order in which workgroups are placed (R101) -/
  placeNo : Nat := 0
  /-- die of the last suspension while a release is owed (R378) -/
  suspDie : Option Nat
  /-- its vacate has been asked for (R101, R389, R27) -/
  asked   : Bool
  /-- slots and tiles claimed, by part (R378) -/
  claims  : List (Nat × Nat)
  /-- sheaves while saved, and what is kept with them -/
  saved   : List Sheaf
  kept    : Saved
  deriving DecidableEq, Repr

/-- NODE_STATUS.STATE (R95). -/
inductive SlotState where
  | free | waiting | ready | running | complete | refused | error
  deriving DecidableEq, Repr

/-- The code of a slot state (R95). -/
def SlotState.code : SlotState → Nat
  | .free => 0
  | .waiting => 1
  | .ready => 2
  | .running => 3
  | .complete => 4
  | .refused => 5
  | .error => 6

/-- The status word of a slot (R95). -/
structure SlotStatus where
  state    : SlotState
  reason   : BitVec 8
  pending  : Nat
  skipped  : Bool
  extra    : Bool
  dropped  : Bool
  deriving DecidableEq, Repr

/-- A constant window of a node (R46). -/
structure Window where
  base  : DWord
  size  : Nat
  valid : Bool
  deriving DecidableEq, Repr

/-- The steps of completion (R103, R104). -/
inductive Completion where
  | none
  /-- step 1: the release at the completion scope -/
  | releasing
  /-- step 2: the completion word is being stored -/
  | storing
  /-- step 2 held by a fault of the page with this token (R104) -/
  | held (token : Word)
  deriving DecidableEq, Repr

/-- An armed node in the hub's node table (R93, R96, R98, R99, R103). -/
structure Node where
  record  : Blk
  asid    : BitVec 16
  windows : List Window
  succ    : List Nat
  live    : Nat
  armTime : Nat
  /-- next linear index never placed (R50) -/
  next    : Nat
  retired : Nat
  /-- dies on which workgroups of the node retired, for the completion release -/
  dies    : List Nat
  /-- first among the unplaceable since a cycle (R101) -/
  blocked : Option Nat
  /-- ready with an unplaced workgroup since a cycle (R99), and the effective priority that the distributor holds -/
  waiting : Nat
  prio    : Nat
  /-- the candidate that vacated room goes to (R101) -/
  claimant : Bool
  errored : Bool
  held    : Bool
  /-- the entropy word drawn at arm (R79) -/
  key     : Word
  compl   : Completion
  deriving DecidableEq, Repr

/-- A context (R85, R86, R239, R367, R377, R388). -/
structure Context where
  partition : Nat
  /-- the partition mode in force when it was created (R28) -/
  mode      : PartMode
  sys       : Bool
  trapBase  : DWord
  root      : List DWord
  saveAreas : List (DWord × DWord)
  repro     : Bool
  seed      : Word
  deriving DecidableEq, Repr

end Sys2Proof.Machine
end

