-- ==== Sys2Proof/Machine/MemTypes.lean ====
section
/-! DEFINITION. The records of the memory path: agents, messages and packets of the network, cache lines, store buffers, the
tables of a slice, local-store requests, releases (R225 to R246, R317 to R321, R334 to R343, R420, R421). -/

namespace Sys2Proof.Machine

/-- Who sends and receives packets: the inputs of the crossbars beside the links (R421). -/
inductive Agent where
  | core (c : Nat)
  | slice (die i : Nat)
  | home (h : Nat)
  /-- the control traffic of a core die: pre-emption, save and restore, the store die's test port -/
  | control (die : Nat)
  /-- the graph store and the hub scheduler -/
  | hub
  | hostPort
  | expander (port : Nat)
  | troxia (port : Nat)
  | distributor
  | faultQueue
  | management
  deriving DecidableEq, Repr

/-- Permission bits of a leaf entry or a line (R233, R240). -/
structure Perm where
  r : Bool
  w : Bool
  x : Bool
  deriving DecidableEq, Repr

/-- What an access needs of a leaf entry (R240), with the L1-point atomic's fill (R335) and a store's confirmation (R230). -/
inductive AccessKind where
  | load | exec | store | atomic
  deriving DecidableEq, Repr

/-- How an access to a block ended. -/
inductive MemStatus where
  | ok
  /-- a page or permission fault of the page with this PARK_ID (R243) -/
  | fault (token : Word)
  /-- a failure at the response, with its cause (R223) -/
  | bad (cause : BitVec 8)
  deriving DecidableEq, Repr

/-- Who asked for a block. -/
inductive Asker where
  /-- a window entry -/
  | entry (id : Nat)
  /-- an instruction-cache line -/
  | line
  /-- the constant cache -/
  | const
  | prefetch
  /-- an item of an engine operation: operation, item, request number -/
  | engine (op item n : Nat)
  deriving DecidableEq, Repr

/-- A read of a block on its way from a core to a slice (R228, R230): the L1 may keep it only if the core's epoch has not
changed; the bytes that the store buffer held were captured when it was sent. -/
structure ReadReq where
  asid  : BitVec 16
  va    : DWord
  asker : Asker
  kind  : AccessKind
  pol   : Nat
  l1    : Bool
  epoch : Nat
  ovl  : Blk
  overM : BMask
  overT : Option Tag
  /-- for PREF, CFETCH and the engines (R344) -/
  bulk  : Bool
  /-- the L1's place for the line, fixed when the request is sent (R116): 0 its permanent 1 MiB, otherwise 1 + a lent unit -/
  place : Nat
  deriving DecidableEq, Repr

/-- What a block access returns: data, tag, poisoned words, permissions and the device-physical address. -/
structure BlkAns where
  blk    : Blk
  tag    : Tag
  poison : BitVec 16
  perm   : Perm
  dpa    : Nat
  status : MemStatus
  deriving DecidableEq, Repr

/-- Where a write comes from. -/
inductive Writer where
  /-- a write-through of a store-buffer entry or of an atomic line (R230, R335) -/
  | through (core : Nat)
  /-- a block write of an engine operation: core, operation, item -/
  | engine (core op item : Nat)
  /-- a node's completion word (R103) -/
  | cword (slot : Nat)
  /-- a host write (R332) -/
  | host
  /-- a window entry's space-5 write, or one arriving from another package: package and sequence -/
  | pod (pkg seq : Nat)
  deriving DecidableEq, Repr

/-- A write of bytes, and of the tag if given, to one block (R236, R70). -/
structure WriteReq where
  id     : Nat
  asid   : BitVec 16
  va     : DWord
  /-- set where the permission has been confirmed (R230) -/
  dpa    : Option Nat
  blk    : Blk
  mask   : BMask
  tag    : Option Tag
  poison : BitVec 16
  writer : Writer
  /-- the window entry of the oldest store that a write-through carries -/
  made   : Nat := 0
  deriving DecidableEq, Repr

/-- One thread's operation of an atomic (R336). -/
structure AtomItem where
  thread : Nat
  addr   : DWord
  b      : DWord
  c      : DWord
  deriving DecidableEq, Repr

/-- What an atomic does at its point (R339, R278). -/
inductive AtomOp where
  /-- an instruction of group 0x8 -/
  | instr (i : Instr)
  /-- an addition packet of SCAD with the target format 0x01 or 0x02 -/
  | scad (fmt : Nat)
  deriving DecidableEq, Repr

/-- Who contributed to an atomic packet (R341): the pending write of its slice and the asker behind it. -/
structure Contributor where
  id    : Nat
  die   : Nat
  core  : Nat
  asker : Asker
  /-- its own addend is poisoned (R381) -/
  poison : Bool
  items : List AtomItem
  deriving DecidableEq, Repr

/-- An atomic or reduction packet (R334, R341, R342, R418). -/
structure AtomReq where
  asid  : BitVec 16
  va    : DWord
  op    : AtomOp
  order : Nat
  scope : Nat
  /-- made in reproducibility mode, in which floating-point additions do not merge (R88) -/
  repro : Bool
  /-- carries a poisoned addend of SCAD (R381) -/
  poison : Bool
  items : List AtomItem
  from_ : List Contributor
  deriving DecidableEq, Repr

/-- The answer of an atomic to one contributor: old values by thread, the block's new content (R336, R342). -/
structure AtomAns where
  to_  : Contributor
  asid : BitVec 16
  va   : DWord
  olds : Map DWord
  ans  : BlkAns
  deriving DecidableEq, Repr

/-- Who made a local-store request. -/
inductive LsWho where
  | entry (id : Nat)
  /-- a window entry of another core -/
  | peer (core id : Nat)
  /-- a read of an engine operation: its core, operation, item, request number -/
  | engine (core op item n : Nat)
  /-- a block write of an engine operation, with its bytes -/
  | put (core op item bytes : Nat)
  deriving DecidableEq, Repr

/-- What a local-store request does to its block. -/
inductive LsAct where
  /-- the threads of a lane instruction -/
  | lane (i : Instr) (thr : Map ThreadReq)
  | read
  | write (blk : Blk) (mask : BMask) (tag : Option Tag) (poison : BitVec 16)
  deriving DecidableEq, Repr

/-- A request to a local-store block of a core (R225, R226). -/
structure LsReq where
  core  : Nat
  base  : Nat
  /-- the block's address as its issuer sees it -/
  va    : DWord
  act   : LsAct
  who   : LsWho
  asid  : BitVec 16
  /-- the offsets, first and last, that one region must hold for a write of an engine operation (R272) -/
  span  : Option (Nat × Nat)
  /-- made above USER level, where ownership of slots and tiles is not checked (R286) -/
  priv  : Bool
  since : Nat
  lane  : Nat
  deriving DecidableEq, Repr

/-- What a local-store request returns (R225, R226). -/
structure LsAns where
  who    : LsWho
  va     : DWord
  vals   : Map (BitVec 128)
  blk    : BlkAns
  fails  : List (Nat × Nat)
  deriving DecidableEq, Repr

/-- Who waits for a marker (R320, R321, R392, R379). -/
inductive MarkFor where
  | rel (id : Nat)
  | complete (slot : Nat)
  | restore (wg : Nat)
  | xlinv (id : Nat)
  deriving DecidableEq, Repr

/-- The name of an allowance counter: ASID and VA (R352). -/
structure AlKey where
  asid : BitVec 16
  va   : DWord
  deriving DecidableEq, Repr

/-- A take on its way (R353): the thread's request, and the refill asked for. -/
structure AlTake where
  key   : AlKey
  core  : Nat
  entry : Nat
  thread : Nat
  n     : Nat
  part  : Bool
  /-- units asked of the die, and of the home -/
  want  : Nat
  wantHome : Nat
  exact : Bool
  deriving DecidableEq, Repr

/-- The messages of the allowance protocol (R353 to R360). -/
inductive AlMsg where
  /-- a take: core to die, die to home -/
  | take (die : Nat) (t : AlTake)
  /-- a grant of units for a refill with the counter's state: home to die, die to core -/
  | grant (die : Nat) (t : AlTake) (units state : Nat)
  /-- an answer to a thread, with the counter's state where the home gives it (R415) -/
  | answer (die : Nat) (t : AlTake) (units : Nat) (state : Option Nat)
  /-- a failed answer with its cause -/
  | fail (key : AlKey) (core entry thread : Nat) (cause : BitVec 8) (state : Option Nat)
  | recalling (key : AlKey) (evict : Bool)
  /-- a core's return to its die, or a die's to the home -/
  | ret (key : AlKey) (die core units : Nat) (poison : Bool)
  /-- units passed up: a give, or an excess -/
  | give (key : AlKey) (die units : Nat) (from_ : Option (Nat × Nat × Nat))
  | poison (key : AlKey)
  /-- ALREAD, ALCLOSE, ALINIT: an instruction at the home -/
  | op (i : Instr) (key : AlKey) (core entry : Nat) (lead : Nat) (req : ThreadReq)
  /-- a value for one thread or for every thread of an entry -/
  | value (key : AlKey) (core entry : Nat) (v : DWord) (state : Option Nat)
  | peek (key : AlKey) (core entry acore : Nat)
  deriving DecidableEq, Repr

/-- The messages that packets carry. -/
inductive Msg where
  | read (q : ReadReq)
  /-- a read or confirmation that a slice passes to a home; the core that asked for a confirmation -/
  | homeRead (q : ReadReq) (core : Nat)
  | fill (q : ReadReq) (a : BlkAns)
  | data (q : ReadReq) (a : BlkAns)
  /-- a read whose block goes to several cores of the die at once (R274) -/
  | multi (q : ReadReq) (cores : List Nat)
  | write (w : WriteReq)
  | homeWrite (w : WriteReq)
  | writeAck (w : WriteReq) (a : BlkAns)
  | atom (a : AtomReq)
  | homeAtom (a : AtomReq)
  | atomAns (a : AtomAns)
  | ls (q : LsReq)
  | lsAns (a : LsAns)
  | mark (f : MarkFor) (scope : Nat)
  | marked (f : MarkFor)
  | al (m : AlMsg)
  | hub (f : HubFrom) (r : HubReq)
  | status (f : HubFrom) (v : Word) (fail : Bool)
  /-- counted bytes for a barrier object: offset, bytes, the engine operation with its core, its completion scope (R273) -/
  | boArr (asid : BitVec 16) (off bytes core op scope : Nat)
  /-- the acknowledgement of a counted arrival, with a failed check -/
  | boAck (op : Nat) (fail : Bool)
  deriving DecidableEq, Repr

/-- A packet (R343, R344): source, destination, priority (0 urgent, 1 normal, 2 bulk), message; for a multicast packet the
cores of the die still to be served (R274); the partition that fixes its path (R420). -/
structure Packet where
  src   : Agent
  dst   : Agent
  prio  : Nat
  msg   : Msg
  mcast : List Nat
  part  : Option Nat
  deriving DecidableEq, Repr

/-- Where a packet stands (R421): an input queue of a die's crossbar, a link port's transmit queue, a link, or the inbox of
its destination. -/
inductive Place where
  | input (die code : Nat)
  | tx (die to_ : Nat)
  | wire (die from_ : Nat)
  | inbox
  deriving DecidableEq, Repr

/-- A packet on its way, with its ageing count (R343) and the cycle at which it came to the head of its queue (R421). -/
structure Flight where
  p     : Packet
  place : Place
  age   : Nat
  since : Nat
  /-- the outputs at which it has lost since its count last rose, and in which cycle (R343) -/
  lost  : List Nat := []
  lostAt : Nat := 0
  deriving DecidableEq, Repr

/-- A store-buffer entry (R230). -/
structure SbEntry where
  seq  : Nat
  asid : BitVec 16
  va   : DWord
  dpa  : Nat
  blk  : Blk
  mask : BMask
  tag  : Option Tag
  deriving DecidableEq, Repr

/-- A line of the L1 or of a slice (R233, R335): for a line in the atomic state the bytes changed since the last write-through
and the cycle of the last atomic. -/
structure Line where
  asid   : BitVec 16
  va     : DWord
  dpa    : Nat
  blk    : Blk
  tag    : Tag
  poison : BitVec 16
  perm   : Perm
  pol    : Nat
  used   : Nat
  atomic : Bool
  dirty  : BMask
  lastAtomic : Nat
  /-- its place in an L1 (R115, R116): 0 the permanent 1 MiB, otherwise 1 + a lent unit -/
  place  : Nat
  deriving DecidableEq, Repr

/-- A pending write of a slice (R319, R342): `wait` holds reads of its block (atomics and reductions). -/
structure PendWrite where
  id    : Nat
  asid  : BitVec 16
  va    : DWord
  blk   : Blk
  mask  : BMask
  tag   : Option Tag
  /-- its data are poisoned (R381) -/
  poison : Bool
  wait  : Bool
  deriving DecidableEq, Repr

/-- An entry of a slice's merge table (R237, R274): the requester records and whether later readers may join and the block be
kept; the writes pending when it was made, which its home has performed before the read, and the later ones acknowledged since. -/
structure MergeEntry where
  asid  : BitVec 16
  va    : DWord
  kind  : AccessKind
  recs  : List (Agent × List Nat × ReadReq)
  open_ : Bool
  before : List Nat
  later : List PendWrite
  deriving DecidableEq, Repr

/-- A marker that a Troxia port has not answered (R321): who waits, whom to answer, the port, the requests made before it came. -/
structure PodMark where
  who    : MarkFor
  back   : Agent
  port   : Nat
  before : Nat
  deriving DecidableEq, Repr

/-- A marker a slice has not answered: who waits, whom to answer, the writes forwarded before it that are pending (R320). -/
structure SliceMark where
  who    : MarkFor
  back   : Agent
  before : List Nat
  deriving DecidableEq, Repr

/-- A slice of a die (R235 to R237, R319). -/
structure Slice where
  lines : List Line
  merge : List MergeEntry
  pend  : List PendWrite
  marks : List SliceMark
  deriving DecidableEq, Repr

def Slice.reset : Slice := { lines := [], merge := [], pend := [], marks := [] }

/-- What follows a release (R317, R345, R347, R363, R391, R377). -/
inductive RelThen where
  /-- the requests of a window entry -/
  | entry (id : Nat)
  /-- a FENCE of the held sheaf: the scope of the acquire that follows, if any -/
  | fence (i : Instr) (acquire : Option Nat)
  /-- a barrier arrival of the held sheaf: the barrier, its count -/
  | barrier (i : Instr) (b : Nat) (count : Option Nat) (mask : TMask)
  | hub (f : HubFrom) (r : HubReq)
  /-- a workgroup's retirement, its save -/
  | retire (wg : Nat)
  | save (wg : Nat)
  deriving DecidableEq, Repr

/-- A release in progress (R317, R318). -/
structure Release where
  sheaf : Option Nat
  core  : Nat
  lgrps : List Nat
  scope : Nat
  stage : Nat
  /-- the window entry that performs it, which it does not wait for; none for other releases -/
  own   : Option Nat
  /-- window entries numbered below this are waited for -/
  before : Nat
  /-- store-buffer entries and sends numbered below this are waited for -/
  mark  : Nat
  /-- markers still unanswered -/
  left  : Nat
  then_ : RelThen
  deriving DecidableEq, Repr

/-- A leaf entry in a home's translation cache (R242). -/
structure TcEntry where
  asid  : BitVec 16
  va    : DWord
  size  : Nat
  entry : DWord
  deriving DecidableEq, Repr

/-- The kind of a fault record (R244, R381, R383, R393, R402) with its 32 bytes' fields. -/
structure FaultRec where
  va     : DWord
  asid   : BitVec 16
  kind   : Nat
  access : Nat
  mask   : TMask
  node   : Nat
  place  : Nat
  lane   : Nat
  slot   : Nat
  level  : Nat
  batch  : Nat
  token  : Word
  time   : Word
  deriving DecidableEq, Repr

/-- A pending page (R243, R244): its token and kind; its record until it is written to the ring, with its number in the order in which records
are made (R245); the sheaves parked on it are counted. -/
structure PendPage where
  asid  : BitVec 16
  page  : DWord
  token : Word
  kind  : Nat
  level : Nat
  recd  : Option FaultRec
  made  : Nat
  /-- the window entry or the engine operation whose threads MASK collects (R243, R270) -/
  op    : Option Nat
  since : Nat
  deriving DecidableEq, Repr

/-- The fault queue (R245): the error records kept beside the ring, each with its number in the order in which records are made, and the next
number; the fault records kept are with their pages. -/
structure FaultQueue where
  base   : DWord
  irq    : Bool
  vector : Nat
  log2   : Nat
  head   : Nat
  tail   : Nat
  lost   : Word
  held   : List (Nat × FaultRec)
  made   : Nat
  next   : Word
  deriving DecidableEq, Repr

/-- A request sent to another package and not yet acknowledged (R321, R402): the port, who waits. -/
structure PodOut where
  seq   : Nat
  port  : Nat
  pkg   : Nat
  core  : Nat
  asker : Asker
  sheaf : Nat
  write : Bool
  base  : DWord
  /-- the threads of an entry's request; the bytes of an engine's write -/
  mask  : TMask
  bytes : Nat
  /-- a message of a die to a counter's home in that package (R352) -/
  al    : Option (Nat × AlMsg) := none
  deriving DecidableEq, Repr

end Sys2Proof.Machine
end

