-- ==== Sys2Proof/Machine/UnitTypes.lean ====
section
/-! DEFINITION. The records of the engines, the allowance levels and the hub's units: copy-and-gather operations (R266 to R279),
matrix operations (R293 to R309), allowances (R352 to R359), moves (R248), HBM channels, Troxia ports, the boot flash. -/

namespace Sys2Proof.Machine

/-- A block returned to an engine item: data, tag, poisoned words, or how it failed. -/
structure EngBlk where
  blk    : Blk
  tag    : Tag
  poison : BitVec 16
  status : MemStatus
  deriving DecidableEq, Repr

/-- A block of an engine operation held by a fault (R270): the page's token, the read or write to perform. -/
structure HeldBlk where
  token : Word
  read  : Option (Nat × DWord)
  write : Option WriteReq
  atom  : Option AtomAns
  deriving DecidableEq, Repr

/-- One independent part of an engine operation (R269): a source block of a copy, a row of a gather, a bag, a row of a
scatter-add, a stretch of a fill, a copy of a drain. `asked` holds the numbers of the reads out, `got` what came back, `acks`
the writes not yet performed. -/
structure EngItem where
  thread : Nat
  index  : Nat
  /-- the source block of a copy; the rows of a gather or a bag, none for a row of zeros -/
  src    : List (Option DWord)
  /-- bytes of a copy's part -/
  len    : Nat
  dst    : DWord
  weights : List Word
  asked  : List Nat
  got    : Map EngBlk
  acks   : Nat
  held   : List HeldBlk
  /-- the core that holds its barrier object, unless several do (R273) -/
  boCore : Option Nat
  /-- its result has been written, or it has failed -/
  settled : Bool
  /-- its list of rows or weights is poisoned (R381) -/
  bad : Bool := false
  deriving DecidableEq, Repr

/-- A copy-and-gather operation, or the memory side of a matrix operation (R266, R268, R309). -/
structure EngOp where
  id     : Nat
  wg     : Nat
  idx    : Nat
  core   : Nat
  /-- counted on MATRIX in place of COPY -/
  matrix : Bool
  instr  : Instr
  /-- the ASID of its accesses to space 0, and that of its workgroup -/
  asid   : BitVec 16
  own    : BitVec 16
  level  : Level
  lead   : Nat
  mask   : TMask
  /-- A, B and C of the lowest executing thread -/
  a      : DWord
  b      : DWord
  c      : DWord
  /-- per-thread C -/
  cs     : Map Word
  /-- record words read at issue (R263) -/
  recA   : Option (List Word)
  recB   : Option (List Word)
  /-- the record of its source or table once it has begun -/
  words  : List Word
  begun  : Bool
  items  : List EngItem
  /-- the offset of its barrier object (R273) -/
  bo     : Option Nat
  /-- barrier-object arrivals not yet counted -/
  boLeft : Nat
  /-- the offsets that a destination region must hold (R272) -/
  span   : Option (Nat × Nat)
  /-- generator: key, stream and counter of the issuing sheaf (R79) -/
  key    : Word
  stream : Word
  ctr    : Word
  complete : Bool
  deriving DecidableEq, Repr

/-- Where a matrix operation stands (R293, R294). -/
inductive MxStage where
  | wanting | queued | running
  deriving DecidableEq, Repr

/-- An operation of a matrix engine (R293). -/
structure MxOp where
  id     : Nat
  wg     : Nat
  idx    : Nat
  lane   : Nat
  instr  : Instr
  stage  : MxStage
  /-- operand values from thread 0 -/
  a      : DWord
  b      : DWord
  c      : DWord
  /-- AWR's captured data by thread -/
  data   : Map DWord
  asid   : BitVec 16
  level  : Level
  /-- record words read at issue -/
  recB   : Option (List Word)
  recC   : Option (List Word)
  /-- why a record of local store could not be read when the operation began (R266, R308) -/
  badB   : Option Nat
  badC   : Option Nat
  repro  : Bool
  key    : Word
  stream : Word
  ctr    : Word
  /-- the end of its occupancy, once it has begun -/
  till   : Nat
  /-- SWR row buffers that had started before the admission: lanes (R295) -/
  rows   : List Nat
  deriving DecidableEq, Repr

/-- A lane's row buffer (R295): the row written, its words and tags, matrix operations admitted before it started. -/
structure RowBuf where
  lane   : Nat
  wg     : Nat
  idx    : Nat
  row    : Nat
  words  : List Word
  tags   : Word
  before : List Nat
  deriving DecidableEq, Repr

/-- A core's entry for an allowance counter (R352, R415): units, takes queued behind a refill, the SCARCE record. -/
structure AlCore where
  key    : AlKey
  units  : Nat
  held   : Bool
  scarce : Bool
  queue  : List AlTake
  asked  : Bool
  poison : Bool
  used   : Nat
  deriving DecidableEq, Repr

/-- A die slice's entry for an allowance counter (R352, R415): the cores that hold units, takes queued, and a recall in progress
with the cores still to answer. -/
structure AlDie where
  key    : AlKey
  units  : Nat
  held   : Bool
  cores  : List Nat
  scarce : Bool
  recalling : List Nat
  evict  : Bool
  sum    : Nat
  poison : Bool
  used   : Nat
  deriving DecidableEq, Repr

/-- What waits in a counter's home queue (R353, R357). -/
inductive AlWaiter where
  | take (die : Nat) (t : AlTake)
  | read (core entry : Nat) (close : Bool)
  deriving DecidableEq, Repr

/-- A counter's home queue and the answers its recall round still wants (R354): dies, and packages. -/
structure AlHome where
  key    : AlKey
  queue  : List AlWaiter
  dies   : List Nat
  pkgs   : List Nat
  recalling : Bool
  deriving DecidableEq, Repr

/-- A page move in progress (R248). -/
structure Move where
  page    : Nat
  promote : Bool
  frame   : Nat
  phases  : Nat
  marked  : List Nat
  deriving DecidableEq, Repr

/-- The tracker of the capacity tier (R247 to R249). -/
structure Tracker where
  budget  : Nat
  period  : Nat
  nextBudget : Nat
  nextPeriod : Nat
  poolPages : Nat
  /-- the cycle at which the period began -/
  since   : Nat
  counts  : Map Nat
  /-- pool frame of each promoted page -/
  pool    : Map Nat
  moves   : List Move
  deriving DecidableEq, Repr

/-- The registers and channels of an HBM stack (R382, R403, R404). -/
structure Stack where
  rate    : BitVec 2
  rateCur : BitVec 2
  srIdle  : BitVec 16
  pdIdle  : BitVec 16
  /-- channels that have not yet switched -/
  switching : List Nat
  chanRate : Map Nat
  /-- pseudo-channels in power-down (1) and in self-refresh (2) -/
  pcState : Map Nat
  /-- cycle of each pseudo-channel's last request -/
  pcUsed  : Map Nat
  crcRun  : Map Nat
  linkReplay : Word
  linkDown : Word
  arrayCe : Word
  arrayUe : Word
  deriving DecidableEq, Repr

/-- A line of a memory-side cache (R238, R380): its way and policy, the ASID of its last writer, or of its fill while it has not
been written since, the time of its last use. -/
structure MscLine where
  way   : Nat
  pol   : Nat
  asid  : BitVec 16
  dirty : Bool
  used  : Nat
  deriving DecidableEq, Repr

/-- A flit of a port's replay buffer (R400, R401): its sequence number, the epoch of the key that seals it, whose parity is its key bit, and the
request that it carries. -/
structure HeldFlit where
  seq   : BitVec 24
  epoch : Nat
  req   : Nat
  deriving DecidableEq, Repr

/-- A flit put on a port's link (R400): the header's sequence number, key bit and acknowledgement, the request, the tag. -/
structure SentFlit where
  seq    : BitVec 24
  keyBit : Bool
  ack    : BitVec 24
  req    : Nat
  tag    : BitVec 128
  deriving DecidableEq, Repr

/-- A Troxia port (R400 to R402): up, the next sequence expected and the next to send, the last acknowledged. -/
structure Port where
  up      : Bool
  expect  : BitVec 24
  sent    : BitVec 24
  acked   : BitVec 24
  /-- the epoch of the sender's key, and of the receiver's oldest key; whether the receiver holds the next one beside it (R401) -/
  epoch     : Nat
  recvEpoch : Nat
  recvBoth  : Bool
  /-- how many times in a row each flit has been rejected (R402) -/
  rejects : Map Nat
  /-- flits sent and not acknowledged -/
  replay  : List HeldFlit
  /-- what the port has put on its link -/
  line    : List SentFlit
  /-- requests that wait for room in the replay buffer of 512 flits -/
  queue   : List Nat
  /-- the first sequence number under the new key, until the sender has erased the old one; rollovers that wait (R401) -/
  rollover : Option (BitVec 24)
  waiting  : List (BitVec 24)
  deriving DecidableEq, Repr

/-- The registers of power and telemetry (R406). -/
structure Power where
  limitW   : BitVec 16
  powerMw  : Word
  /-- microjoules since reset -/
  energyUj : Nat
  throttle : Nat
  temps    : Map (BitVec 16)
  deriving DecidableEq, Repr

/-- The fuses (R16, R19, R20). -/
structure Fuses where
  digestEd : List Byte
  digestMl : List Byte
  minSvn   : Nat
  secret   : BitVec 256
  deriving DecidableEq, Repr

/-- The recovery mailbox (R18), and the set that the root of trust has read. -/
structure Mailbox where
  reason  : Nat
  status  : Nat
  setAddr : DWord
  setLen  : Word
  cmd     : Nat
  set     : List Byte
  deriving DecidableEq, Repr

/-- A host write on its way (R332): a write of bytes at a device-physical address, or a write of a control register or slot. -/
structure HostWrite where
  dpa   : Nat
  bytes : List Byte
  deriving DecidableEq, Repr

/-- A release, marker round or flushing read of the hub (R392, R321, R379). -/
structure HubMark where
  who   : MarkFor
  left  : Nat
  deriving DecidableEq, Repr

/-- An XLINV in progress (R390): its number, the slot it was issued in, its sheaf, the ASID, first address and pages it names, the dies of
its scope, whether their slices have their markers, the answers still to come. -/
structure XlInv where
  id   : Nat
  slot : Nat
  wg   : Nat
  idx  : Nat
  asid : BitVec 16
  va   : DWord
  pages : Nat
  dies : List Nat
  sent : Bool
  left : Nat
  deriving DecidableEq, Repr

end Sys2Proof.Machine
end

