-- ==== Sys2Proof/Machine/State.lean ====
section
/-! DEFINITION. The state of the machine, as plain data, and its value right after reset. -/

namespace Sys2Proof.Machine

/-- Why a run stops. -/
inductive Fault where
  /-- raised by every Usron instruction executed while no sheaf is chosen: an instruction exists only in a sheaf. Safe. -/
  | noSheaf
  deriving DecidableEq, Repr

/-- Why an instruction has no meaning. -/
inductive Refusal where
  /-- raised by an arm of the dispatch that has no meaning yet. Safe. -/
  | notModelled (mnemonic : String)
  deriving DecidableEq, Repr

/-- A constant-cache block (R47). -/
structure CcBlock where
  asid : BitVec 16
  va   : DWord
  data : Blk
  deriving DecidableEq, Repr

/-- An instruction-cache line (R119, R122): the time of its last use orders the unpinned ways of a set. -/
structure IcLine where
  asid   : BitVec 16
  va     : DWord
  lo     : Blk
  hi     : Blk
  pinned : Bool
  used   : Nat
  deriving DecidableEq, Repr

/-- Who waits for an instruction-cache line beside the sheaves that fetch it (R121, R188): a CFETCH; a CPIN with its
destination, none under NW, and threads. -/
inductive IcWant where
  | code (op : Nat)
  | pin (wg idx : Nat) (d : Option Nat) (mask : TMask)
  deriving DecidableEq, Repr

/-- An outstanding line miss (R121): the two blocks as they arrive, and how the fill failed. -/
structure IcMiss where
  asid : BitVec 16
  va   : DWord
  lo   : Option Blk
  hi   : Option Blk
  fail : Option MemStatus
  /-- the block that brought the failure -/
  failAt : DWord
  sent : Bool
  /-- a node of the ASID has become ready since it was asked: what it brings is not kept (R123) -/
  stale : Bool
  want : List IcWant
  deriving DecidableEq, Repr

/-- A constant fill outstanding (R47): stale once a node of its ASID has become ready, or a workgroup of it has come to the core,
since it was asked. -/
structure CcMiss where
  asid  : BitVec 16
  va    : DWord
  stale : Bool
  deriving DecidableEq, Repr

/-- An operation counted on CODE or REMOTE (R280): the sheaf, and how many lines or targets are still to answer. -/
structure CountedOp where
  id   : Nat
  wg   : Nat
  idx  : Nat
  left : Nat
  deriving DecidableEq, Repr

/-- Blocks of a core that a drain, a drop or an invalidation has passed since reads of them may have left (R234): from an address on, for
some bytes, with the core's epoch then. -/
structure Overtaken where
  asid : BitVec 16
  va   : DWord
  len  : Nat
  at_  : Nat
  deriving DecidableEq, Repr

/-- A core (R3, R10). -/
structure Core where
  ic      : List IcLine
  icMiss  : List IcMiss
  cc      : List CcBlock
  ccMiss  : List CcMiss
  bp      : List DWord
  dbgAsid : BitVec 16
  dbgStep : Bool
  dbgAttach : Bool
  sysBase : DWord
  /-- MX_SEL (R292) -/
  mxSel   : BitVec 8
  /-- claims by entry (lane group·64 + kind·32 + index): the workgroup (R287) -/
  claims  : Map Nat
  /-- content owners by entry: ASID and workgroup tag (R287) -/
  owners  : Map (BitVec 16 × Word)
  /-- store buffers by lane group, oldest entry first (R230) -/
  sb      : Map (List SbEntry)
  l1      : List Line
  /-- counts the events after which fills sent before may not be kept: of every block before `flushed`, of those in `overtaken` since -/
  epoch   : Nat
  flushed : Nat
  overtaken : List Overtaken
  /-- local-store requests waiting for their banks (R225) -/
  bankQ   : List LsReq
  /-- the cycle from which each bank may accept again (R225) -/
  bankAt  : Map Nat
  /-- space-2 stores sent and not acknowledged (R226): their numbers -/
  peerOut : List Nat
  remote  : List CountedOp
  code    : List CountedOp
  eng     : List EngOp
  al      : List AlCore
  mq      : Map (List MxOp)
  rows    : List RowBuf
  /-- admission pointers by lane group (R293) -/
  mxPtr   : Map Nat
  deriving DecidableEq, Repr

def Core.reset : Core :=
  { ic := [], icMiss := [], cc := [], ccMiss := [], bp := [0, 0, 0, 0], dbgAsid := 0, dbgStep := false, dbgAttach := false,
    sysBase := 0, mxSel := 0, claims := [], owners := [], sb := [], l1 := [], epoch := 0, flushed := 0, overtaken := [], bankQ := [], bankAt := [], peerOut := [],
    remote := [], code := [], eng := [], al := [], mq := [], rows := [], mxPtr := [] }

/-- DEV_STATE (R15). -/
structure DevState where
  phase     : Nat
  trainDone : Bool
  trainFail : Bool
  capUp     : Bool
  storeDeg  : Bool
  earlyDie  : Nat
  diesUp    : BitVec 9
  stacksUp  : BitVec 12
  deriving DecidableEq, Repr

/-- The attempts of a unit's training and how they ended (R23). -/
structure Trained where
  unit     : TrainUnit
  attempts : Nat
  passed   : Bool
  deriving DecidableEq, Repr

/-- The state of the machine. -/
structure State where
  dev      : DevState
  /-- fused variant FX940-L (R4) -/
  variantL : Bool
  fuses    : Fuses
  /-- the boot flash and its extent (R16, R17) -/
  flash    : List Byte
  flashExtent : Nat
  /-- digest, version and image digests of the manifest that runs (R16, R17, R21) -/
  running  : Option (List Byte × Nat × List (List Byte))
  mbox     : Mailbox
  train    : List Trained
  hostLink : Bool
  /-- the cycle at which transition began (R27) -/
  transAt  : Option Nat
  discVersion : Nat
  podSize  : Nat
  /-- the package number (R43) -/
  pkg      : Nat
  clk      : Nat
  lsCap    : Nat
  /-- installed bytes of the two expanders and of each LPDDR module (R399, R405) -/
  expMedia : List Nat
  lpddrModules : List Nat
  heap12   : Bool
  heap14   : Bool
  heap14Lost : Bool
  /-- heap 14 has been lost and its record of KIND 0x12 is not made yet (R383) -/
  heap14Owed : Bool
  /-- heap capacities a partition is assigned (R29): heap·4 + partition -/
  heapCaps : Map Nat
  /-- QUANTUM and PREEMPT_WAIT of the four partitions (R100) -/
  quantum  : List Word
  preWait  : List Word
  mode     : PartMode
  ctxs     : Map Context
  nodes    : Map Node
  status   : Map SlotStatus
  slotBytes : Map Byte
  slotOwner : Map (BitVec 16)
  wgs      : Map Workgroup
  sheaves  : Map Sheaf
  cores    : Map Core
  slices   : Map Slice
  alDie    : Map (List AlDie)
  alHome   : List AlHome
  win      : Map WinEntry
  /-- numbers window entries, store-buffer entries, packets and operations in the order they are made -/
  winNext  : Nat
  rels     : Map Release
  net      : List Flight
  /-- inputs of each crossbar output, least recently granted first (R343): die·128 + output -/
  granted  : Map (List Nat)
  ls       : Map Byte
  lsTag    : Map Tag
  lsPoison : Map Bool
  /-- live barrier objects by local-store key / 16; true once a lane has stored into one (R348) -/
  bos      : Map Bool
  /-- operand slots and tiles: core·2^21 + lane group·2^19 + byte (slots), + 2^18 + byte (tiles) -/
  slotMem  : Map Byte
  slotTag  : Map Tag
  tileMem  : Map Byte
  slotPoison : Map Bool
  mem      : Map Byte
  memTag   : Map Tag
  memPoison : Map Bool
  /-- the lines of the memory-side caches, by block (R3, R238) -/
  msc      : Map MscLine
  tc       : Map (List TcEntry)
  pend     : List PendPage
  /-- the releases made of pages, by PARK_ID: FAIL (R246) -/
  released : Map Bool
  fq       : FaultQueue
  frames   : Map (DWord × Nat)
  hubMarks : List HubMark
  /-- XLINVs in progress by number (R390) -/
  xls      : Map XlInv
  podOut   : List PodOut
  podMarks : List PodMark
  /-- what reached the debug port and Prosy's reports of kills -/
  reports  : List (Nat × Word)
  /-- what the host's aperture reads returned, and the attestation reports (R21, R397) -/
  hostReads : List (List Byte)
  attested : List (List Byte)
  /-- host writes into device heaps that have arrived and are not yet performed (R332) -/
  posted   : List HostWrite
  /-- MSI-X messages sent, masks and pending bits (R398) -/
  msiSent  : List Nat
  msiMask  : BitVec 64
  msiPend  : BitVec 64
  msiTable : Map Word
  evtData  : Map Word
  /-- APER_CTL as written, and as in force for the aperture (R397) -/
  aper     : DWord
  aperNow  : DWord
  ways     : Map (BitVec 16)
  hbm   : Map Stack
  sramCe   : Map Word
  sramUe   : Map Word
  ports    : Map Port
  trk      : Tracker
  power    : Power
  /-- the cycle of each core's last register scrub (R380) -/
  scrubbed : Map Nat
  /-- steps chosen to come next -/
  agenda   : List Instr
  /-- the sheaf slot whose instruction issues -/
  cur      : Option Nat
  /-- counts the free values drawn -/
  free     : Nat
  deriving DecidableEq, Repr

/-- A stack's registers at reset (R382, R404). -/
def Stack.reset : Stack :=
  { rate := 0, rateCur := 0, srIdle := 0x0258, pdIdle := 0x0400, switching := [], chanRate := [], pcState := [], pcUsed := [], crcRun := [],
    linkReplay := 0, linkDown := 0, arrayCe := 0, arrayUe := 0 }

/-- A Troxia port at reset: not trained; where its sequence numbers and its key bit start is a choice of the model (log 12). -/
def Port.reset : Port :=
  { up := false, expect := 0, sent := 0, acked := 0xFFFFFF, epoch := 0, recvEpoch := 0, recvBoth := false, rejects := [], replay := [], line := [],
    queue := [], rollover := none, waiting := [] }

/-- The frame regions that Prosy fixed, by die (R369): the top 16 MiB of the die's lowest stack, at the same heap-relative
address (log 9). -/
def framesReset : Map (DWord × Nat) :=
  [(0, 0), (1, 2), (2, 3), (3, 5), (5, 6), (6, 7), (7, 9), (8, 10)].map (fun dh =>
    (dh.1, (BitVec.ofNat 64 (dh.2 * 2 ^ 52 + (64 * 2 ^ 30 - 2 ^ 24)), dh.2 * 2 ^ 52 + (64 * 2 ^ 30 - 2 ^ 24))))

/-- The machine right after package reset (R14, R15 and the reset columns of the registers; log 2 to 13 for what the spec
leaves open). -/
def State.reset : State :=
  { dev := { phase := 0, trainDone := false, trainFail := false, capUp := false, storeDeg := false, earlyDie := 15, diesUp := 0,
             stacksUp := 0 }
    variantL := false
    fuses := { digestEd := [], digestMl := [], minSvn := 0, secret := 0 }
    flash := []
    flashExtent := 0x4000000
    running := none
    mbox := { reason := 0, status := 0, setAddr := 0, setLen := 0, cmd := 0, set := [] }
    train := []
    hostLink := false
    transAt := none
    discVersion := 0
    podSize := 1
    pkg := 0
    clk := 0
    lsCap := 0x800000
    expMedia := [0, 0]
    lpddrModules := List.replicate 16 274877906944
    heap12 := false
    heap14 := false
    heap14Lost := false
    heap14Owed := false
    heapCaps := []
    quantum := [0x00124F80, 0x00124F80, 0x00124F80, 0x00124F80]
    preWait := [0x04689ABF, 0x04689ABF, 0x04689ABF, 0x04689ABF]
    mode := .one
    ctxs := []
    nodes := []
    status := []
    slotBytes := []
    slotOwner := []
    wgs := []
    sheaves := []
    cores := []
    slices := []
    alDie := []
    alHome := []
    win := []
    winNext := 0
    rels := []
    net := []
    granted := []
    ls := []
    lsTag := []
    lsPoison := []
    bos := []
    slotMem := []
    slotTag := []
    tileMem := []
    slotPoison := []
    mem := []
    memTag := []
    memPoison := []
    msc := []
    tc := []
    pend := []
    released := []
    fq := { base := 0, irq := false, vector := 0, log2 := 0, head := 0, tail := 0, lost := 0, held := [], made := 0, next := 1 }
    frames := framesReset
    hubMarks := []
    xls := []
    podOut := []
    podMarks := []
    reports := []
    hostReads := []
    attested := []
    posted := []
    msiSent := []
    msiMask := 0xFFFFFFFFFFFFFFFF
    msiPend := 0
    msiTable := []
    evtData := []
    aper := 0
    aperNow := 0
    ways := []
    hbm := []
    sramCe := []
    sramUe := []
    ports := []
    trk := { budget := 0x100, period := 0x3E8, nextBudget := 0x100, nextPeriod := 0x3E8, poolPages := 0, since := 0, counts := [],
             pool := [], moves := [] }
    power := { limitW := 0x0E10, powerMw := 0, energyUj := 0, throttle := 16, temps := [] }
    scrubbed := []
    agenda := []
    cur := none
    free := 0 }

end Sys2Proof.Machine
end

