-- ==== Sys2Proof/Machine/Topology.lean ====
section
/-! DEFINITION. Dies, links, heaps and partitions (R1, R2, R28, R29), the fixed paths between dies (R420) and the discovery
table (R49, R311, R313 to R316). -/

namespace Sys2Proof.Machine

/-- The hub die (R1). -/
def hubDie : Nat := 4
/-- The core dies in ascending position (R1). -/
def coreDies : List Nat := [0, 1, 2, 3, 5, 6, 7, 8]
/-- The twelve links (R1). -/
def dieLinks : List (Nat × Nat) :=
  [(0, 1), (1, 2), (6, 7), (7, 8), (0, 3), (3, 6), (2, 5), (5, 8), (1, 4), (3, 4), (4, 5), (4, 7)]
/-- Whether two dies share a link. -/
def linked (a b : Nat) : Bool := dieLinks.any (fun l => (l.1 == a && l.2 == b) || (l.1 == b && l.2 == a))

/-- The die of a heap's home agent (R2, R224); the hub for heaps 12 to 14. -/
def heapDie (h : Nat) : Nat :=
  match h with
  | 0 => 0
  | 1 => 0
  | 2 => 1
  | 3 => 2
  | 4 => 2
  | 5 => 3
  | 6 => 5
  | 7 => 6
  | 8 => 6
  | 9 => 7
  | 10 => 8
  | 11 => 8
  | _ => hubDie

/-- The number of partitions of a mode (R28). -/
def modeParts (m : PartMode) : Nat :=
  match m with
  | .one => 1
  | .two => 2
  | .four => 4

/-- The dies of a partition (R28). -/
def partDies (m : PartMode) (q : Nat) : List Nat :=
  match m, q with
  | .one, _ => coreDies
  | .two, 0 => [0, 1, 2, 3]
  | .two, _ => [5, 6, 7, 8]
  | .four, 0 => [0, 1]
  | .four, 1 => [2, 5]
  | .four, 2 => [7, 8]
  | .four, _ => [3, 6]

/-- The stacks of a partition (R28). -/
def partHeaps (m : PartMode) (q : Nat) : List Nat := (List.range 12).filter (fun h => (partDies m q).contains (heapDie h))

/-- The slots of a partition (R28, R90): first and count. -/
def partSlots (m : PartMode) (q : Nat) : Nat × Nat := (q * (65536 / modeParts m), 65536 / modeParts m)

/-- The partition that owns a slot (R90). -/
def slotPart (m : PartMode) (slot : Nat) : Nat := slot / (65536 / modeParts m)

/-- Every path from a die within the allowed dies, shortest first by fuel; each path lists its dies from the source. -/
def pathsTo (allowed : List Nat) (dst : Nat) : Nat → Nat → List (List Nat)
  | 0, src => if src == dst then [[src]] else []
  | fuel + 1, src =>
    if src == dst then [[src]]
    else
      (allowed.filter (fun d => linked src d)).flatMap (fun d => (pathsTo allowed dst fuel d).map (fun p => src :: p))

/-- The path between two dies (R420): shortest within the allowed dies; through the hub only where no candidate avoids it;
then the lower die position at each step. -/
def diePath (allowed : List Nat) (src dst : Nat) : List Nat :=
  let dies := (List.range 9).filter (fun d => allowed.contains d || d == hubDie || d == src || d == dst)
  match (List.range 7).find? (fun n => !(pathsTo dies dst n src).isEmpty) with
  | none => []
  | some n =>
    let ps := pathsTo dies dst n src
    let avoiding := ps.filter (fun p => (p.drop 1).dropLast.all (fun d => d != hubDie))
    (if avoiding.isEmpty then ps else avoiding).headD []

/-- The next die on the way (R420). -/
def nextDie (allowed : List Nat) (src dst : Nat) : Nat := (diePath allowed src dst).getD 1 dst

/-- The scope that a kind acts as (R311): LAYER as DIE, FIELD as DEVICE. -/
def actsAs (k : Nat) : Nat := if k == 2 then 3 else if k == 4 then 5 else k

/-- What the discovery table depends on (R313, R316). -/
structure DiscoveryInputs where
  version : Nat
  early   : Option Nat
  mode    : PartMode
  dies    : Nat
  pods    : Nat
  lsCap   : Nat
  deriving DecidableEq, Repr

/-- MAX_HOPS of the DEVICE row (R315, R316). -/
def DiscoveryInputs.maxHops (x : DiscoveryInputs) : Nat :=
  match x.early with
  | some d => if linked d hubDie then 1 else 2
  | none => match x.mode with
    | .one => 4
    | .two => 3
    | .four => 2

/-- REL_TYP and REL_WORST of the DEVICE row (R315, R316). -/
def DiscoveryInputs.relDevice (x : DiscoveryInputs) : Nat × Nat :=
  match x.early with
  | some _ => (130, 1600)
  | none => match x.mode with
    | .one => (420, 1900)
    | .two => (340, 1820)
    | .four => (180, 1660)

/-- Words 0 to 12 of the row of a kind (R314 to R316). -/
def DiscoveryInputs.row (x : DiscoveryInputs) (kind : Nat) : List Nat :=
  let present := if kind == 2 || kind == 4 then 0 else 1
  let w0 := actsAs kind * 256 + present
  let (rt, rw) := x.relDevice
  match actsAs kind with
  | 0 => [w0, 1, 1, 1, 2, 1240, 0, 0, 0, 24, 20, 4, 0]
  | 1 => [w0, 4, 1, 1, 8, 1310, 0, 0, 0, 24, 24, 4, 0]
  | 3 => [w0, 64, 1, 1, 110, 1420, 4, 4, 1, 300, 140, 120, 0]
  | 5 => [w0, 64 * x.dies, x.dies, 1, rt, rw, 8, 8, 1, 460, 480, 540, x.maxHops]
  | 6 => [w0, 64 * x.dies * x.pods, x.dies * x.pods, x.pods, 3600, 30000, 8, 8, 2, 4800, 4000, 5200, x.maxHops]
  | _ => [w0, 64 * x.dies * x.pods, x.dies * x.pods, x.pods, 4200, 36000, 8, 8, 3, 3600, 4000, 0xFFFFFFFF, x.maxHops]

/-- Word k of window 7 (R49, R313, R314), for k from 0 to 135. -/
def DiscoveryInputs.word (x : DiscoveryInputs) (k : Nat) : Word :=
  BitVec.ofNat 32 (match k with
    | 0 => x.version
    | 1 => modeParts x.mode
    | 2 => x.dies
    | 3 => 16 * x.dies
    | 4 => 0xEB
    | 5 => x.pods
    | 6 => x.lsCap
    | 7 => 0
    | k => (x.row ((k - 8) / 16)).getD ((k - 8) % 16) 0)

end Sys2Proof.Machine
end

