-- ==== Sys2Proof/Machine/Mem.lean ====
section
/-! DEFINITION. Bytes, blocks and tags of local store and of device memory at its homes, MSI-X messages and the fault queue: the
operations that everything that writes memory goes through (R6, R68 to R71, R236, R238, R244, R245, R381, R398). -/

namespace Sys2Proof.Machine

/-! Where things are (R1, R10, R369): a sheaf slot is numbered core·1,024 + lane·4 + slot, a core die·16 + core. -/

def slotCore (k : Nat) : Nat := k / 1024
def slotLane (k : Nat) : Nat := k % 1024 / 4
def slotSlot (k : Nat) : Nat := k % 4
def slotLgrp (k : Nat) : Nat := slotLane k / 64
def coreDie (c : Nat) : Nat := c / 16
def slotDie (k : Nat) : Nat := coreDie (slotCore k)

/-- The space, the POLICY and the heap of an effective address (R220, R232). -/
def eaSpace (a : DWord) : Nat := a.toNat / 2 ^ 60
def eaPolicy (a : DWord) : Nat := a.toNat / 2 ^ 57 % 8
def eaHeap (a : DWord) : Nat := a.toNat / 2 ^ 52 % 32
/-- The virtual address that caches and tables see: the address without its POLICY (R220, R232). -/
def eaVa (a : DWord) : DWord := a &&& 0x01FFFFFFFFFFFFFF#64
/-- The code line that holds an address, as caches and fetch buffers key it (R119, R120). -/
def lineAt (a : DWord) : DWord := eaVa a &&& (~~~(127#64))

/-- The partition mode in force (R26, R28): One in early service. -/
def State.modeNow (s : State) : PartMode := if s.dev.phase == 4 then .one else s.mode

/-! Threads. -/

/-- The threads of a mask in ascending order (R9). -/
def threadsOf (m : TMask) : List Nat := (List.range 32).filter (fun t => m.getLsbD t)
/-- The mask of the threads that meet a condition. -/
def maskOf (f : Nat → Bool) : TMask :=
  BitVec.ofNat 32 ((List.range 32).foldl (fun s i => if f i then s + 2 ^ i else s) 0)
/-- The mask of one thread. -/
def threadBit (t : Nat) : TMask := BitVec.ofNat 32 (2 ^ t)
/-- The number of threads in a mask. -/
def countThreads (m : TMask) : Nat := (threadsOf m).length

/-! Bytes of local store and device memory (R6, R68, R116, R239). -/

/-- The key of a local-store byte: core·2^24 + offset. -/
def lsKey (core off : Nat) : Nat := core * 2 ^ 24 + off
def State.lsByte (s : State) (core off : Nat) : Byte := mapGetD s.ls (lsKey core off) 0
/-- A local-store byte written; a whole word written later clears the word's poison (R381). -/
def State.setLsByte (s : State) (core off : Nat) (b : Byte) : State :=
  { s with ls := mapPutD s.ls (lsKey core off) b 0 }
/-- A byte of memory at a device-physical address; unwritten memory reads 0 (log 2). -/
def State.memByte (s : State) (dpa : Nat) : Byte := mapGetD s.mem dpa 0
def State.setMemByte (s : State) (dpa : Nat) (b : Byte) : State := { s with mem := mapPutD s.mem dpa b 0 }

/-- A little-endian number from bytes (R6). -/
def leNat (bs : List Byte) : Nat := bs.foldr (fun b acc => b.toNat + 256 * acc) 0
/-- The n little-endian bytes of a number (R6). -/
def leBytes (n v : Nat) : List Byte := (List.range n).map (fun i => BitVec.ofNat 8 (v >>> (8 * i)))

def State.lsRead (s : State) (core off n : Nat) : List Byte := (List.range n).map (fun i => s.lsByte core (off + i))
def State.lsWrite (s : State) (core off : Nat) (bs : List Byte) : State :=
  (bs.zipIdx).foldl (fun s bi => s.setLsByte core (off + bi.2) bi.1) s
def State.memRead (s : State) (dpa n : Nat) : List Byte := (List.range n).map (fun i => s.memByte (dpa + i))
def State.memWrite (s : State) (dpa : Nat) (bs : List Byte) : State :=
  (bs.zipIdx).foldl (fun s bi => s.setMemByte (dpa + bi.2) bi.1) s
/-- Poison of the words of a written range cleared (R381). -/
def State.lsCleanWords (s : State) (core off n : Nat) : State :=
  { s with lsPoison := mapFilter (fun k _ => !(lsKey core off ≤ 4 * k && 4 * k + 4 ≤ lsKey core (off + n))) s.lsPoison }

/-- A word of a block. -/
def blkWord (b : Blk) (i : Nat) : Word := b.extractLsb' (32 * i) 32
/-- The bytes of a block. -/
def blkBytes (b : Blk) : List Byte := (List.range 64).map (fun i => b.extractLsb' (8 * i) 8)
/-- A block from its bytes. -/
def blkOfBytes (bs : List Byte) : Blk := BitVec.ofNat 512 (leNat bs)
/-- A block with the bytes of a mask replaced. -/
def blkMerge (old new : Blk) (m : BMask) : Blk :=
  blkOfBytes ((List.range 64).map (fun i => if m.getLsbD i then new.extractLsb' (8 * i) 8 else old.extractLsb' (8 * i) 8))


/-! A block of device memory at its home (R65, R68, R236, R380, R381). -/

/-- The target and the block number of a device-physical address (R239). -/
def dpaTarget (dpa : Nat) : Nat := dpa / 2 ^ 52 % 16
def dpaBlock (dpa : Nat) : Nat := dpa / 64

def State.memBlk (s : State) (dpa : Nat) : Blk := blkOfBytes (s.memRead (dpa / 64 * 64) 64)
/-- Host memory has no tags (R68). -/
def State.memTagAt (s : State) (dpa : Nat) : Tag := if dpaTarget dpa == 13 then 0 else mapGetD s.memTag (dpaBlock dpa) 0
def State.memPoisonAt (s : State) (dpa : Nat) : Bool := mapGetD s.memPoison (dpaBlock dpa) false
/-- The word mask of a block's poison. -/
def poisonMask (b : Bool) : BitVec 16 := if b then 0xFFFF else 0

/-- A slice's line, and a block on its way to a slice, with a write laid over it as its home has performed it (R236). -/
def Line.laid (l : Line) (blk : Blk) (mask : BMask) (tag : Option Tag) (bad : Bool) : Line :=
  { l with blk := blkMerge l.blk blk mask, tag := tag.getD l.tag, poison := poisonMask bad }
def BlkAns.laid (a : BlkAns) (blk : Blk) (mask : BMask) (tag : Option Tag) (bad : Bool) : BlkAns :=
  { a with blk := blkMerge a.blk blk mask, tag := tag.getD a.tag, poison := poisonMask bad }

/-- The home-section copies of a home's own die after a write at the home (R236): its slices' lines and the fills on their way to them follow
the write. -/
def State.homeCopies (s : State) (dpa : Nat) (blk : Blk) (mask : BMask) (tag : Option Tag) (bad : Bool) : State :=
  if 12 ≤ dpaTarget dpa then s
  else
    let die := heapDie (dpaTarget dpa)
    { s with
      slices := mapMap (fun k x => if k / 16 == die then
        { x with lines := x.lines.map (fun l => if l.dpa / 64 == dpa / 64 then l.laid blk mask tag bad else l) } else x) s.slices
      net := s.net.map (fun f => match f.p.dst, f.p.msg with
        | .slice d _, .fill q a =>
          if d == die && a.status == .ok && a.dpa / 64 == dpa / 64 then { f with p := { f.p with msg := .fill q (a.laid blk mask tag bad) } } else f
        | _, _ => f) }

/-! The memory-side caches (R3, R234, R238, R380, R423). -/

/-- The element of least use, the first among equals. -/
def leastUsed {α : Type} (used : α → Nat) : List α → Option α
  | [] => none
  | x :: rest => some (rest.foldl (fun b y => if used y < used b then y else b) x)

/-- The order in which the lines of a set give way (R234): RETAIN lines after every other, the least recently used first; a line
placed EVICT_FIRST has the time 0 until it is used again. -/
def giveWay (pol used : Nat) : Nat := (if pol == 3 then 2 ^ 128 else 0) + used

/-- The policy that a fill takes in a set (R234): RETAIN only while at most half of the 16 ways hold RETAIN lines. -/
def setPolicy (pol retained : Nat) : Nat := if pol == 3 && 8 ≤ retained then 1 else pol
/-- The time of use with which a line is placed. -/
def placedUse (pol now : Nat) : Nat := if pol == 2 then 0 else now + 1

/-- The set of a block in the memory-side caches: 512 sets of 16 ways for each of a stack's 32 channels, 65,536 sets for the
capacity tier (R3; log 45 for the map). -/
def mscSet (b : Nat) : Nat × Nat :=
  (dpaTarget (64 * b), if dpaTarget (64 * b) == 12 then b % 65536 else b % 16384)

/-- WAYS of a context's partition for a WAY_PART (R238). -/
def State.mscWays (s : State) (asid : BitVec 16) (wayPart : Nat) : BitVec 16 :=
  let q := match mapFind s.ctxs asid.toNat with | some c => c.partition | none => 0
  mapGetD s.ways (8 * q + wayPart) 0xFFFF

/-- An access of an ASID to a block behind a memory-side cache (R238): a hit in any way; a miss fills one of the ways that its mask
allows, in place of the line that gives way there; BYPASS and an empty mask fill nothing. -/
def State.mscFill (s : State) (dpa : Nat) (asid : BitVec 16) (pol wayPart : Nat) : State :=
  let b := dpaBlock dpa
  if 12 < dpaTarget dpa then s
  else
    match mapFind s.msc b with
    | some l => { s with msc := mapInsert s.msc b { l with used := s.clk + 1 } }
    | none =>
      let ways := s.mscWays asid wayPart
      let set := s.msc.filter (fun x => mscSet x.1 == mscSet b)
      let pol' := setPolicy pol (set.filter (fun x => x.2.pol == 3)).length
      let line (w : Nat) : MscLine := { way := w, pol := pol', asid := asid, dirty := false, used := placedUse pol' s.clk }
      if pol == 4 then s
      else
        match (List.range 16).find? (fun w => ways.getLsbD w && !set.any (fun x => x.2.way == w)) with
        | some w => { s with msc := mapInsert s.msc b (line w) }
        | none =>
          match leastUsed (fun x => giveWay x.2.pol x.2.used) (set.filter (fun x => ways.getLsbD x.2.way)) with
          | some v => { s with msc := mapInsert (mapErase s.msc v.1) b (line v.2.way) }
          | none => s

/-- Whether an access to a block waits at its home because its channel switches its rate (R403); a block that the memory-side cache holds
needs no command of the channel. -/
def State.channelWaits (s : State) (dpa : Nat) : Bool :=
  dpaTarget dpa < 12 && !mapHas s.msc (dpaBlock dpa)
    && (mapGetD s.hbm (dpaTarget dpa) Stack.reset).switching.contains (Config.pseudoChannel (dpa % 2 ^ 52) % 64 / 2)

/-- An access at its home: it counts at its page of heap 12 (R247), a write in a copy phase marks its block (R248); at a stack it
wakes its pseudo-channel, and a command that succeeds ends a run of CRC failures (R382, R404; log 24). -/
def State.mediaAccess (s : State) (dpa : Nat) (write : Bool) : State :=
  if dpaTarget dpa < 12 then
    let k := dpaTarget dpa
    let pc := Config.pseudoChannel (dpa % 2 ^ 52) % 64
    let x := mapGetD s.hbm k Stack.reset
    let x := { x with pcState := mapErase x.pcState pc, pcUsed := mapInsert x.pcUsed pc s.clk, crcRun := mapErase x.crcRun (pc / 2) }
    { s with hbm := mapInsert s.hbm k x }
  else if dpaTarget dpa != 12 then s
  else
    let page := dpa % 2 ^ 52 / 65536
    let b := dpa % 65536 / 64
    { s with trk := { s.trk with
        counts := mapInsert s.trk.counts page (mapGetD s.trk.counts page 0 + 1)
        moves := if write then s.trk.moves.map (fun m =>
            if m.page == page && !m.marked.contains b then { m with marked := m.marked ++ [b] } else m) else s.trk.moves } }

/-- A write of bytes, of the tag where one is given, to a block at its home: the poison goes when the whole block is written;
poisoned data poisons it (R381); a memory-side cache that has it holds it as last written by the ASID (R380). -/
def State.storeBlk (s : State) (dpa : Nat) (asid : BitVec 16) (blk : Blk) (mask : BMask) (tag : Option Tag) (poison : Bool) : State :=
  let base := dpa / 64 * 64
  let host := dpaTarget dpa == 13
  let s := s.mediaAccess dpa true
  let s := (List.range 64).foldl (fun s i => if mask.getLsbD i then s.setMemByte (base + i) (blk.extractLsb' (8 * i) 8) else s) s
  let s := match tag with
    | some t => if host then s else { s with memTag := mapPutD s.memTag (dpaBlock dpa) t 0 }
    | none => s
  let bad := poison || (s.memPoisonAt dpa && mask != BitVec.allOnes 64)
  let s := { s with memPoison := mapPutD s.memPoison (dpaBlock dpa) bad false
                    msc := mapModify s.msc (dpaBlock dpa) (fun l => { l with asid := asid, dirty := true }) }
  s.homeCopies dpa blk mask tag bad

/-- A write of a few bytes at a device-physical address by the hub or the host, block by block (R245, R332, R397). -/
def State.storeBytes (s : State) (dpa : Nat) (asid : BitVec 16) (bs : List Byte) : State :=
  let first := dpa / 64
  let count := if bs.isEmpty then 0 else (dpa + bs.length - 1) / 64 + 1 - first
  (List.range count).foldl (fun s j =>
    let base := (first + j) * 64
    let inb (i : Nat) : Bool := dpa ≤ base + i && base + i < dpa + bs.length
    s.storeBlk base asid (blkOfBytes ((List.range 64).map (fun i => if inb i then bs.getD (base + i - dpa) 0 else 0)))
      (BitVec.ofNat 64 ((List.range 64).foldl (fun n i => if inb i then n + 2 ^ i else n) 0)) none false) s

/-! MSI-X (R398). -/

/-- An event on a vector: a message, or its pending bit while the vector is masked. -/
def State.raiseMsi (s : State) (v : Nat) : State :=
  if s.msiMask.getLsbD (v % 64) then { s with msiPend := s.msiPend ||| BitVec.ofNat 64 (2 ^ (v % 64)) }
  else { s with msiSent := s.msiSent ++ [v % 64] }

/-! The fault queue (R244, R245). -/

/-- The 32 bytes of a record. -/
def FaultRec.bytes (r : FaultRec) : List Byte :=
  leBytes 8 r.va.toNat ++ leBytes 2 r.asid.toNat ++ leBytes 1 r.kind ++ leBytes 1 r.access ++ leBytes 4 r.mask.toNat
    ++ leBytes 2 r.node ++ leBytes 1 r.place ++ leBytes 1 r.lane ++ leBytes 1 r.slot ++ leBytes 1 r.level
    ++ leBytes 2 r.batch ++ leBytes 4 r.token.toNat ++ leBytes 4 r.time.toNat

/-- Whether the ring is enabled. -/
def FaultQueue.on (q : FaultQueue) : Bool := 4 ≤ q.log2 && q.log2 ≤ 16 && q.base.toNat / 2 ^ 52 % 16 ≤ 13
/-- Whether the ring has a free record. -/
def FaultQueue.ringRoom (q : FaultQueue) : Bool := q.on && (q.tail + 1) % 2 ^ q.log2 != q.head % 2 ^ q.log2
/-- Where the record at FQ_TAIL lies. -/
def FaultQueue.slot (q : FaultQueue) : Nat := (q.base.toNat % 2 ^ 56 / 4096 * 4096) + 32 * (q.tail % 2 ^ q.log2)
/-- A record written at FQ_TAIL. -/
def State.fqWrite (s : State) (r : FaultRec) : State :=
  let q := s.fq
  let s := s.storeBytes q.slot 0xFFFF r.bytes
  let s := { s with fq := { q with tail := (q.tail + 1) % 2 ^ q.log2 } }
  if q.irq then s.raiseMsi q.vector else s

/-- The records that the hub keeps beside the ring (R245): error records, and those of pages not yet written. -/
def State.recordsKept (s : State) : Nat := (s.pend.filter (fun p => p.recd.isSome)).length + s.fq.held.length
/-- Whether a page's record has been held for 256 cycles (R244). -/
def State.ripe (s : State) (p : PendPage) : Bool := p.recd.isSome && p.since + 256 ≤ s.clk
/-- Whether the ring takes a record made now (R245): it has room, and no record waits for room. -/
def State.ringOpen (s : State) : Bool :=
  s.fq.ringRoom && s.fq.held.isEmpty && !s.pend.any (fun p => s.ripe p) && !s.channelWaits (s.fq.slot)
/-- The kept record that was made first, by its number: an error record, or a page with its record. -/
def State.firstMade (s : State) : Option (Nat × (FaultRec ⊕ PendPage)) :=
  let all : List (Nat × (FaultRec ⊕ PendPage)) :=
    s.fq.held.map (fun h => (h.1, .inl h.2)) ++ (s.pend.filter (fun p => p.recd.isSome)).map (fun p => (p.made, .inr p))
  leastUsed (fun x => x.1) all

/-- An error record made: written, kept, or, with nowhere to go, dropped and counted in FQ_LOST. -/
def State.fqRecord (s : State) (r : FaultRec) : State :=
  if s.ringOpen then s.fqWrite r
  else if s.recordsKept < 1024 then { s with fq := { s.fq with held := s.fq.held ++ [(s.fq.made, r)], made := s.fq.made + 1 } }
  else { s with fq := { s.fq with lost := if s.fq.lost == 0xFFFFFFFF then s.fq.lost else s.fq.lost + 1 } }

/-- An error record, which needs no release (R381, R383, R393, R402). -/
def errorRec (s : State) (kind : Nat) (va : DWord) (asid : BitVec 16) (access batch : Nat) : FaultRec :=
  { va := va, asid := asid, kind := kind, access := access, mask := 0, node := 0, place := 0, lane := 0, slot := 0, level := 0,
    batch := batch, token := 0, time := BitVec.ofNat 32 s.clk }

/-! Heap 14 lost (R383). -/

/-- Whether an address lies in heap 14 while that heap is lost: no cache answers for it. -/
def State.lostAt (s : State) (va : DWord) : Bool := s.heap14Lost && eaHeap va == 14
/-- Heap 14 becomes lost; its one record is owed to the first access that fails for it (log 116). -/
def State.loseHeap14 (s : State) : State := if s.heap14Lost then s else { s with heap14Lost := true, heap14Owed := true }
/-- An access to lost heap 14 has failed: the first one since the loss makes the record. -/
def State.lostAccess (s : State) (dpa : Nat) : State :=
  if s.heap14Owed then { s with heap14Owed := false }.fqRecord (errorRec s 0x12 (BitVec.ofNat 64 dpa) 0 0x80 0) else s

end Sys2Proof.Machine
end

