-- ==== Sys2Proof/Machine/Ops.lean ====
section
/-! DEFINITION. The named operations over sheaves, registers and bytes that every meaning is built from: where a sheaf runs,
reading and writing registers, latches and bytes, the reconvergence stack with its spills (R170 to R173), taking a trap and
returning from one (R369 to R372), and the end of an instruction (R158 to R162, R171). -/

namespace Sys2Proof

/-- The registers a destination writes. -/
def Machine.dstRegs (o : Ops) (d : Dst) : List Nat :=
  match d with
  | .none => []
  | .reg w => if o.nw then [] else (List.range w.span).map (fun j => o.d.toNat + j)
  | .rmw => [o.d.toNat]

/-- The destination registers of an instruction. -/
def Instr.dstOf (i : Instr) : List Nat := match i.form with | some (o, f) => Machine.dstRegs o f.dst | none => []

end Sys2Proof

namespace Sys2Proof.Machine

/-- The outcome of a meaning. -/
abbrev Out := Host.Outcome State Fault Refusal

/-! Sheaves. -/

def State.sheaf (s : State) (k : Nat) : Option Sheaf := mapFind s.sheaves k
def State.setSheaf (s : State) (k : Nat) (sh : Sheaf) : State := { s with sheaves := mapInsert s.sheaves k sh }
def State.onSheaf (s : State) (k : Nat) (f : Sheaf → Sheaf) : State := { s with sheaves := mapModify s.sheaves k f }
def State.core (s : State) (c : Nat) : Core := mapGetD s.cores c Core.reset
def State.setCore (s : State) (c : Nat) (x : Core) : State := { s with cores := mapPutD s.cores c x Core.reset }
def State.onCore (s : State) (c : Nat) (f : Core → Core) : State := s.setCore c (f (s.core c))
def State.onWg (s : State) (w : Nat) (f : Workgroup → Workgroup) : State := { s with wgs := mapModify s.wgs w f }
def State.onNode (s : State) (n : Nat) (f : Node → Node) : State := { s with nodes := mapModify s.nodes n f }
/-- Cycles pass (R154). -/
def State.tick (s : State) (n : Nat) : State := { s with clk := s.clk + n }

/-- The context of an ASID. -/
def State.ctx (s : State) (asid : BitVec 16) : Option Context := mapFind s.ctxs asid.toNat

/-! Registers and latches (R33, R34, R56, R127). -/

/-- Register r of thread t; a register nothing has written reads 0 (R34). -/
def Sheaf.reg (sh : Sheaf) (r t : Nat) : Word := mapGetD sh.regs (r * 32 + t) 0
/-- Register r of thread t written; a write clears its poison (R381). -/
def Sheaf.setReg (sh : Sheaf) (r t : Nat) (v : Word) : Sheaf :=
  { sh with regs := mapPutD sh.regs (r * 32 + t) v 0, rpoison := sh.rpoison.filter (fun x => x != r * 32 + t) }
/-- A register pair (R56). -/
def Sheaf.pair (sh : Sheaf) (r t : Nat) : DWord := sh.reg (r + 1) t ++ sh.reg r t
/-- A register quad, element 0 in the base register (R129). -/
def Sheaf.quad (sh : Sheaf) (r t : Nat) : BitVec 128 := sh.pair (r + 2) t ++ sh.pair r t
/-- The low bits of a value written to the register, pair or quad of a width. -/
def Sheaf.setWide (sh : Sheaf) (w : Width) (r t : Nat) (v : BitVec 128) : Sheaf :=
  (List.range w.span).foldl (fun sh i => sh.setReg (r + i) t (v.extractLsb' (32 * i) 32)) sh
/-- A latch of a thread (R161). -/
def Sheaf.latch (sh : Sheaf) (one : Bool) (t : Nat) : DWord := mapGetD (if one then sh.latch1 else sh.latch0) t 0
/-- A latch written for a thread (R127, R161). -/
def Sheaf.setLatch (sh : Sheaf) (one : Bool) (t : Nat) (v : DWord) : Sheaf :=
  if one then { sh with latch1 := mapPutD sh.latch1 t v 0, valid1 := true }
  else { sh with latch0 := mapPutD sh.latch0 t v 0, valid0 := true }
/-- Both latches invalid and 0 (R161). -/
def Sheaf.clearLatches (sh : Sheaf) : Sheaf :=
  { sh with valid0 := false, valid1 := false, latch0 := [], latch1 := [] }
/-- A chain closed by a trap, park or kill (R160). -/
def Sheaf.closeChain (sh : Sheaf) : Sheaf := { sh.clearLatches with chain := 0, bpSkip := [] }
/-- A result written under D, NW and LS for one thread (R127). -/
def Sheaf.result (sh : Sheaf) (o : Ops) (w : Width) (t : Nat) (v : BitVec 128) : Sheaf :=
  (if o.nw then sh else sh.setWide w o.d.toNat t v).setLatch o.ls t
    (match w with | .w32 => wide (v.extractLsb' 0 32) | _ => v.extractLsb' 0 64)
where
  wide (x : Word) : DWord := x.setWidth 64

/-! The trap frame (R369). -/

/-- The first stack of a die (R2); the region of a core die's frames lies in it. -/
def dieStack (die : Nat) : Nat :=
  match die with
  | 0 => 0
  | 1 => 2
  | 2 => 3
  | 3 => 5
  | 5 => 6
  | 6 => 7
  | 7 => 9
  | _ => 10

/-- The space-0 base and the device-physical base of a die's frame region, as Prosy chose them. -/
def State.frameRegion (s : State) (die : Nat) : DWord × Nat := (mapFind s.frames die).getD (0, 0)
/-- The index of a slot's frame: 1,024·core + 4·lane + slot within its die. -/
def frameIndex (k : Nat) : Nat := k % 16384
/-- TRAP_FRAME: the space-0 address of a slot's frame. -/
def State.frameVa (s : State) (k : Nat) : DWord := (s.frameRegion (slotDie k)).1 + BitVec.ofNat 64 (1024 * frameIndex k)
/-- The device-physical address of a slot's frame, a multiple of 1,024. -/
def State.frameDpa (s : State) (k : Nat) : Nat := (s.frameRegion (slotDie k)).2 / 1024 * 1024 + 1024 * frameIndex k

/-- Whether an address of an ASID lies in the frame of a slot. -/
def State.inFrame (s : State) (k : Nat) (asid : BitVec 16) (va : DWord) : Bool :=
  asid == 0xFFFF && (s.frameVa k).toNat ≤ va.toNat && va.toNat < (s.frameVa k).toNat + 1024

/-- A write on its way, if a message is one. -/
def Msg.writeOf (m : Msg) : Option WriteReq :=
  match m with
  | .write w => some w
  | .homeWrite w => some w
  | _ => none

/-- A message without the bytes that it would write to a slot's frame. -/
def State.spare (s : State) (k : Nat) (m : Msg) : Msg :=
  match m with
  | .write w => if s.inFrame k w.asid w.va then .write { w with mask := 0 } else m
  | .homeWrite w => if s.inFrame k w.asid w.va then .homeWrite { w with mask := 0 } else m
  | m => m

/-- What was on its way to a slot's frame, or cached of it on the slot's die, before the frame was written whole: nothing of it
is seen afterwards. -/
def State.supersede (s : State) (k : Nat) : State :=
  let s := s.onCore (slotCore k) (fun c =>
    { c with l1 := c.l1.filter (fun l => !s.inFrame k l.asid l.va)
             epoch := c.epoch + 1
             overtaken := c.overtaken ++ [⟨0xFFFF, s.frameVa k, 1024, c.epoch + 1⟩]
             sb := mapMap (fun _ xs => xs.map (fun (x : SbEntry) => if s.inFrame k x.asid x.va then { x with mask := 0 } else x)) c.sb })
  { s with
    net := s.net.map (fun f => { f with p := { f.p with msg := s.spare k f.p.msg } })
    slices := mapMap (fun _ x =>
      { x with
        lines := x.lines.filter (fun l => !s.inFrame k l.asid l.va)
        pend := x.pend.map (fun p => if s.inFrame k p.asid p.va then { p with mask := 0 } else p)
        merge := x.merge.map (fun m => if s.inFrame k m.asid m.va then { m with open_ := false } else m) }) s.slices }

/-- The 16 blocks of a slot's frame written whole, each with its poison (R369, R379). -/
def State.putFrame (s : State) (k : Nat) (bs : List (Blk × Bool)) : State :=
  (bs.zipIdx).foldl (fun s b => s.storeBlk (s.frameDpa k + 64 * b.2) 0xFFFF b.1.1 (BitVec.allOnes 64) none b.1.2) (s.supersede k)

/-- The register and thread behind word i of block j of a frame (R369). -/
def frameWord (j i : Nat) : Nat × Nat := (j / 2, 16 * (j % 2) + i)

/-- v0 to v7 of all threads written to the frame in ASID 0xFFFF (R369 step 2); a poisoned word poisons its block (R381). -/
def State.saveFrame (s : State) (k : Nat) (sh : Sheaf) : State :=
  s.putFrame k ((List.range 16).map (fun j =>
    let words := (List.range 16).map (frameWord j)
    (blkOfBytes (words.flatMap (fun w => leBytes 4 (sh.reg w.1 w.2).toNat)), words.any (fun w => sh.rpoison.contains (w.1 * 32 + w.2)))))

/-- The writes to a slot's frame that have left a store buffer and are not yet performed, oldest first: each a block's address,
bytes and mask. -/
def State.frameWrites (s : State) (k : Nat) : List (DWord × Blk × BMask) :=
  let ws := (s.net.filterMap (fun f => f.p.msg.writeOf)).filter (fun w => s.inFrame k w.asid w.va)
  let rec put (w : WriteReq) : List WriteReq → List WriteReq
    | [] => [w]
    | x :: rest => if w.id < x.id then w :: x :: rest else x :: put w rest
  (ws.foldl (fun acc w => put w acc) []).map (fun w => (w.va, w.blk, w.mask))

/-- A byte of a slot's frame as a read behind every earlier store of the slot's sheaf finds it (R229, R372). -/
def State.frameByte (s : State) (k off : Nat) : Byte :=
  let c := s.core (slotCore k)
  let atomic := c.l1.filterMap (fun (l : Line) => if l.atomic && s.inFrame k l.asid l.va then some (l.va, l.blk, l.dirty) else none)
  let buffered := (mapGetD c.sb (slotLgrp k) []).filterMap (fun (x : SbEntry) =>
    if s.inFrame k x.asid x.va then some (x.va, x.blk, x.mask) else none)
  (s.frameWrites k ++ atomic ++ buffered).foldl (fun b w =>
    let at_ := (s.frameVa k).toNat + off
    if w.1.toNat ≤ at_ && at_ < w.1.toNat + 64 && w.2.2.getLsbD (at_ - w.1.toNat) then w.2.1.extractLsb' (8 * (at_ - w.1.toNat)) 8
    else b) (s.memByte (s.frameDpa k + off))

/-- The 16 blocks of a slot's frame read at their home (R247, R404; log 112). -/
def State.readFrame (s : State) (k : Nat) : State :=
  (List.range 16).foldl (fun s j => (s.mscFill (s.frameDpa k + 64 * j) 0xFFFF 1 0).mediaAccess (s.frameDpa k + 64 * j) false) s

/-- Whether a store or an atomic of a sheaf to its own frame has not been ordered yet (R229): TRET reads the frame behind it. -/
def State.frameBusy (s : State) (k : Nat) : Bool :=
  s.win.any (fun e => e.2.sheaf == k && !e.2.kept && e.2.blks.any (fun b => b.stage != .done && s.inFrame k 0xFFFF (eaVa b.base) && b.base.extractLsb' 60 4 == 0))

/-- v0 to v7 of all threads read back from the frame (R372), a poisoned block as poisoned words (R381). -/
def State.loadFrame (s : State) (k : Nat) (sh : Sheaf) : Sheaf :=
  (List.range 8).foldl (fun sh r => (List.range 32).foldl (fun sh t =>
    let sh := sh.setReg r t (BitVec.ofNat 32 (leNat ((List.range 4).map (fun i => s.frameByte k (128 * r + 4 * t + i)))))
    if s.memPoisonAt (s.frameDpa k + 128 * r + 4 * t) then { sh with rpoison := sh.rpoison ++ [r * 32 + t] } else sh) sh) sh

/-! Taking a trap (R368 to R371). -/

/-- A trap about to be taken. -/
structure TrapReq where
  cause : Nat
  info  : Word
  mask  : TMask
  rmask : TMask
  pc    : DWord
  npc   : DWord
  resp  : Bool
  entry : Option Nat
  deriving DecidableEq, Repr

/-- The cause taken by the system handler (R368). -/
def causeAccSpill : Nat := 0x11
def causeBrk : Nat := 0x12
def causeStep : Nat := 0x13

/-- The trap registers of a trap (R370). -/
def TrapReq.regs (r : TrapReq) (amask : TMask) : TrapRegs :=
  { cause := BitVec.ofNat 32 (r.cause + (if r.cause == causeAccSpill then 256 else 0) + (if r.resp then 512 else 0))
    pc := r.pc, npc := r.npc, mask := r.mask, rmask := r.rmask, amask := amask, info := r.info }

/-- Whether a block request still waits for its answer. -/
def BlkReq.open_ (b : BlkReq) : Bool :=
  match b.stage with
  | .held => true
  | .sent => true
  | _ => false

/-! The end of a sheaf (R39, R347, R393). -/

/-- The sheaves of a workgroup that have not ended. -/
def State.liveSheaves (s : State) (g : Nat) : Nat := (s.sheaves.filter (fun e => e.2.wg == g && !e.2.ended)).length

/-- A barrier whose current phase took the live-sheaf count, after a sheaf has ended (R347). -/
def Barrier.relive (b : Barrier) (n : Nat) : Barrier :=
  if b.byLive && b.arrived != 0 then
    (if n ≤ b.arrived then { b with expected := n, phase := !b.phase, arrived := 0 } else { b with expected := n })
  else b

/-- The record of an engine cause still latched when its sheaf ends (R393): class 0 COPY, 1 MATRIX. -/
def State.endRecord (s : State) (k : Nat) (w : Workgroup) (cls : Nat) (cause : Option (BitVec 8)) : State :=
  match cause with
  | none => s
  | some c =>
    s.fqRecord { errorRec s 0x14 0 w.asid 0 (c.toNat + 256 * cls) with
                 node := w.node, place := slotDie k * 16 + slotCore k % 16, lane := slotLane k, slot := slotSlot k }

/-- A sheaf ends: its barriers take the new live count, a cause still latched is recorded. -/
def State.sheafEnds (s : State) (k : Nat) (sh : Sheaf) : State :=
  let s := s.setSheaf k { sh.closeChain with live := 0, m := 0, stack := [], spilled := [], ended := true }
  match mapFind s.wgs sh.wg with
  | none => s
  | some w =>
    let n := s.liveSheaves sh.wg
    let s := { s with wgs := mapInsert s.wgs sh.wg { w with bars := w.bars.map (fun b => Barrier.relive b n) } }
    (s.endRecord k w 0 sh.errCopy).endRecord k w 1 sh.errMatrix

/-- Operations of a sheaf that keep its slot after its last thread has exited (R185). -/
def State.outstanding (s : State) (k : Nat) (sh : Sheaf) : Bool :=
  sh.pend != 0 || s.win.any (fun e => e.2.sheaf == k)

/-- A slot freed once its ended sheaf has nothing outstanding (R39, R185). -/
def State.reap (s : State) (k : Nat) : State :=
  match s.sheaf k with
  | none => s
  | some sh => if sh.ended && !s.outstanding k sh then { s with sheaves := mapErase s.sheaves k } else s

/-- Registers no longer pending. -/
def Sheaf.clearPend (sh : Sheaf) (rs : List Nat) : Sheaf :=
  { sh with pend := rs.foldl (fun p r => p &&& ~~~(BitVec.ofNat 256 (2 ^ r))) sh.pend
            pendTill := mapFilter (fun r _ => !rs.contains r) sh.pendTill }

/-- An entry of a killed sheaf: nothing waits for a page any more. -/
def WinEntry.unfault (e : WinEntry) : WinEntry :=
  { e with blks := e.blks.map (fun b => match b.stage with | .faulted _ => { b with stage := .done } | _ => b) }

/-- What a killed sheaf keeps for replay is dropped: kept entries, and those that wait for pages only, whose results are no longer pending. -/
def State.dropEntries (s : State) (k : Nat) : State :=
  let s := { s with win := mapMap (fun _ (e : WinEntry) => if e.sheaf == k then e.unfault else e) s.win }
  let spent (e : WinEntry) : Bool := e.sheaf == k && !e.blks.any BlkReq.open_
  let s := (s.win.filter (fun e => spent e.2 && !e.2.kept)).foldl (fun s e => s.onSheaf k (fun sh => sh.clearPend e.2.instr.dstOf)) s
  { s with win := mapFilter (fun _ e => !spent e) s.win }

/-- A killed sheaf has ended (R39, R106, R368): its threads are gone, its node is in error; what it keeps for replay is dropped. -/
def State.killSheaf (s : State) (k : Nat) : State :=
  match s.sheaf k with
  | none => s
  | some sh =>
    let s := (s.sheafEnds k { sh with handler := none, wait := .none, respTraps := [], replays := [], parks := [], force := none, owed := none }).dropEntries k
    match mapFind s.wgs sh.wg with
    | some w => (s.onNode w.node (fun n => { n with errored := true })).reap k
    | none => s.reap k

/-- A kill at SYSTEM level is also reported to Prosy (R372). -/
def State.killReported (s : State) (k : Nat) (level : Level) (cause : Nat) : State :=
  let s := s.killSheaf k
  if level == .system then { s with reports := s.reports ++ [(k, BitVec.ofNat 32 cause)] } else s

/-- The address of the handler that takes a cause: TRAP_BASE of the context, or SYS_BASE of the core (R368). -/
def State.handlerBase (s : State) (k : Nat) (sh : Sheaf) (cause : Nat) : Option DWord :=
  if cause == causeAccSpill then some (s.core (slotCore k)).sysBase
  else
    match mapFind s.wgs sh.wg with
    | none => none
    | some w =>
      match s.ctx w.asid with
      | none => none
      | some c => if c.trapBase == 0 then none else some c.trapBase

/-- The line of the fetch buffer that a pc still needs: the buffer holds one line (R120). -/
def keepLines (pc : DWord) (ls : List FetchLine) : List FetchLine := ls.filter (fun l => l.va == lineAt pc)

/-- The breakpoint registers that do not match again after a trap until another chain issues (R384): those that had fired before, and the one that
raises it. -/
def TrapReq.skips (r : TrapReq) (sh : Sheaf) : List Nat :=
  if r.cause == causeBrk && r.info.getLsbD 2 then sh.bpSkip ++ [r.info.toNat % 4] else sh.bpSkip

/-- Handler entry (R369): the frame, the trap registers, the level, M and the pc. DESIGN CHOICE (log 88): a TRAP_BASE that a CSRWR left outside
space 0 is the pc as it stands. -/
def State.enterHandler (s : State) (k : Nat) (sh : Sheaf) (r : TrapReq) (base : DWord) : State :=
  ((s.saveFrame k sh).setSheaf k
    { sh.closeChain with
      trap := r.regs sh.m
      handler := some { depth := sh.stack.length + sh.spilled.length, level := sh.level, entry := r.entry, resp := r.resp, skip := r.skips sh }
      level := if r.cause == causeAccSpill then .system else .handler
      m := sh.live
      pc := base
      fbuf := keepLines base sh.fbuf
      force := none
      wait := .none
      readyAt := s.clk + 16 }).tick 16

/-- A trap taken (R368, R369, R372, R386): by the debug port for BRK and STEP while it is attached, which Prosy reports; a kill above USER level or
without a handler; otherwise handler entry. -/
def State.takeTrap (s : State) (k : Nat) (r : TrapReq) : State :=
  match s.sheaf k with
  | none => s
  | some sh =>
    if (r.cause == causeBrk || r.cause == causeStep) && (s.core (slotCore k)).dbgAttach then
      let s := s.setSheaf k { sh.closeChain with trap := r.regs sh.m, stopped := true, force := none, bpSkip := r.skips sh }
      { s with reports := s.reports ++ [(k, BitVec.ofNat 32 r.cause)] }
    else if sh.level != .user then s.killReported k sh.level r.cause
    else
      match s.handlerBase k sh r.cause with
      | none => s.killSheaf k
      | some base => s.enterHandler k sh r base

/-- The record of an uncorrectable error that a sheaf's threads consumed (R381). -/
def State.consumedRecord (s : State) (k : Nat) (sh : Sheaf) (va : DWord) (mask : TMask) : State :=
  match mapFind s.wgs sh.wg with
  | none => s
  | some w =>
    s.fqRecord { errorRec s 0x10 va w.asid 0 0 with
                 mask := mask, node := w.node, place := slotDie k * 16 + slotCore k % 16, lane := slotLane k, slot := slotSlot k }

/-- The cause of poisoned data (R368, R381). -/
def causeDataError : Nat := 12

/-- An issue-time trap of the instruction at the sheaf's pc (R371); consumed poison is also recorded, with the address of memory
that held it, if any (R381). -/
def State.issueTrapAt (s : State) (k : Nat) (i : Instr) (cause : Nat) (info : Word) (mask exec : TMask) (va : DWord) : State :=
  match s.sheaf k with
  | none => s
  | some sh =>
    (if cause == causeDataError then s.consumedRecord k sh va mask else s).takeTrap k
      { cause := cause, info := info, mask := mask, rmask := exec, pc := sh.pc, npc := sh.pc + BitVec.ofNat 64 i.size,
        resp := false, entry := none }

/-- Whether a sheaf stands where an issue-time trap of its is owed. -/
def Sheaf.owes (sh : Sheaf) : Bool := match sh.owed with | some o => o.pc == sh.pc && o.level == sh.level | none => false

/-- The trap that a sheaf owes at its pc raised (R47, R124, R371); consumed poison with its record (R381). -/
def State.payOwed (s : State) (k : Nat) (sh : Sheaf) : State :=
  match sh.owed with
  | none => s
  | some o =>
    let s := s.setSheaf k { sh with owed := none }
    (if o.cause.toNat == causeDataError then s.consumedRecord k sh o.va o.mask else s).takeTrap k
      { cause := o.cause.toNat, info := o.info, mask := o.mask, rmask := o.mask, pc := o.pc, npc := o.npc, resp := false, entry := none }

/-- An issue-time trap that no address of memory caused. -/
def State.issueTrap (s : State) (k : Nat) (i : Instr) (cause : Nat) (info : Word) (mask exec : TMask) : State :=
  s.issueTrapAt k i cause info mask exec 0

/-! The reconvergence stack (R170 to R173, R178). -/

/-- The region of a workgroup holds spill areas (R38). -/
def Workgroup.spills (w : Workgroup) : Bool := 512 * w.nSheaf ≤ w.units * 65536
/-- The local-store offset of spilled entry i of sheaf `idx` (R38, R173). -/
def Workgroup.spillAt (w : Workgroup) (idx i : Nat) : Nat := w.lsBase + w.units * 65536 - 512 * (idx + 1) + 16 * i
/-- The 16 bytes of a spilled entry (R173). -/
def StackEntry.bytes (e : StackEntry) : List Byte :=
  leBytes 8 e.rpc.toNat ++ leBytes 4 e.pmask.toNat ++ leBytes 4 (BitVec.ofInt 32 ((e.ppc - e.rpc).toInt / 8)).toNat
/-- An entry read back from its 16 bytes (R173). -/
def stackEntryOf (bs : List Byte) : StackEntry :=
  let rpc : DWord := BitVec.ofNat 64 (leNat (bs.take 8))
  let off : Word := BitVec.ofNat 32 (leNat (bs.drop 12))
  { rpc := rpc, pmask := BitVec.ofNat 32 (leNat ((bs.drop 8).take 4)), ppc := rpc + (off.signExtend 64 <<< 3) }

/-- Whether a push has room (R173): 64 entries, or 32 without spill areas. -/
def pushRoom (w : Workgroup) (sh : Sheaf) : Bool :=
  sh.stack.length + sh.spilled.length < (if w.spills then 64 else 32)

/-- A push, spilling the oldest hardware entry when 32 are held (R173). -/
def State.push (s : State) (k : Nat) (w : Workgroup) (e : StackEntry) : State :=
  match s.sheaf k with
  | none => s
  | some sh =>
    if sh.stack.length < 32 then s.setSheaf k { sh with stack := sh.stack ++ [e] }
    else
      match sh.stack with
      | [] => s
      | old :: rest =>
        ((s.lsWrite w.core (w.spillAt sh.idx sh.spilled.length) old.bytes).setSheaf k
          { sh with stack := rest ++ [e], spilled := sh.spilled ++ [old] }).tick 12

/-- The youngest spilled entry as the refill finds it: what was spilled, or free values where a store has touched the spill
area since (R38, log 14). -/
def State.spilledNow (s : State) (w : Workgroup) (sh : Sheaf) (e : StackEntry) : StackEntry :=
  let now := s.lsRead w.core (w.spillAt sh.idx (sh.spilled.length - 1)) 16
  if now == e.bytes then e
  else { rpc := (Config.freeDWord s.free) &&& (~~~(7#64)), pmask := Config.freeWord s.free, ppc := (Config.freeDWord (s.free + 1)) &&& (~~~(7#64)) }

/-- A pop, refilling the youngest spilled entry (R173). -/
def State.pop (s : State) (k : Nat) : State :=
  match s.sheaf k with
  | none => s
  | some sh =>
    match sh.spilled.getLast?, mapFind s.wgs sh.wg with
    | some e, some w =>
      let s1 := (s.setSheaf k { sh with stack := s.spilledNow w sh e :: sh.stack.dropLast, spilled := sh.spilled.dropLast }).tick 12
      { s1 with free := s.free + 2 }
    | _, _ => s.setSheaf k { sh with stack := sh.stack.dropLast }

/-- One pass of the loop of R171; none when nothing applies. Threads that have exited are never restored (R39). -/
def State.reconvergeOnce (s : State) (k : Nat) : Option State :=
  match s.sheaf k with
  | none => none
  | some sh =>
    match sh.stack.getLast? with
    | none => none
    | some top =>
      let pc := if sh.m == 0 then top.rpc else sh.pc
      if pc != top.rpc then none
      else if top.ppc != top.rpc then
        some (s.setSheaf k
          { sh with
            m := top.pmask &&& sh.live
            pc := top.ppc
            stack := sh.stack.dropLast ++ [{ top with pmask := sh.m ||| top.pmask, ppc := top.rpc }] })
      else
        some ((s.setSheaf k { sh with m := top.pmask &&& sh.live, pc := top.rpc &&& ~~~(1#64) }).pop k)

/-- The loop of R171; every pass swaps a pending side or pops an entry, so the fuel covers it. -/
def State.reconvergeLoop : Nat → State → Nat → State
  | 0, s, _ => s
  | fuel + 1, s, k =>
    match s.reconvergeOnce k with
    | none => s
    | some s => State.reconvergeLoop fuel s k

/-- R171, applied after each change of pc or M. -/
def State.reconverge (s : State) (k : Nat) : State :=
  match s.sheaf k with
  | none => s
  | some sh => State.reconvergeLoop (2 * (sh.stack.length + sh.spilled.length) + 2) s k

/-! The end of an instruction. -/

/-- The chain position after an instruction (R160): the eighth instruction's HD is ignored. -/
def chainAfter (chain : Nat) (hd : Bool) : Nat := if hd && chain + 1 < 8 then chain + 1 else 0

/-- A sheaf with no thread left has ended; held response-time traps kill it (R39, R373). -/
def State.endIfDone (s : State) (k : Nat) : State :=
  match s.sheaf k with
  | none => s
  | some sh =>
    if sh.m == 0 && sh.stack.isEmpty && !sh.ended then
      if sh.respTraps.isEmpty then s.sheafEnds k sh
      else s.killReported k sh.level (match sh.respTraps with | r :: _ => r.cause.toNat | [] => 0)
    else s

/-- The end of an instruction that has set the sheaf's pc and M: occupancy (R154), chain (R160), reconvergence (R171), the end
of the sheaf (R39) and the fetch buffer (R120). -/
def State.finish (s : State) (k : Nat) (hd : Bool) (occ : Nat) : State :=
  let s := s.onSheaf k (fun sh =>
    { sh with chain := chainAfter sh.chain hd, force := none, yielded := false, fresh := false, lastOp := s.clk + occ - 1,
              readyAt := s.clk + occ, bpSkip := [] })
  ((((s.tick occ).reconverge k).endIfDone k).onSheaf k (fun sh => { sh with fbuf := keepLines sh.pc sh.fbuf }))

/-- The pc moves to the next sequential instruction (R125). -/
def Sheaf.advance (sh : Sheaf) (i : Instr) : Sheaf := { sh with pc := sh.pc + BitVec.ofNat 64 i.size }

/-! Returning from a trap (R372). -/

/-- The blocks of a slot's frame with their poison, behind every earlier store of the slot's sheaf (R378, R379). -/
def State.frameBlks (s : State) (k : Nat) : List (Blk × Bool) :=
  (List.range 16).map (fun j =>
    (blkOfBytes ((List.range 64).map (fun i => s.frameByte k (64 * j + i))), s.memPoisonAt (s.frameDpa k + 64 * j)))

/-- The level and M that TRET restores, and v0 to v7 from the frame. -/
def State.leaveHandler (s : State) (k : Nat) (sh : Sheaf) (h : HandlerEntry) (ctxAsid : BitVec 16) : Sheaf :=
  { (s.loadFrame k sh) with level := h.level, m := sh.trap.amask &&& sh.live, handler := none, ctxAsid := ctxAsid }

end Sys2Proof.Machine
end

