-- ==== Sys2Proof/Machine/AtomOps.lean ====
section
/-! DEFINITION. What an atomic computes at its point (R336, R339, R340, R278), and how two reduction packets combine in a link
queue (R84, R341, R418). -/

namespace Sys2Proof.Machine

/-- The operations of ATOM, ATOM64 and RED on values of a width (R339). -/
def atomInt {w : Nat} (op : Nat) (old b : BitVec w) : BitVec w :=
  match op with
  | 0 => old + b
  | 1 => if b.toInt < old.toInt then b else old
  | 2 => if old.toInt < b.toInt then b else old
  | 3 => if b.toNat < old.toNat then b else old
  | 4 => if old.toNat < b.toNat then b else old
  | 5 => old &&& b
  | 6 => old ||| b
  | 7 => old ^^^ b
  | 8 => b
  | 9 => if b.toNat ≤ old.toNat then 0 else old + 1
  | _ => if old == 0 || b.toNat < old.toNat then b else old - 1

/-- .fadd, .fmin and .fmax (R339): no flush, RNE, canonical NaN. -/
def atomFp (op : Nat) (old b : Word) : Word :=
  match op with
  | 0 => toFP32 .rne (FVal.add .rne (ofFP32 old) (ofFP32 b))
  | 1 => toFP32 .rne (FVal.minmax false (ofFP32 old) (ofFP32 b))
  | _ => toFP32 .rne (FVal.minmax true (ofFP32 old) (ofFP32 b))

/-- The packed operations, element by element (R339). -/
def atomPacked (bf : Bool) (op : Nat) (old b : Word) : Word :=
  let f := if bf then fmtBF16 else fmtFP16
  let e (i : Nat) : Nat :=
    let x := f.decode ((old.extractLsb' (16 * i) 16).toNat)
    let y := f.decode ((b.extractLsb' (16 * i) 16).toNat)
    f.encode .rne false false (match op with
      | 0 => FVal.add .rne x y
      | 1 => FVal.minmax false x y
      | _ => FVal.minmax true x y)
  BitVec.ofNat 32 (e 0 + 65536 * e 1)

/-- The operand size of an atomic in bytes (R338). -/
def atomBytes (i : Instr) : Nat :=
  match i with
  | .atom64 _ => 8
  | .cas64 _ => 8
  | .red o => if o.mod.getLsbD 4 then 8 else 4
  | _ => 4

/-- new := op(old, b), or none where nothing is written (R340). -/
def atomNew (i : Instr) (old b c : DWord) : Option DWord :=
  let op (o : Ops) : Nat := (o.mod.extractLsb' 0 4).toNat
  match i with
  | .atom o => some (wide (atomInt (op o) (low old) (low b)))
  | .atom64 o => some (atomInt (op o) old b)
  | .cas _ => if low old == low c then some (wide (low b)) else none
  | .cas64 _ => if old == c then some b else none
  | .fatom o => some (wide (atomFp (op o) (low old) (low b)))
  | .hatom2 o => some (wide (atomPacked (o.mod.getLsbD 4) (op o) (low old) (low b)))
  | .red o => some (if o.mod.getLsbD 4 then atomInt (op o) old b else wide (atomInt (op o) (low old) (low b)))
  | .fred o => some (wide (if op o == 3 then atomPacked (o.mod.getLsbD 4) 0 (low old) (low b) else atomFp (op o) (low old) (low b)))
  | _ => none

/-- An operation of one thread on the bytes of a block (R340): the old value and the block after it. -/
def atomStep (i : Instr) (blk : Blk) (x : AtomItem) : DWord × Blk × BMask :=
  let n := atomBytes i
  let off := x.addr.toNat % 64
  let old : DWord := BitVec.ofNat 64 ((blk.toNat >>> (8 * off)) % 2 ^ (8 * n))
  match atomNew i old x.b x.c with
  | none => (old, blk, 0)
  | some v =>
    let m : BMask := BitVec.ofNat 64 ((2 ^ n - 1) * 2 ^ off)
    (old, blkMerge blk (BitVec.ofNat 512 (v.toNat * 2 ^ (8 * off))) m, m)

/-- An addition of SCAD (R278, R418): the FP32 addend to element `x.thread` of a block of FP32 (0x01) or BF16 elements. -/
def scadStep (fmt : Nat) (blk : Blk) (x : AtomItem) : DWord × Blk × BMask :=
  let g := ofFP32 (low x.b)
  if fmt == 1 then
    let old := blkWord blk x.thread
    let v := toFP32 .rne (FVal.add .rne (ofFP32 old) g)
    let m : BMask := BitVec.ofNat 64 (15 * 2 ^ (4 * x.thread))
    (wide old, blkMerge blk (BitVec.ofNat 512 (v.toNat * 2 ^ (32 * x.thread))) m, m)
  else
    let old : BitVec 16 := blk.extractLsb' (16 * x.thread) 16
    let v := fmtBF16.encode .rne false false (FVal.add .rne (fmtBF16.decode old.toNat) g)
    let m : BMask := BitVec.ofNat 64 (3 * 2 ^ (2 * x.thread))
    (old.setWidth 64, blkMerge blk (BitVec.ofNat 512 (v * 2 ^ (16 * x.thread))) m, m)

/-- The operations of one packet on a block, in order (R336): old values by thread, the block, the bytes written. -/
def atomApply (op : AtomOp) (blk : Blk) (xs : List AtomItem) : Map DWord × Blk × BMask :=
  xs.foldl (fun acc x =>
    let (old, b, m) := match op with
      | .instr i => atomStep i acc.2.1 x
      | .scad fmt => scadStep fmt acc.2.1 x
    (mapInsert acc.1 x.thread old, b, acc.2.2 ||| m)) ([], blk, 0)

/-- The part of an operation that must agree for packets to merge (R341): opcode, modifiers and so width. -/
def AtomOp.sig (op : AtomOp) : Nat :=
  match op with
  | .instr i => match i with
    | .red o => 0x86 * 32 + o.mod.toNat
    | .fred o => 0x87 * 32 + o.mod.toNat
    | _ => 0
  | .scad fmt => 0x100000 + fmt

/-- Whether an operation rounds (R84, R88). -/
def AtomOp.rounds (op : AtomOp) : Bool :=
  match op with
  | .instr (.fred o) => o.mod.extractLsb' 0 4 == 0 || o.mod.extractLsb' 0 4 == 3
  | .scad _ => true
  | _ => false

/-- Two operands of one position combined (R84): addition in the target format for SCAD, otherwise the operation itself. -/
def AtomOp.combine (op : AtomOp) (x y : AtomItem) : AtomItem :=
  match op with
  | .instr i => { x with b := (atomNew i x.b y.b 0).getD x.b }
  | .scad fmt =>
    let z := FVal.add .rne (ofFP32 (low x.b)) (ofFP32 (low y.b))
    { x with b := wide (if fmt == 1 then toFP32 .rne z
        else BitVec.ofNat 32 (fmtBF16.encode .rne false false z * 65536)) }

/-- The position of an operand in its packet. -/
def AtomOp.place (op : AtomOp) (x : AtomItem) : Nat :=
  match op with
  | .instr _ => x.addr.toNat
  | .scad _ => x.thread

/-- The items of a packet with a later packet folded in (R341). -/
def AtomOp.fold (op : AtomOp) (xs ys : List AtomItem) : List AtomItem :=
  (xs ++ ys).foldl (fun acc y =>
    if acc.any (fun x => op.place x == op.place y) then acc.map (fun x => if op.place x == op.place y then op.combine x y else x)
    else acc ++ [y]) []

end Sys2Proof.Machine
end

