-- ==== Sys2Proof/Machine/Net.lean ====
section
/-! DEFINITION. The network: sending a packet, the grants of a crossbar, the transmit queues of the link ports with the merges of
reductions, and delivery (R341, R343, R344, R420, R421, R84, R274). -/

namespace Sys2Proof.Machine

/-- The die of an agent (R224, R421). -/
def Agent.die (a : Agent) : Nat :=
  match a with
  | .core c => coreDie c
  | .slice d _ => d
  | .home h => heapDie h
  | .control d => d
  | _ => hubDie

/-- The number of an agent's crossbar input and output on its die; those of a link to die d are 32 + d (R421). -/
def Agent.code (a : Agent) : Nat :=
  match a with
  | .core c => c % 16
  | .slice _ i => 16 + i
  | .home h => 48 + h
  | .control _ => 64
  | .hub => 64
  | .hostPort => 65
  | .expander k => 66 + k
  | .distributor => 68
  | .faultQueue => 69
  | .management => 70
  | .troxia p => 72 + p

/-- Whether a link is trained (R23). -/
def State.linkUp (s : State) (a b : Nat) : Bool :=
  s.train.any (fun t => t.passed && (t.unit == .link a b || t.unit == .link b a))

/-- The die after `die` on the path to `dst` (R420): in early service a corner die reaches the hub, and the hub it, through a
middle die whose links are both trained. -/
def State.nextHop (s : State) (die dst : Nat) (part : Option Nat) : Nat :=
  let allowed := match part with
    | some q => partDies s.mode q
    | none => coreDies
  let far := if dst == hubDie then die else dst
  let mids := [1, 3, 5, 7].filter (fun m => linked far m && s.linkUp far m && s.linkUp m hubDie)
  if s.dev.phase < 5 && (die == hubDie || dst == hubDie) && !linked far hubDie && far != hubDie && !mids.isEmpty then mids.headD 1
  else nextDie allowed die dst

/-- The partition to whose dies a packet keeps (R29, R420): that of its source, or of its destination where it comes from the hub
die. -/
def State.pathPart (s : State) (p : Packet) : Option Nat :=
  let owner (d : Nat) : Option Nat := (List.range (modeParts s.mode)).find? (fun q => (partDies s.mode q).contains d)
  (owner p.src.die).orElse (fun _ => owner p.dst.die)

/-- The outputs of a die's crossbar that a packet asks for (R274, R420). -/
def State.outputs (s : State) (die : Nat) (p : Packet) : List Nat :=
  if p.dst.die != die then [32 + s.nextHop die p.dst.die (s.pathPart p)]
  else if p.mcast.isEmpty then [p.dst.code]
  else p.mcast

/-- A packet handed over: to its own sender at once, otherwise to its sender's crossbar input (R421). -/
def State.sendPkt (s : State) (p : Packet) : State :=
  let place := if p.src == p.dst && p.mcast.isEmpty then Place.inbox else Place.input p.src.die p.src.code
  { s with net := s.net ++ [{ p := p, place := place, age := 0, since := s.clk }] }

/-- A packet to one destination. -/
def State.send (s : State) (src dst : Agent) (prio : Nat) (part : Option Nat) (m : Msg) : State :=
  s.sendPkt { src := src, dst := dst, prio := prio, msg := m, mcast := [], part := part }

/-- A message put into a unit's own inbox. -/
def State.deliver (s : State) (dst : Agent) (m : Msg) : State := s.send dst dst 1 none m

/-- The first flight of the network that meets a condition, with the network without it. -/
def takeFlight (p : Flight → Bool) : List Flight → Option (Flight × List Flight)
  | [] => none
  | f :: rest => if p f then some (f, rest) else (takeFlight p rest).map (fun x => (x.1, f :: x.2))

/-! What is taken out of an inbox in the order of arrival (R230, R236, R319, R320, R420). -/

/-- The counter that a message of the allowance protocol names. -/
def AlMsg.key (m : AlMsg) : AlKey :=
  match m with
  | .take _ t => t.key
  | .grant _ t _ _ => t.key
  | .answer _ t _ _ => t.key
  | .fail k _ _ _ _ _ => k
  | .recalling k _ => k
  | .ret k _ _ _ _ => k
  | .give k _ _ _ => k
  | .poison k => k
  | .op _ k _ _ _ _ => k
  | .value k _ _ _ _ => k
  | .peek k _ _ _ => k

/-- A write or an atomic on its way to its slice, by its block; one at its home; an answer at a slice. -/
def Msg.sliceWrite (m : Msg) : Option (BitVec 16 × DWord) :=
  match m with
  | .write w => some (w.asid, w.va)
  | .atom a => some (a.asid, a.va)
  | _ => none
def Msg.homeAccess (m : Msg) : Option (BitVec 16 × DWord) :=
  match m with
  | .homeRead q _ => some (q.asid, q.va)
  | .homeWrite w => some (w.asid, w.va)
  | .homeAtom a => some (a.asid, a.va)
  | _ => none
def Msg.sliceAnswer (m : Msg) : Option (BitVec 16 × DWord) :=
  match m with
  | .fill q _ => some (q.asid, q.va)
  | .writeAck w _ => some (w.asid, w.va)
  | .atomAns a => some (a.asid, a.va)
  | _ => none

/-- A read on its way to its slice, by its block. -/
def Msg.sliceRead (m : Msg) : Option (BitVec 16 × DWord) :=
  match m with
  | .read q => some (q.asid, q.va)
  | .multi q _ => some (q.asid, q.va)
  | _ => none
/-- The slot that a request at the hub names. -/
def Msg.slotNamed (m : Msg) : Option Nat :=
  match m with
  | .hub _ (.launch n _) => some n
  | .hub _ (.ndec n) => some n
  | _ => none

/-- Whether a packet of an inbox is taken only after an earlier one there: a slice reads a block behind the writes of it that have
come before, takes a core's write or atomic of a block behind that core's earlier reads of it, and answers a marker behind every write; a home takes one
slice's accesses to a block in order, a slice its answers; the messages of a counter keep their order; the hub applies the arms and decrements
of a slot in arrival order (R97). -/
def Packet.behind (p e : Packet) : Bool :=
  match p.msg with
  | .read q => e.msg.sliceWrite == some (q.asid, q.va)
  | .multi q _ => e.msg.sliceWrite == some (q.asid, q.va)
  | .write w => e.src == p.src && e.msg.sliceRead == some (w.asid, w.va)
  | .atom a => e.src == p.src && e.msg.sliceRead == some (a.asid, a.va)
  | .mark _ _ => e.msg.sliceWrite.isSome
  | .hub _ _ => p.msg.slotNamed.isSome && e.msg.slotNamed == p.msg.slotNamed
  | .al a => (match e.msg with | .al b => a.key == b.key | _ => false)
  | m => (m.homeAccess.isSome && e.src == p.src && e.msg.homeAccess == m.homeAccess)
      || (m.sliceAnswer.isSome && e.msg.sliceAnswer == m.sliceAnswer)

/-- The first flight of an inbox that meets a condition and is behind no other, with the network without it; `seen` are the flights
passed over. -/
def takeOrdered (p : Flight → Bool) : List Flight → List Flight → Option (Flight × List Flight)
  | _, [] => none
  | seen, f :: rest =>
    if p f && !seen.any (fun e => e.place == .inbox && e.p.dst == f.p.dst && f.p.behind e.p) then some (f, rest)
    else (takeOrdered p (f :: seen) rest).map (fun x => (x.1, f :: x.2))

/-- The first message in an agent's inbox that `f` accepts, taken out of the network. -/
def State.receive {α : Type} (s : State) (a : Agent) (f : Msg → Option α) : Option (α × Packet × State) :=
  match takeOrdered (fun x => x.place == .inbox && x.p.dst == a && (f x.p.msg).isSome) [] s.net with
  | none => none
  | some (x, rest) => (f x.p.msg).map (fun v => (v, x.p, { s with net := rest }))

/-- The first message in any inbox that `f` accepts. -/
def State.receiveAny {α : Type} (s : State) (f : Agent → Msg → Option α) : Option (α × Packet × State) :=
  match takeOrdered (fun x => x.place == .inbox && (f x.p.dst x.p.msg).isSome) [] s.net with
  | none => none
  | some (x, rest) => (f x.p.dst x.p.msg).map (fun v => (v, x.p, { s with net := rest }))

/-- The first message in an inbox that a step accepts, taken out of the network and acted on; nothing where there is none. -/
def State.firstEnabled (s : State) (act : State → Packet → Option State) : State :=
  match takeOrdered (fun f => f.place == .inbox && (act s f.p).isSome) [] s.net with
  | none => s
  | some (f, rest) => (act { s with net := rest } f.p).getD s

/-! The merges of a link queue (R341, R418). -/

/-- The reduction a packet carries, if it is one that may merge: ORDER 00, its scope DIE or wider. -/
def Packet.reduction (p : Packet) : Option AtomReq :=
  let red (a : AtomReq) : Option AtomReq :=
    if a.op.sig != 0 && a.order == 0 && 3 ≤ actsAs a.scope && !(a.repro && a.op.rounds) then some a else none
  match p.msg with
  | .atom a => red a
  | .homeAtom a => red a
  | _ => none

/-- Whether two reductions merge: same ASID, block, operation, width and scope kind. -/
def AtomReq.merges (a b : AtomReq) : Bool :=
  a.asid == b.asid && a.va == b.va && a.op.sig == b.op.sig && actsAs a.scope == actsAs b.scope

/-- A packet with a later reduction folded in, its contributors recorded. -/
def Packet.absorb (p : Packet) (b : AtomReq) : Packet :=
  let join (a : AtomReq) : AtomReq := { a with items := a.op.fold a.items b.items, from_ := a.from_ ++ b.from_, poison := a.poison || b.poison }
  match p.msg with
  | .atom a => { p with msg := .atom (join a) }
  | .homeAtom a => { p with msg := .homeAtom (join a) }
  | _ => p

/-- The packets of one class waiting at a link port. -/
def State.txQueue (s : State) (die to_ prio : Nat) : List Flight :=
  s.net.filter (fun f => f.place == .tx die to_ && f.p.prio == prio)

/-- A packet entering a transmit queue: folded into the first waiting packet it merges with, or put at the end (R341, R421). -/
def State.enterTx (s : State) (die to_ : Nat) (f : Flight) : State :=
  let place := Place.tx die to_
  let fits (g : Flight) : Bool := g.place == place && g.p.prio == f.p.prio && g.p.dst == f.p.dst
    && (match g.p.reduction, f.p.reduction with
      | some a, some b => a.merges b
      | _, _ => false)
  if s.net.any fits then
    let rec fold : List Flight → List Flight
      | [] => []
      | g :: rest => if fits g then (match f.p.reduction with | some b => { g with p := g.p.absorb b } :: rest | none => g :: rest)
                     else g :: fold rest
    { s with net := fold s.net }
  else { s with net := s.net ++ [{ f with place := place, age := 0, since := s.clk }] }

/-! The crossbar (R343). -/

/-- The head packets that compete for an output: of each input, its oldest packet for that output. -/
def State.heads (s : State) (die output : Nat) : List (Nat × Flight) :=
  s.net.foldl (fun acc f =>
    match f.place with
    | .input d code => if d == die && !(acc.any (fun h => h.1 == code)) && (s.outputs die f.p).contains output
        then acc ++ [(code, f)] else acc
    | _ => acc) []

/-- How recently an output granted an input: 0 for never (R343). -/
def lastGrant (g : List Nat) (code : Nat) : Nat :=
  match g.findIdx? (fun x => x == code) with
  | some i => i + 1
  | none => 0

/-- Whether one head comes before another: saturated age, then priority, then the least recently granted input. -/
def headBefore (g : List Nat) (a b : Nat × Flight) : Bool :=
  let old (x : Nat × Flight) : Bool := x.2.age == 15
  if old a != old b then old a
  else if !old a && a.2.p.prio != b.2.p.prio then a.2.p.prio < b.2.p.prio
  else if lastGrant g a.1 != lastGrant g b.1 then lastGrant g a.1 < lastGrant g b.1
  else a.1 < b.1

/-- Whether an output is free for a packet: a link's queue of the packet's class has room (R421). -/
def State.outputFree (s : State) (die output : Nat) (p : Packet) : Bool :=
  if 32 ≤ output && output < 48 then (s.txQueue die (output - 32) p.prio).length < 1024 else true

/-- Where a granted packet goes: a link's transmit queue, or the inbox of a unit of the die. -/
def State.pass (s : State) (die output : Nat) (f : Flight) : State :=
  if 32 ≤ output && output < 48 then s.enterTx die (output - 32) f
  else
    let p := if f.p.mcast.isEmpty then f.p else { f.p with dst := .core (die * 16 + output), mcast := [] }
    { s with net := s.net ++ [{ p := p, place := .inbox, age := 0, since := s.clk }] }

/-- The network with a head packet gone from its input, or, for a multicast packet with outputs left, without this output. -/
def dropHead (s : State) (die output : Nat) (f : Flight) : List Flight :=
  let left := if f.p.mcast.isEmpty || f.p.dst.die != die then [] else f.p.mcast.filter (fun o => o != output)
  let rec go : List Flight → List Flight
    | [] => []
    | g :: rest => if g == f then (if left.isEmpty then rest else { g with p := { g.p with mcast := left } } :: rest) else g :: go rest
  go s.net

/-- A head packet that has lost at an output: its count rises by 1 in a cycle, at however many outputs it loses in that cycle; a second
loss at one output is another cycle's (R343). -/
def Flight.loses (f : Flight) (output clk : Nat) : Flight :=
  if f.lostAt == clk && !f.lost.isEmpty && !f.lost.contains output then { f with lost := output :: f.lost }
  else { f with age := min 15 (f.age + 1), lost := [output], lostAt := clk }

/-- CROSSBAR_GRANT (R343): one output grants at most one head packet; the others that competed age. -/
def execCrossbarGrant (die output : Nat) (s : State) : Out :=
  let hs := (s.heads die output).filter (fun h => s.outputFree die output h.2.p)
  let g := mapGetD s.granted (die * 128 + output) []
  .next (match hs with
    | [] => s
    | h :: rest =>
      let win := rest.foldl (fun b x => if headBefore g x b then x else b) h
      let losers := (hs.filter (fun x => x.1 != win.1)).map (fun x => x.2)
      let s1 := { s with
        net := dropHead s die output win.2
        granted := mapInsert s.granted (die * 128 + output) (g.filter (fun c => c != win.1) ++ [win.1]) }
      let s2 := { s1 with net := s1.net.map (fun f => if losers.contains f then f.loses output s.clk else f) }
      s2.pass die output win.2)

/-! Link ports (R421). -/

/-- The head of a port that is sent next: a normal or bulk head that has waited 64 cycles, the longest first; otherwise by
class. -/
def State.txNext (s : State) (die to_ : Nat) : Option Flight :=
  let head (c : Nat) : Option Flight := (s.txQueue die to_ c).head?
  let old (f : Flight) : Bool := f.since + 64 ≤ s.clk
  match (head 1).filter old, (head 2).filter old with
  | some a, some b => if b.since < a.since then some b else some a
  | some a, none => some a
  | none, some b => some b
  | none, none => (head 0).orElse (fun _ => (head 1).orElse (fun _ => head 2))

/-- LINK_PORT_SEND (R421): the port sends one packet; the next of its class becomes a head. -/
def execLinkPortSend (die toDie : Nat) (s : State) : Out :=
  .next (match s.txNext die toDie with
    | none => s
    | some f =>
      match takeFlight (fun x => x == f) s.net with
      | none => s
      | some (_, rest) =>
        let next := (rest.filter (fun x => x.place == .tx die toDie && x.p.prio == f.p.prio)).head?
        let rest := match next with
          | some n => rest.map (fun x => if x == n then { x with since := s.clk } else x)
          | none => rest
        { s with net := rest ++ [{ f with place := .wire toDie die, age := 0, since := s.clk }] })

/-- LINK_PORT_RECEIVE (R421): the next packet of a link reaches the crossbar input of the far die. -/
def execLinkPortReceive (die fromDie : Nat) (s : State) : Out :=
  .next (match takeFlight (fun x => x.place == .wire die fromDie) s.net with
    | none => s
    | some (f, rest) => { s with net := rest ++ [{ f with place := .input die (32 + fromDie), age := 0, since := s.clk }] })

end Sys2Proof.Machine
end

