-- ==== Sys2Proof/Machine/Operands.lean ====
section
/-! DEFINITION. The way of every instruction from decode to its effect: the checks of R142 that depend on the sheaf, the
executing mask (R36), every operand form (R127 to R131), constant windows (R46 to R49), register poison (R380), the
scoreboard (R156), scalarisation classes and occupancy (R154, R163 to R166), and the end of a lane instruction (R177). -/

namespace Sys2Proof.Machine

/-! Constant windows (R46 to R49). -/

/-- What the discovery table shows a context (R313, R316). -/
def State.discovery (s : State) (c : Option Context) : DiscoveryInputs :=
  let early := s.dev.phase < 6
  { version := s.discVersion
    early := if early then some s.dev.earlyDie else none
    mode := s.modeNow
    dies := if early then 1 else (partDies s.modeNow (match c with | some c => c.partition | none => 0)).length
    pods := s.podSize
    lsCap := s.lsCap }

/-- Byte fields of a node record (R92). -/
def recNat (r : Blk) (off n : Nat) : Nat := (r.toNat >>> (8 * off)) % 2 ^ (8 * n)

/-- Word k of window 6 (R48). -/
def State.window6 (s : State) (w : Workgroup) (nd : Node) (k : Nat) : Word :=
  let _ := s
  if k < 16 then blkWord nd.record k
  else
    let size := w.units * 65536
    let total := recNat nd.record 8 4 * recNat nd.record 12 2 * recNat nd.record 14 2
    BitVec.ofNat 32 (match k with
      | 16 => w.node
      | 17 => w.asid.toNat
      | 18 => total
      | 19 => total / 2 ^ 32
      | 20 => nd.armTime
      | 21 => nd.armTime / 2 ^ 32
      | 22 => if w.units == 0 then 0 else w.lsBase
      | 23 => size
      | 24 => if w.spills && w.units != 0 then size - 512 else 0xFFFFFFFF
      | 25 => w.nReg
      | _ => 0)

/-- The outcome of reading a constant word (R47). -/
inductive ConstRead where
  | word (v : Word)
  | address
  | bounds
  | miss (va : DWord)
  deriving DecidableEq, Repr

/-- Word k of a window as the sheaf's core sees it now (R47 to R49). -/
def State.constRead (s : State) (k : Nat) (w : Workgroup) (win : BitVec 3) (off : Nat) : ConstRead :=
  match mapFind s.nodes w.node with
  | none => .address
  | some nd =>
    if win == 6 then (if 64 ≤ off then .bounds else .word (s.window6 w nd off))
    else if win == 7 then (if 136 ≤ off then .bounds else .word ((s.discovery (s.ctx w.asid)).word off))
    else
      match nd.windows[win.toNat]? with
      | none => .address
      | some x =>
        if !x.valid then .address
        else if x.size ≤ 4 * off then .bounds
        else
          let va := x.base + BitVec.ofNat 64 (4 * off)
          let blk := va &&& ~~~(63#64)
          match (s.core (slotCore k)).cc.find? (fun b => b.asid == w.asid && b.va == blk) with
          | some b => if s.lostAt va then .miss blk else .word (blkWord b.data (va.toNat % 64 / 4))
          | none => .miss blk

/-- The value of the extension word: an immediate, the two words of a CONST operand (the second only where a 64-bit
position reads it), or a failed read (R131). -/
inductive ExtValue where
  | none
  | imm (v : Word)
  | words (lo hi : Word)
  | fail (r : ConstRead)
  deriving DecidableEq, Repr

/-- Whether a 64-bit position reads the extension word (R131). -/
def extWide (o : Ops) (f : Form) : Bool :=
  (o.a == .ext && f.a.width == .w64) || (o.b == .ext && f.b.width == .w64) || (o.c == .ext && f.c.width == .w64)

/-- Whether a record position names a window record, whose eight words the instruction reads at issue (R263). -/
def extRecord (o : Ops) (f : Form) : Bool :=
  (o.a == .ext && f.a == .recd) || (o.b == .ext && f.b == .recd) || (o.c == .ext && f.c == .recd)

/-- The first of a list of constant reads that is not a word, if any. -/
def firstFail (rs : List ConstRead) : Option ConstRead :=
  rs.find? (fun r => match r with | .word _ => false | _ => true)

/-- The words of consecutive constant reads. -/
def constWords (rs : List ConstRead) : List Word :=
  rs.map (fun r => match r with | .word v => v | _ => 0)

/-- The value of the extension word for a sheaf (R47, R131, R263): the eight words of a window record are read together, and
only their success is reported here. -/
def State.extValue (s : State) (k : Nat) (w : Workgroup) (o : Ops) (f : Form) : ExtValue :=
  match o.ext with
  | .imm32 v => .imm v
  | .const win off =>
    let count := if extRecord o f then 8 else if extWide o f then 2 else 1
    let rs := (List.range count).map (fun i => s.constRead k w win (off.toNat + i))
    match firstFail rs with
    | some r => .fail r
    | none => .words ((constWords rs).getD 0 0) ((constWords rs).getD 1 0)
  | _ => .none

/-- The eight words of a window record (R263). -/
def State.windowRecord (s : State) (k : Nat) (w : Workgroup) (o : Ops) : List Word :=
  match o.ext with
  | .const win off => constWords ((List.range 8).map (fun i => s.constRead k w win (off.toNat + i)))
  | _ => []

/-! Source values (R128 to R131). -/

/-- A short immediate in a position of a type (R130). -/
def shortImm (ty : ImmTy) (w : Width) (v : BitVec 8) : DWord :=
  let k : FVal := .fin (v.toInt < 0) v.toInt.natAbs 0
  let dup (x : Nat) : DWord := BitVec.ofNat 64 (x + 65536 * x)
  match ty with
  | .int => match w with
    | .w32 => (v.signExtend 32).setWidth 64
    | _ => v.signExtend 64
  | .fp32 => BitVec.ofNat 64 (fmtFP32.encode .rne false false (if v == 0 then FVal.zero else k))
  | .fp16 => dup (fmtFP16.encode .rne false false (if v == 0 then FVal.zero else k))
  | .bf16 => dup (fmtBF16.encode .rne false false (if v == 0 then FVal.zero else k))

/-- The value a source gives thread t in a position (R128 to R131). -/
def srcValue (sh : Sheaf) (x : ExtValue) (p : Pos) (src : Src) (t : Nat) : DWord :=
  let w := p.width
  match src with
  | .reg i => (match w with
    | .w32 => (sh.reg i.toNat t).setWidth 64
    | _ => sh.pair i.toNat t)
  | .latch one => (match w with
    | .w32 => ((sh.latch one t).extractLsb' 0 32).setWidth 64
    | _ => sh.latch one t)
  | .imm v => shortImm p.immTy w v
  | .ext => (match x with
    | .imm v => (match w with | .w32 => v.setWidth 64 | _ => v.signExtend 64)
    | .words lo hi => (match w with | .w32 => lo.setWidth 64 | _ => hi ++ lo)
    | _ => 0)

/-- The 128-bit value of a data operand (R256): a quad, or a narrower value. -/
def srcValue128 (sh : Sheaf) (x : ExtValue) (p : Pos) (src : Src) (t : Nat) : BitVec 128 :=
  match p, src with
  | .quad, .reg i => sh.quad i.toNat t
  | _, _ => (srcValue sh x p src t).setWidth 128

/-! The registers an instruction touches. -/

/-- The registers a source field reads. -/
def srcRegs (p : Pos) (src : Src) : List Nat :=
  match p, src with
  | .unused, _ => []
  | p, .reg i => (List.range p.width.span).map (fun j => i.toNat + j)
  | _, _ => []

/-- The registers that A, B, C and a destination that is also a source read. -/
def dataRegs (o : Ops) (f : Form) : List Nat :=
  srcRegs f.a o.a ++ srcRegs f.b o.b ++ srcRegs f.c o.c ++ (match f.dst with | .rmw => [o.d.toNat] | _ => [])

/-- Every register an instruction reads or writes (R156). -/
def touchedRegs (o : Ops) (f : Form) : List Nat :=
  dataRegs o f ++ dstRegs o f.dst ++ (if o.p == 0 then [] else [o.p.toNat])

/-- Whether a source reads a latch. -/
def srcLatch (s : Src) : Option Bool :=
  match s with
  | .latch b => some b
  | _ => none

/-- Step 5 of decode (R142, R161): every latch read is valid in the open chain. -/
def latchesOk (sh : Sheaf) (o : Ops) : Bool :=
  [o.a, o.b, o.c].all (fun s => match srcLatch s with
    | none => true
    | some one => sh.chain != 0 && (if one then sh.valid1 else sh.valid0))

/-! Issue. -/

/-- The executing mask of R36, or the mask imposed by TRET or a constant-window re-issue (R372, R47). -/
def execMask (sh : Sheaf) (pn : Bool) (p : BitVec 8) : TMask :=
  match sh.force with
  | some m => m
  | none => if p == 0 then sh.m else maskOf (fun t => sh.m.getLsbD t && predTrue pn (sh.reg p.toNat t))

/-- The executing mask that a decode trap reports (R371): of a P at or above n nothing is read (log 15). -/
def trapExec (n : Nat) (sh : Sheaf) (pn : Bool) (p : BitVec 8) : TMask :=
  if n ≤ p.toNat then sh.m else execMask sh pn p

/-- An instruction on its way: the state, the slot, the sheaf at issue (latches invalid at a chain's head), its workgroup, the
executing mask and the value of the extension word. -/
structure Ctx where
  s   : State
  k   : Nat
  sh  : Sheaf
  w   : Workgroup
  e   : TMask
  ext : ExtValue

/-- The state in which an instruction that completes has begun: its sheaf as it found it. -/
def Ctx.begun (c : Ctx) : State := c.s.setSheaf c.k c.sh

/-- The sheaf as the instruction sees it: at the head of a chain both latches are invalid (R161). -/
def Sheaf.atHead (sh : Sheaf) : Sheaf := if sh.chain == 0 then sh.clearLatches else sh

/-- Where issue ends: no sheaf is chosen; the instruction did not reach its effect (a trap, a park or a wait, with the state
that leaves); or it goes on. -/
inductive Issued where
  | noSheaf
  | stop (s : State)
  | go (c : Ctx)

/-- The traps of a sheaf that decode raises, with their step in TRAP_INFO (R142, R368, R370). -/
def causeIllegalInstr : Nat := 1
def causeIllegalOperand : Nat := 2
def causePrivilege : Nat := 3
def causeConvergence : Nat := 4
def causeMisaligned : Nat := 5
def causeAddress : Nat := 6
def causeBounds : Nat := 7
def causeFormat : Nat := 8
def causeAllowObject : Nat := 9
def causeAllowState : Nat := 10
def causeEngineError : Nat := 11
def causeReconvOverflow : Nat := 13
def causeStack : Nat := 14
def causeAtomicUnsupported : Nat := 15
def causeExpanderLost : Nat := 16
def causeAllowPoison : Nat := 20

/-- TRAP_INFO of a decode trap (R370): its step, and with PRIVILEGE of CSRRD and CSRWR the CSR number. -/
def decodeInfo (op : BitVec 8) (cause step csr : Nat) : Word :=
  BitVec.ofNat 32 (step + (if cause == causePrivilege && (op == 0xF0 || op == 0xF1) then 256 * csr else 0))

/-- A CSR number of the group's A field (R387). -/
def csrNumber (o : Ops) : Nat :=
  match o.a with
  | .imm v => v.toNat
  | _ => 0

/-- Steps 1 to 3 of R142 as a sheaf meets them (R139, R141): the step that fails, with its cause. -/
def decodeFails (level : Level) (op : BitVec 8) (fieldsOk : Bool) : Option (Nat × Nat) :=
  if 0xF0 ≤ op.toNat && level == .user then some (causePrivilege, 2)
  else if fieldsOk then none
  else some (causeIllegalInstr, 3)

/-- Whether the scoreboard lets an instruction start (R156). -/
def scoreboardFree (sh : Sheaf) (o : Ops) (f : Form) : Bool :=
  (touchedRegs o f).all (fun r => !sh.pend.getLsbD r)

/-- Whether a sheaf may issue at all (R157): not waiting, parked, halted, stopped or ended. -/
def Sheaf.issues (sh : Sheaf) : Bool :=
  sh.wait == .none && sh.parks.isEmpty && sh.replays.isEmpty && !sh.stopped && !sh.ended
    && (!sh.halted || sh.chain != 0)

/-- The executing threads that read a poisoned register (R380); the predicate is read for every thread of M. -/
def poisonedThreads (sh : Sheaf) (e : TMask) (o : Ops) (f : Form) : TMask :=
  let bad (r t : Nat) : Bool := sh.rpoison.contains (r * 32 + t)
  maskOf (fun t => (e.getLsbD t && (dataRegs o f).any (fun r => bad r t))
    || (o.p != 0 && sh.force.isNone && sh.m.getLsbD t && bad o.p.toNat t))

/-- What a failed constant read does to its instruction (R47): a trap of its executing threads, or the wait for the fill. -/
def State.constFail (s : State) (k : Nat) (sh : Sheaf) (i : Instr) (e : TMask) (r : ConstRead) : State :=
  match r with
  | .miss va => s.setSheaf k { sh with wait := .const va e }
  | .bounds => s.issueTrap k i causeBounds 0 e e
  | _ => s.issueTrap k i causeAddress 0 e e

/-- An instruction from the last 32 bytes of its line asks for the next one (R120). -/
def Sheaf.seqFetch (sh : Sheaf) : Sheaf :=
  if 96 ≤ sh.pc.toNat % 128 then { sh with seqLine := some (lineAt (sh.pc + 128)) } else sh

/-- The sheaf as an instruction finds it that has passed every check (R120, R161). -/
def Sheaf.issued (sh : Sheaf) : Sheaf := sh.atHead.seqFetch

/-- The way of a general-form instruction up to its effect (R142, R36, R380, R47). -/
def issueGeneral (s : State) (i : Instr) (o : Ops) (f : Form) : Issued :=
  match s.cur with
  | none => .noSheaf
  | some k =>
    match s.sheaf k with
    | none => .noSheaf
    | some sh0 =>
      match mapFind s.wgs sh0.wg with
      | none => .noSheaf
      | some w =>
        if !sh0.issues || !scoreboardFree sh0 o f then .stop s
        else
          let sh := sh0.atHead
          let s := s.setSheaf k sh
          let trap (cause step : Nat) : Issued :=
            .stop (s.issueTrap k i cause (decodeInfo (i.opcode.getD 0) cause step (csrNumber o)) sh.m (trapExec w.nReg sh o.pn o.p))
          match decodeFails sh.level (i.opcode.getD 0) i.wfGeneral with
          | some (cause, step) => trap cause step
          | none =>
            if !operandsOk w.nReg o f then trap causeIllegalOperand 4
            else if !latchesOk sh o then trap causeIllegalOperand 5
            else
              let e := execMask sh o.pn o.p
              let bad := poisonedThreads sh e o f
              if bad != 0 then .stop (s.issueTrap k i causeDataError 1 bad e)
              else if e == 0 then .go { s := s, k := k, sh := sh0.issued, w := w, e := 0, ext := .none }
              else
                match s.extValue k w o f with
                | .fail r => .stop (s.constFail k sh i e r)
                | x => .go { s := s, k := k, sh := sh0.issued, w := w, e := e, ext := x }

/-- The way of a branch-form instruction up to its effect (R138, R142). -/
def issueBranch (s : State) (i : Instr) (o : BrOps) : Issued :=
  match s.cur with
  | none => .noSheaf
  | some k =>
    match s.sheaf k with
    | none => .noSheaf
    | some sh0 =>
      match mapFind s.wgs sh0.wg with
      | none => .noSheaf
      | some w =>
        if !sh0.issues || (o.p != 0 && sh0.pend.getLsbD o.p.toNat) then .stop s
        else
          let sh := sh0.atHead
          let s := s.setSheaf k sh
          let trap (cause step : Nat) : Issued := .stop (s.issueTrap k i cause (BitVec.ofNat 32 step) sh.m (trapExec w.nReg sh o.pn o.p))
          if !i.wfBranch then trap causeIllegalInstr 3
          else if o.p != 0 && w.nReg ≤ o.p.toNat then trap causeIllegalOperand 4
          else
            let e := execMask sh o.pn o.p
            let bad := maskOf (fun t => o.p != 0 && sh.force.isNone && sh.m.getLsbD t && sh.rpoison.contains (o.p.toNat * 32 + t))
            if bad != 0 then .stop (s.issueTrap k i causeDataError 1 bad e)
            else .go { s := s, k := k, sh := sh0.issued, w := w, e := e, ext := .none }

/-- A general-form instruction whose effect is a change of state. -/
def runGeneral (s : State) (i : Instr) (f : Ctx → Form → State) : Out :=
  match i.form with
  | none => .next s
  | some (o, fm) =>
    match issueGeneral s i o fm with
    | .noSheaf => .fault .noSheaf
    | .stop t => .next t
    | .go c => .next (f c fm)

/-- A branch-form instruction whose effect is a change of state. -/
def runBranch (s : State) (i : Instr) (o : BrOps) (f : Ctx → State) : Out :=
  match issueBranch s i o with
  | .noSheaf => .fault .noSheaf
  | .stop t => .next t
  | .go c => .next (f c)

/-! Classes and occupancy (R154, R163 to R166). -/

/-- The class of a register (R163). -/
def Sheaf.classOf (sh : Sheaf) (r : Nat) : RegClass := mapGetD sh.cls r .placed
/-- Base and stride of a class; none when varying. -/
def RegClass.pair : RegClass → Option (Word × Word)
  | .placed => some (0, 0)
  | .uni b => some (b, 0)
  | .aff b s => some (b, s)
  | .var => none
/-- Whether a class holds one of the 32 store entries (R163). -/
def RegClass.stored : RegClass → Bool
  | .uni _ => true
  | .aff _ _ => true
  | _ => false
/-- U: a stride of 0 that is not affine. -/
def RegClass.isUni : RegClass → Bool
  | .placed => true
  | .uni _ => true
  | _ => false

/-- The class of a source in a position (R164): registers by their class, other values uniform, latches varying. -/
def srcClass (sh : Sheaf) (x : ExtValue) (p : Pos) (src : Src) : RegClass :=
  match src with
  | .reg i => if p.width == .w32 then sh.classOf i.toNat
      else if (srcRegs p src).all (fun r => (sh.classOf r).isUni) then .uni 0 else .var
  | .latch _ => .var
  | _ => .uni ((srcValue sh x p src 0).extractLsb' 0 32)

/-- Whether every source of an instruction is U (R164 step 4). -/
def allUniform (sh : Sheaf) (x : ExtValue) (o : Ops) (f : Form) : Bool :=
  (f.a == .unused || (srcClass sh x f.a o.a).isUni) && (f.b == .unused || (srcClass sh x f.b o.b).isUni)
    && (f.c == .unused || (srcClass sh x f.c o.c).isUni)
    && (match f.dst with | .rmw => (sh.classOf o.d.toNat).isUni | _ => true)

/-- Class A from a pair, or U when the stride is 0 by construction of U operands. -/
def affine (uni : Bool) (b s : Word) : RegClass := if uni then .uni b else .aff b s

/-- The class of a 32-bit result of the affine rules (R164 step 5), given whether the sources are uniform. DEDUCED (log 115): IADD and ISUB with
.sat, whose clamped values no pair holds (R163), fall under step 6. -/
def affineClass (i : Instr) (a b c : RegClass) : RegClass :=
  match i, a.pair, b.pair with
  | .iadd o, some (b1, s1), some (b2, s2) => if o.mod.getLsbD 0 then .var else affine (a.isUni && b.isUni) (b1 + b2) (s1 + s2)
  | .isub o, some (b1, s1), some (b2, s2) => if o.mod.getLsbD 0 then .var else affine (a.isUni && b.isUni) (b1 - b2) (s1 - s2)
  | .imul _, some (b1, s1), some (b2, s2) =>
    if b.isUni then affine a.isUni (b1 * b2) (s1 * b2) else if a.isUni then affine b.isUni (b2 * b1) (s2 * b1) else .var
  | .shl _, some (b1, s1), some (b2, _) =>
    if b.isUni && b2.toNat ≤ 31 then affine a.isUni (b1 <<< b2.toNat) (s1 <<< b2.toNat) else .var
  | .lea _, some (b1, s1), some (b2, s2) =>
    match a.isUni, c.pair with
    | false, some (k, _) => .aff (b1 <<< (k.toNat % 32) + b2) (s1 <<< (k.toNat % 32) + s2)
    | _, _ => .var
  | .mov _, some (b1, s1), _ => affine a.isUni b1 s1
  | .sel _, some (b1, s1), some (b2, s2) =>
    match c.isUni, c.pair with
    | true, some (v, _) => if v != 0 then affine a.isUni b1 s1 else affine b.isUni b2 s2
    | _, _ => .var
  | _, _, _ => .var

/-- The class of the special register a MOVS reads (R43): tid is affine, the clock varies, the others are uniform. -/
def movsClass (o : Ops) (v : Word) : RegClass :=
  if o.a == .imm 0 then .aff 0 1 else if o.a == .imm 0x0E then .var else .uni v

/-- The class of an instruction's result by R164, before the store's room is considered. -/
def resultClass (sh : Sheaf) (x : ExtValue) (i : Instr) (o : Ops) (f : Form) (e : TMask) (v0 : Word) : RegClass :=
  let op := (i.opcode.getD 0).toNat
  if e != 0xFFFFFFFF then .var
  else if 0x60 ≤ op then .var
  else match i with
    | .movs _ => movsClass o v0
    | _ =>
      if allUniform sh x o f then .uni v0
      else affineClass i (srcClass sh x f.a o.a) (srcClass sh x f.b o.b) (srcClass sh x f.c o.c)

/-- Whether an SR conversion, which is never uniform (R209). -/
def selectsSR (i : Instr) : Bool :=
  match i with
  | .f2f o => lo2 o.mod == 2
  | .cvpk o => lo2 o.mod == 2
  | .dsenc o => lo2 o.mod == 2
  | _ => false

/-- The store entries in use (R163). -/
def Sheaf.storeUsed (sh : Sheaf) : Nat := (sh.cls.filter (fun c => c.2.stored)).length

/-- The class every destination register takes, and whether the scalar unit executes the instruction (R164, R165). DEDUCED (log 118): one that
writes no destination register needs no store entry, so the scalar unit executes it with a full store as well. -/
def classAndUnit (sh : Sheaf) (x : ExtValue) (i : Instr) (o : Ops) (f : Form) (e : TMask) (v0 : Word) : RegClass × Bool :=
  let c := if selectsSR i then RegClass.var else resultClass sh x i o f e v0
  let ds := dstRegs o f.dst
  let need := (ds.filter (fun r => !(sh.classOf r).stored)).length
  if c.pair.isSome && sh.storeUsed + need ≤ 32 then (c, true) else (.var, false)

/-- Whether registers with a store entry become V through an instruction that some but not all threads execute (R166). -/
def Sheaf.materialises (sh : Sheaf) (rs : List Nat) (e : TMask) : Bool :=
  e != 0 && e != 0xFFFFFFFF && rs.any (fun r => (sh.classOf r).stored)
/-- An occupancy with the 32 cycles of the pass that materialises destination registers (R166, log 89). -/
def Sheaf.occupied (sh : Sheaf) (rs : List Nat) (e : TMask) (occ : Nat) : Nat := if sh.materialises rs e then max 32 occ else occ

/-- Lane occupancy of a result of groups 0x1 to 0x6 (R154, R166). -/
def laneOccupancy (sh : Sheaf) (i : Instr) (o : Ops) (f : Form) (e : TMask) (scalar : Bool) : Nat :=
  let a := countThreads e
  let op := (i.opcode.getD 0).toNat
  sh.occupied (dstRegs o f.dst) e
    (if a == 0 || scalar then 1 else if op == 0x4A || op == 0x4B then 2 * a else a)

/-- The classes of written registers set (R164). -/
def Sheaf.setClasses (sh : Sheaf) (rs : List Nat) (c : RegClass) : Sheaf :=
  { sh with cls := rs.foldl (fun m r => mapPutD m r c .placed) sh.cls }

/-- The class of one register of a result (R163: register by register): a uniform one has its own word of the value. -/
def RegClass.word (c : RegClass) (v : DWord) (i : Nat) : RegClass :=
  match c with
  | .uni _ => .uni (v.extractLsb' (32 * i) 32)
  | c => c
/-- The classes of the registers of a result set. -/
def Sheaf.setResultClass (sh : Sheaf) (rs : List Nat) (c : RegClass) (v : DWord) : Sheaf :=
  rs.zipIdx.foldl (fun sh r => sh.setClasses [r.1] (c.word v r.2)) sh

/-! Results that come later (R156). -/

/-- Registers pending for a result of variable latency. -/
def Sheaf.setPend (sh : Sheaf) (rs : List Nat) : Sheaf :=
  { sh with pend := rs.foldl (fun p r => p ||| BitVec.ofNat 256 (2 ^ r)) sh.pend }
/-- Registers pending until a cycle at which their values are there. -/
def Sheaf.pendUntil (sh : Sheaf) (rs : List Nat) (till : Nat) : Sheaf :=
  let sh := sh.setPend rs
  { sh with pendTill := rs.foldl (fun m r => mapInsert m r till) sh.pendTill }
/-- The registers whose values have come by a cycle. -/
def Sheaf.pendDue (sh : Sheaf) (clk : Nat) : List Nat := (sh.pendTill.filter (fun x => x.2 ≤ clk)).map (fun x => x.1)
/-- A result that arrives after its instruction has issued goes to the registers only: no latch read can follow it (R127, R161). -/
def Sheaf.lateResult (sh : Sheaf) (o : Ops) (w : Width) (t : Nat) (v : BitVec 128) : Sheaf :=
  if o.nw then sh else sh.setWide w o.d.toNat t v

/-- Such results of the executing threads. -/
def Sheaf.lateResults (sh : Sheaf) (o : Ops) (w : Width) (e : TMask) (v : Nat → DWord) : Sheaf :=
  (threadsOf e).foldl (fun s t => s.lateResult o w t ((v t).setWidth 128)) sh

/-! The lane instructions of groups 0x1 to 0x6 (R177). -/

/-- The generator's key and stream of a sheaf (R79). -/
def Ctx.genKey (c : Ctx) : Word :=
  let drawn := match mapFind c.s.nodes c.w.node with | some nd => nd.key | none => 0
  if c.w.repro then c.w.seed else c.w.seed ^^^ drawn
def Ctx.genStream (c : Ctx) : Word :=
  if c.w.repro then BitVec.ofNat 32 ((c.w.lin % 2 ^ 24) * 256 ||| c.sh.idx)
  else
    BitVec.ofNat 32 (slotDie c.k * 2 ^ 28 + slotCore c.k % 16 * 2 ^ 24 + slotLgrp c.k * 2 ^ 22 + slotLane c.k % 64 * 2 ^ 16
      + slotSlot c.k * 2 ^ 14)

/-- What executing thread t gives the instruction (R177). -/
def Ctx.laneIn (c : Ctx) (o : Ops) (f : Form) (t : Nat) : LaneIn :=
  { a := srcValue c.sh c.ext f.a o.a t
    b := srcValue c.sh c.ext f.b o.b t
    c := srcValue c.sh c.ext f.c o.c t
    old := c.sh.reg o.d.toNat t
    rnd := rand32 c.genKey c.genStream c.sh.conv (BitVec.ofNat 32 t) }

/-- Results written for the executing threads, from values that were all read before (R127, R177). -/
def Sheaf.results (sh : Sheaf) (o : Ops) (w : Width) (e : TMask) (v : Nat → DWord) : Sheaf :=
  (threadsOf e).foldl (fun s t => s.result o w t ((v t).setWidth 128)) sh

/-- The end of an instruction whose result, one value of class V for every executing thread, is there 4 cycles after issue and
pending until then (R156, R282, R301, R388). -/
def Ctx.endLate (c : Ctx) (s : State) (i : Instr) (o : Ops) (f : Form) (v : DWord) : State :=
  let rs := dstRegs o f.dst
  let sh := ((c.sh.results o f.dst.width c.e (fun _ => v)).setClasses rs .var).pendUntil rs (c.s.clk + 4)
  (s.setSheaf c.k (sh.advance i)).finish c.k o.hd (c.sh.occupied rs c.e 1)

/-- The end of a lane instruction with the results v of its executing threads (R127, R154, R164, R177). -/
def Ctx.endLane (c : Ctx) (i : Instr) (o : Ops) (f : Form) (v : Nat → DWord) : State :=
  let v0 : Word := (v 0).extractLsb' 0 32
  let cu := classAndUnit c.sh c.ext i o f c.e v0
  let occ := laneOccupancy c.sh i o f c.e cu.2
  let sh := c.sh.results o f.dst.width c.e v
  let sh := if c.e == 0 then sh else sh.setResultClass (dstRegs o f.dst) cu.1 (v 0)
  let sh := if selectsSR i && c.e != 0 then { sh with conv := sh.conv + 1 } else sh
  (c.s.setSheaf c.k (sh.advance i)).finish c.k o.hd occ

/-- A lane instruction of groups 0x1 to 0x5: one result for each executing thread (R177). -/
def laneOp (s : State) (i : Instr) (o : Ops) (g : LaneIn → DWord) : Out :=
  runGeneral s i (fun c f => c.endLane i o f (fun t => g (c.laneIn o f t)))

/-- A cross-thread instruction (R214): each result is a function of what every executing thread gives. -/
def crossOp (s : State) (i : Instr) (o : Ops) (g : TMask → (Nat → LaneIn) → Nat → DWord) : Out :=
  runGeneral s i (fun c f => c.endLane i o f (fun t => g c.e (c.laneIn o f) t))

end Sys2Proof.Machine
end

