-- ==== Sys2Proof/Machine/Translate.lean ====
section
/-! DEFINITION. Addresses and their translation: spaces and their checks (R220, R221), the table walk, the translation caches and
pending pages of the homes (R239 to R245, R422), frames (R369). -/

namespace Sys2Proof.Machine

/-! Spaces (R220, R221). -/

/-- Where an effective address points. -/
inductive Loc where
  | dev (heap : Nat)
  | own (off : Nat)
  | peer (core off : Nat)
  | engine (core lgrp : Nat) (tile : Bool) (index off : Nat)
  | pod (pkg off : Nat)
  deriving DecidableEq, Repr

/-- The block that holds an address; in space 0 without its POLICY. -/
def blkBase (a : DWord) : DWord := (if eaSpace a == 0 then eaVa a else a) &&& (~~~(63#64))

/-- The smallest LPDDR 6 module (R405). -/
def State.lpddrSmallest (s : State) : Nat := s.lpddrModules.foldl min (s.lpddrModules.headD 0)

/-- The bytes of a heap (R2, R224, R399, R405). -/
def State.heapSize (s : State) (h : Nat) : Nat :=
  if h < 12 then 64 * 2 ^ 30
  else if h == 12 then 16 * s.lpddrSmallest / 32 * 31
  else if h == 13 then 2 ^ 52
  else if h == 14 then
    (List.range 2).foldl (fun n k => if s.train.any (fun t => t.unit == .expander k && t.passed)
      then n + s.expMedia.getD k 0 / 32 * 31 else n) 0
  else 0

/-- Whether a heap is online for a context (R26, R27, R29). -/
def State.heapOnline (s : State) (part : Nat) (h : Nat) : Bool :=
  if h < 12 then (if s.dev.phase < 6 then heapDie h == s.dev.earlyDie else (partHeaps s.modeNow part).contains h)
  else if h == 12 then s.heap12
  else if h == 13 then true
  else h == 14 && s.heap14

/-- The dies of a context's DEVICE scope (R26, R28). -/
def State.scopeDies (s : State) (part : Nat) : List Nat :=
  if s.dev.phase < 6 then [s.dev.earlyDie] else partDies s.modeNow part

/-- Where an address of a workgroup's sheaf points; none where R221 raises ADDRESS. -/
def State.locate (s : State) (w : Workgroup) (a : DWord) : Option Loc :=
  let n := a.toNat
  let part := match s.ctx w.asid with | some c => c.partition | none => 0
  match eaSpace a with
  | 0 =>
    if 5 ≤ eaPolicy a || 15 ≤ eaHeap a || !s.heapOnline part (eaHeap a) then none else some (.dev (eaHeap a))
  | 1 =>
    let off := n % 2 ^ 24
    if n / 2 ^ 24 % 2 ^ 36 != 0 || off < w.lsBase || w.lsBase + w.units * 65536 ≤ off || s.lsCap ≤ off then none else some (.own off)
  | 2 =>
    let die := n / 2 ^ 36 % 16
    if n / 2 ^ 40 % 2 ^ 20 != 0 || n / 2 ^ 24 % 256 != 0 || !(s.scopeDies part).contains die then none
    else some (.peer (die * 16 + n / 2 ^ 32 % 16) (n % 2 ^ 24))
  | 3 =>
    let die := n / 2 ^ 36 % 16
    let tile := n / 2 ^ 29 % 2 == 1
    let index := n / 2 ^ 24 % 32
    let off := n % 2 ^ 14
    if n / 2 ^ 40 % 2 ^ 20 != 0 || n / 2 ^ 14 % 2 ^ 10 != 0 || !(s.scopeDies part).contains die || (tile && 16 ≤ index)
      || (if tile then 16384 else 8192) ≤ off then none
    else some (.engine (die * 16 + n / 2 ^ 32 % 16) (n / 2 ^ 30 % 4) tile index off)
  | 5 =>
    let p := n / 2 ^ 48 % 4096
    if p == s.pkg || s.podSize ≤ p then none else some (.pod p (n % 2 ^ 48))
  | _ => none

/-! Table entries (R240). -/

/-- The 8 bytes of a table entry. -/
def State.tableEntry (s : State) (dpa : Nat) : DWord := BitVec.ofNat 64 (leNat (s.memRead dpa 8))

/-- The fault kinds (R244). -/
def kindNotPresent : Nat := 1
def kindPermission : Nat := 2
def kindMalformed : Nat := 3
def kindFrame : Nat := 4
def kindWalkError : Nat := 5

def pteValid (e : DWord) : Bool := e.getLsbD 0
def pteLeaf (e : DWord) : Bool := e.getLsbD 1
def ptePerm (e : DWord) : Perm := { r := e.getLsbD 2, w := e.getLsbD 3, x := e.getLsbD 4 }
def pteAddr (e : DWord) : Nat := e.toNat / 256 % 2 ^ 48 * 256

/-- The bytes that a level's table takes, and that its leaf maps (R239). -/
def tableSize (level : Nat) : Nat := match level with | 3 => 65536 | 2 => 4096 | 1 => 4096 | _ => 256
def leafSize (level : Nat) : Nat := match level with | 2 => 2 ^ 30 | 1 => 2 ^ 21 | _ => 65536
/-- The index of an address in a level's table. -/
def tableIndex (level : Nat) (va : DWord) : Nat :=
  match level with
  | 3 => va.toNat / 2 ^ 39 % 8192
  | 2 => va.toNat / 2 ^ 30 % 512
  | 1 => va.toNat / 2 ^ 21 % 512
  | _ => va.toNat / 2 ^ 16 % 32

/-- Whether a non-leaf entry that points to a table of a level keeps the must-be-0 rules. -/
def nonLeafOk (e : DWord) (next : Nat) : Bool :=
  e.toNat / 2 ^ 56 == 0 && e.toNat / 4 % 64 == 0 && pteAddr e % tableSize next == 0 && pteAddr e / 2 ^ 52 ≤ 12
/-- Whether a leaf entry of a level keeps the must-be-0 rules. -/
def leafOk (e : DWord) (level : Nat) : Bool :=
  e.toNat / 2 ^ 56 % 8 == 0 && e.toNat / 32 % 8 == 0 && pteAddr e % leafSize level == 0 && level != 3
    && !((ptePerm e).w && !(ptePerm e).r)

/-- Whether an entry's permissions allow an access (R240). -/
def Perm.allows (p : Perm) (k : AccessKind) : Bool :=
  match k with
  | .load => p.r
  | .exec => p.x
  | .store => p.w
  | .atomic => p.r && p.w

/-- How a walk ends: the leaf entry, its level; or the fault's kind and the level at which it stopped. -/
inductive Walk where
  | leaf (e : DWord) (level : Nat)
  | stop (kind level : Nat)
  deriving DecidableEq, Repr

/-- The walk from a table of a level down (R239, R240, R422). -/
def State.walkFrom (s : State) (va : DWord) : Nat → Nat → Walk
  | level, table =>
    let read (l t : Nat) : DWord × Bool := (s.tableEntry (t + 8 * tableIndex l va), s.memPoisonAt (t + 8 * tableIndex l va))
    let rec go : Nat → Nat → Walk
      | 0, t =>
        let (e, bad) := read 0 t
        if bad then .stop kindWalkError 0
        else if !pteValid e then .stop kindNotPresent 0
        else if !pteLeaf e || !leafOk e 0 then .stop kindMalformed 0
        else .leaf e 0
      | l + 1, t =>
        let (e, bad) := read (l + 1) t
        if bad then .stop kindWalkError (l + 1)
        else if !pteValid e then .stop kindNotPresent (l + 1)
        else if pteLeaf e then (if leafOk e (l + 1) then .leaf e (l + 1) else .stop kindMalformed (l + 1))
        else if !nonLeafOk e l then .stop kindMalformed (l + 1)
        else go l (pteAddr e)
    go level table

/-- The walk of an address in a context, from the home's copy of its root table (R239, R422). -/
def State.walk (s : State) (asid : BitVec 16) (va : DWord) : Walk :=
  match s.ctx asid with
  | none => .stop kindNotPresent 4
  | some c =>
    let e := c.root.getD (eaHeap va) 0
    if !pteValid e then .stop kindNotPresent 4
    else if pteLeaf e || !nonLeafOk e 3 then .stop kindMalformed 4
    else
      match s.walkFrom va 3 (pteAddr e) with
      | .stop k l => .stop k l
      | .leaf e l =>
        let cap := mapGetD s.heapCaps (eaHeap va * 4 + c.partition) (s.heapSize (eaHeap va))
        if min cap (s.heapSize (eaHeap va)) < pteAddr e + leafSize l then .stop kindFrame l else .leaf e l

/-- The device-physical address of an address under a leaf that maps `size` bytes (R239, R240). -/
def leafDpa (e : DWord) (size : Nat) (va : DWord) : Nat := eaHeap va * 2 ^ 52 + pteAddr e + va.toNat % size

/-- The places of the table entries that a walk from a table of a level reads, as far as it goes. -/
def State.walkReads (s : State) (va : DWord) : Nat → Nat → List Nat
  | 0, t => [t + 8 * tableIndex 0 va]
  | l + 1, t =>
    let a := t + 8 * tableIndex (l + 1) va
    let e := s.tableEntry a
    if s.memPoisonAt a || !pteValid e || pteLeaf e || !nonLeafOk e l then [a] else a :: State.walkReads s va l (pteAddr e)

/-- The places of the table entries that the walk of an address in a context reads. -/
def State.tablePlaces (s : State) (asid : BitVec 16) (va : DWord) : List Nat :=
  match s.ctx asid with
  | none => []
  | some c =>
    let e := c.root.getD (eaHeap va) 0
    if !pteValid e || pteLeaf e || !nonLeafOk e 3 then [] else s.walkReads va 3 (pteAddr e)

/-- A walk's reads of table entries, each an access at the entry's home through its memory-side cache (R239, R247, R404, R422). DESIGN CHOICE
(log 112): no leaf gives a table a policy or a way partition; it is read as NORMAL under way partition 0 of the context. -/
def State.tableReads (s : State) (asid : BitVec 16) (va : DWord) : State :=
  (s.tablePlaces asid va).foldl (fun s a => (s.mscFill a asid 1 0).mediaAccess a false) s

/-! Frames (R369). -/

/-- The die and index of the frame that holds a space-0 address. -/
def State.frameAt (s : State) (va : DWord) : Option (Nat × Nat) :=
  (s.frames.find? (fun f => f.2.1.toNat ≤ va.toNat && va.toNat < f.2.1.toNat + 2 ^ 24)).map (fun f =>
    (f.1, (va.toNat - f.2.1.toNat) / 1024))
/-- The die and index of the frame that holds a device-physical address. -/
def State.frameAtDpa (s : State) (dpa : Nat) : Option (Nat × Nat) :=
  (s.frames.find? (fun f => f.2.2 ≤ dpa && dpa < f.2.2 + 2 ^ 24)).map (fun f => (f.1, (dpa - f.2.2) / 1024))

/-- The ASID of a space-0 access (R369, R388): frames are reached above USER level in ASID 0xFFFF. -/
def State.accessAsid (s : State) (sh : Sheaf) (va : DWord) : BitVec 16 :=
  if sh.level != .user && (s.frameAt (eaVa va)).isSome then 0xFFFF else sh.ctxAsid

/-- The ASID of a sheaf's workgroup. -/
def State.sheafAsid (s : State) (k : Nat) : BitVec 16 :=
  match (s.sheaf k).bind (fun sh => mapFind s.wgs sh.wg) with
  | some w => w.asid
  | none => 0

/-- The slot of a workgroup's sheaf of an index, while it is resident. -/
def State.slotOf (s : State) (wg idx : Nat) : Option Nat :=
  (s.sheaves.find? (fun e => e.2.wg == wg && e.2.idx == idx)).map (fun e => e.1)

/-- The level and slot behind an access, for the admission to frames. -/
def State.askerLevel (s : State) (a : Asker) (core : Nat) : Level × Option Nat :=
  match a with
  | .entry id => match mapFind s.win id with
    | some e => (e.level, some e.sheaf)
    | none => (.user, none)
  | .engine op _ _ => match (s.core core).eng.find? (fun x => x.id == op) with
    | some x => (x.level, s.slotOf x.wg x.idx)
    | none => (.user, none)
  | _ => (.user, none)

/-- Whether a home admits an access to a frame (R369). -/
def frameAdmits (lvl : Level × Option Nat) (f : Nat × Nat) : Bool :=
  lvl.1 == .system || (lvl.1 == .handler && (match lvl.2 with
    | some k => slotDie k == f.1 && frameIndex k == f.2
    | none => false))

/-! Looking up at a home (R242, R243). -/

/-- What a home finds for an access: the frame; a page that is pending; a lookup that misses or denies, which a walk settles. -/
inductive Lookup where
  | ok (dpa : Nat) (perm : Perm)
  | pending (token : Word)
  | miss
  deriving DecidableEq, Repr

/-- The 64 KiB page of an address (R243). -/
def pageOf (va : DWord) : DWord := va &&& (~~~(65535#64))

def State.pendingPage (s : State) (asid : BitVec 16) (va : DWord) : Option PendPage :=
  s.pend.find? (fun p => p.asid == asid && p.page == pageOf va)

/-- The entry of a translation cache that allows an access. -/
def State.cached (s : State) (asid : BitVec 16) (va : DWord) (k : AccessKind) : Option TcEntry :=
  (mapGetD s.tc (eaHeap va) []).find? (fun t => t.asid == asid && t.va.toNat ≤ va.toNat && va.toNat < t.va.toNat + t.size
    && (ptePerm t.entry).allows k)

/-- The lookup of an access at the home of its heap. -/
def State.lookup (s : State) (asid : BitVec 16) (va : DWord) (k : AccessKind) (lvl : Level × Option Nat) : Lookup :=
  match s.pendingPage asid va with
  | some p => .pending p.token
  | none =>
    if asid == 0xFFFF then
      (match s.frameAt va, s.frames.find? (fun f => f.2.1.toNat ≤ va.toNat && va.toNat < f.2.1.toNat + 2 ^ 24) with
      | some f, some r => if frameAdmits lvl f && k != .exec then .ok (r.2.2 + (va.toNat - r.2.1.toNat)) ⟨true, true, false⟩ else .miss
      | _, _ => .miss)
    else
      match s.cached asid va k with
      | some t =>
        let dpa := leafDpa t.entry t.size va
        (match s.frameAtDpa dpa with
        | some f => if frameAdmits lvl f then .ok dpa (ptePerm t.entry) else .miss
        | none => .ok dpa (ptePerm t.entry))
      | none => .miss

/-- What a walk makes of an access that missed (R242, R422): the leaf to cache, or a confirmed fault's kind and level. -/
def State.settle (s : State) (asid : BitVec 16) (va : DWord) (k : AccessKind) (lvl : Level × Option Nat) : Except (Nat × Nat) TcEntry :=
  if asid == 0xFFFF && (s.frameAt va).isSome then .error (kindPermission, 0)
  else
    match s.walk asid va with
    | .stop kind level => .error (kind, level)
    | .leaf e l =>
      let dpa := leafDpa e (leafSize l) va
      let refused := match s.frameAtDpa dpa with
        | some f => !frameAdmits lvl f
        | none => false
      if refused || !(ptePerm e).allows k then .error (kindPermission, l)
      else .ok { asid := asid, va := BitVec.ofNat 64 (va.toNat / leafSize l * leafSize l), size := leafSize l, entry := e }

/-- The device-physical address of an address as the tables have it now, whatever is allowed. -/
def State.dpaOf (s : State) (asid : BitVec 16) (va : DWord) : Option Nat :=
  match s.walk asid va with
  | .leaf e l => some (leafDpa e (leafSize l) va)
  | .stop _ _ => none

/-! A frame mapped at two addresses (R241). -/

/-- The valid entries of a table of n entries, by index. -/
def State.entriesOf (s : State) (table n : Nat) : List (Nat × DWord) :=
  s.mem.filterMap (fun c =>
    if table ≤ c.1 && c.1 < table + 8 * n && (c.1 - table) % 8 == 0 && c.2.getLsbD 0 then some ((c.1 - table) / 8, s.tableEntry c.1)
    else none)

/-- The leaves below a table of a level: each entry with its size. -/
def State.leavesFrom (s : State) : Nat → Nat → List (DWord × Nat)
  | 0, table => ((s.entriesOf table 32).filter (fun x => pteLeaf x.2)).map (fun x => (x.2, leafSize 0))
  | l + 1, table =>
    (s.entriesOf table (if l == 2 then 8192 else 512)).flatMap (fun x =>
      if pteLeaf x.2 then [(x.2, leafSize (l + 1))] else State.leavesFrom s l (pteAddr x.2))

/-- Whether an ASID's tables map the frame of a device-physical address at two addresses, one of them writable: its reads through
the ASID then return undefined values. -/
def State.doubleMapped (s : State) (asid : BitVec 16) (dpa : Nat) : Bool :=
  match s.ctx asid with
  | none => false
  | some c =>
    let e := c.root.getD (dpaTarget dpa) 0
    let frame := dpa % 2 ^ 52 / 65536 * 65536
    if !pteValid e then false
    else
      let here := (s.leavesFrom 3 (pteAddr e)).filter (fun x => pteAddr x.1 ≤ frame && frame < pteAddr x.1 + x.2)
      2 ≤ here.length && here.any (fun x => (ptePerm x.1).w)

/-- What a read of an ASID takes from a block: free data and a free tag where the ASID's tables map its frame twice. -/
def State.readAs (s : State) (asid : BitVec 16) (a : BlkAns) : BlkAns :=
  if a.status == .ok && s.doubleMapped asid a.dpa then
    { a with blk := Config.freeBlk s.free, tag := (Config.freeWord s.free).extractLsb' 0 16 }
  else a
/-- The free values of such a read used up. -/
def State.readDone (s : State) (asid : BitVec 16) (a : BlkAns) : State :=
  if a.status == .ok && s.doubleMapped asid a.dpa then { s with free := s.free + 1 } else s

/-! Confirmed faults (R243 to R245). -/

/-- Whether a further fault's record has somewhere to go: the 1,024 places beside the ring. -/
def State.faultRoom (s : State) : Bool := s.recordsKept < 1024 || s.ringOpen

/-- A page marked pending for an access that faults, with its record held for 256 cycles; none while the queue has no room. -/
def State.confirmFault (s : State) (asid : BitVec 16) (va : DWord) (kind level : Nat) (r : FaultRec) (op : Option Nat) :
    Option (Word × State) :=
  if !s.faultRoom then none
  else
    let token := s.fq.next
    some (token, { s with
      fq := { s.fq with next := token + 1, made := s.fq.made + 1 }
      released := mapErase s.released token.toNat
      pend := s.pend ++ [{ asid := asid, page := pageOf va, token := token, kind := kind, level := level,
                           recd := some { r with kind := kind, level := level, token := token, time := BitVec.ofNat 32 s.clk },
                           made := s.fq.made, op := op, since := s.clk }] })

/-- The access bits of a fault record (R244). -/
def accessBits (k : AccessKind) (engine : Bool) : Nat :=
  (match k with | .load => 1 | .store => 2 | .exec => 4 | .atomic => 3) + (if engine then 8 else 0)

/-- The fields of a fault record that name who faulted (R244). -/
def State.faultOf (s : State) (asid : BitVec 16) (va : DWord) (k : AccessKind) (a : Asker) (core : Nat) : FaultRec :=
  let base : FaultRec := { errorRec s 0 va asid (accessBits k false) 0 with place := core / 16 * 16 + core % 16 }
  let wgNode (g : Nat) : Nat := match mapFind s.wgs g with | some w => w.node | none => 0
  match a with
  | .entry id =>
    (match mapFind s.win id with
    | none => base
    | some e =>
      let m := e.blks.foldl (fun m b => if b.base == va then m ||| (b.mask &&& e.left) else m) 0
      let t := (threadsOf m).headD 0
      let g := match s.sheaf e.sheaf with | some sh => wgNode sh.wg | none => 0
      { base with
        va := (match mapFind e.thr t with | some r => r.addr | none => va)
        mask := m, node := g, lane := slotLane e.sheaf, slot := slotSlot e.sheaf })
  | .engine op item _ =>
    (match (s.core core).eng.find? (fun x => x.id == op) with
    | none => { base with access := accessBits k true, lane := 0xFF }
    | some x =>
      let t := match x.items.find? (fun i => i.index == item) with | some i => i.thread | none => x.lead
      { base with access := accessBits k true, lane := 0xFF, node := wgNode x.wg, mask := threadBit t })
  | .line =>
    (match s.sheaves.find? (fun e => slotCore e.1 == core && s.sheafAsid e.1 == asid && e.2.fetching == some (lineAt va)) with
    | some e =>
      { base with
        va := if lineAt e.2.pc == lineAt va then e.2.pc else e.2.pc + 8
        mask := e.2.m, node := wgNode e.2.wg, lane := slotLane e.1, slot := slotSlot e.1 }
    | none => base)
  | .const =>
    let waits (e : Nat × Sheaf) : Option (Nat × Sheaf × TMask) := match e.2.wait with
      | .const a m => if slotCore e.1 == core && s.sheafAsid e.1 == asid && a == va then some (e.1, e.2, m) else none
      | _ => none
    (match s.sheaves.findSome? waits with
    | some e => { base with mask := e.2.2, node := wgNode e.2.1.wg, lane := slotLane e.1, slot := slotSlot e.1 }
    | none => base)
  | .prefetch => base

end Sys2Proof.Machine
end

