-- ==== Sys2Proof/Machine/Allow.lean ====
section
/-! DEFINITION. Allowance counters (R351 to R361, R415): the counter's block, the core's and the die's levels, and the messages
between them and the home. The instructions are in Allowance.lean. -/

namespace Sys2Proof.Machine

/-! Requests to other packages (R223, R321, R400, R402). -/

/-- An answer that brings no block. -/
def BlkAns.done : BlkAns := { blk := 0, tag := 0, poison := 0, perm := ⟨true, true, false⟩, dpa := 0, status := .ok }
/-- An answer that says only how the access failed. -/
def BlkAns.failed (st : MemStatus) : BlkAns :=
  { blk := 0, tag := 0, poison := 0, perm := ⟨false, false, false⟩, dpa := 0, status := st }

/-- The answer of a request to another package on its way back to the core (R223, R400). -/
def State.podAnswer (s : State) (q : PodOut) (a : BlkAns) (old : Nat → DWord) : State :=
  let bulk : Bool := match q.asker with | .engine _ _ _ => true | _ => false
  let back (m : Msg) : State := s.send (.troxia q.port) (.core q.core) (if q.al.isSome then 0 else if bulk then 2 else 1) none m
  let read : ReadReq := { asid := 0, va := q.base, asker := q.asker, kind := .load, pol := 4, l1 := false, epoch := 0, ovl := 0,
                          overM := 0, overT := none, bulk := bulk, place := 0 }
  match q.al, a.status with
  | some (_, .take _ t), .bad c => back (.al (.fail t.key t.core t.entry t.thread c none))
  | some (_, .give k _ _ (some (core, entry, thread))), .bad c => back (.al (.fail k core entry thread c none))
  | some (_, .give k _ _ (some (core, entry, thread))), _ => back (.al (.value k core entry (BitVec.ofNat 64 thread) none))
  | some _, _ => s
  | none, _ =>
  match q.asker with
  | .entry id =>
    if !q.write then back (.data read a)
    else
      let fails : List (Nat × Nat) := match a.status with | .bad c => (threadsOf q.mask).map (fun t => (t, c.toNat)) | _ => []
      back (.lsAns { who := .peer q.core id, va := q.base, vals := (threadsOf q.mask).map (fun t => (t, (old t).setWidth 128)),
                     blk := BlkAns.done, fails := fails })
  | .engine op item _ =>
    if !q.write then back (.data read a)
    else back (.lsAns { who := .put q.core op item q.bytes, va := q.base, vals := [], blk := a, fails := [] })
  | _ => s

/-- Whether a sequence number is at or after another; sequence numbers wrap, and at most 512 flits are out (R400). -/
def seqFrom (a b : BitVec 24) : Bool := (a - b).toNat < 2 ^ 23
/-- The epoch of the key that seals a new flit: the next one from the first sequence number of a rollover on (R401). -/
def Port.epochOf (x : Port) (seq : BitVec 24) : Nat :=
  match x.rollover with
  | some q => if seqFrom seq q then x.epoch + 1 else x.epoch
  | none => x.epoch
/-- A flit put on the link of a port, sealed under its own key each time (R400, R401). -/
def Port.seal (x : Port) (port : Nat) (f : HeldFlit) : SentFlit :=
  let ack := x.expect - 1
  { seq := f.seq, keyBit := f.epoch % 2 == 1, ack := ack, req := f.req, tag := Config.flitTagOf port f.seq f.epoch ack f.req }
/-- Requests that wait at a port sent while its replay buffer, of 512 flits, has room (R400). -/
def Port.refill (x : Port) (port : Nat) : Port :=
  let now := (x.queue.take (512 - x.replay.length)).zipIdx.map (fun q =>
    let seq := x.sent + BitVec.ofNat 24 q.2
    ({ seq := seq, epoch := x.epochOf seq, req := q.1 } : HeldFlit))
  { x with sent := x.sent + BitVec.ofNat 24 now.length
           replay := x.replay ++ now
           line := x.line ++ now.map (fun f => x.seal port f)
           queue := x.queue.drop (512 - x.replay.length) }
/-- The flits of the replay buffer sent again (R400). -/
def Port.resend (x : Port) (port : Nat) : Port := { x with line := x.line ++ x.replay.map (fun f => x.seal port f) }

/-- A request to another package sent on the first port of its route that is up; without one it fails with ADDRESS (R402). -/
def State.podSend (s : State) (q : PodOut) : State :=
  match (Config.podRoute q.pkg).find? (fun p => match mapFind s.ports p with | some x => x.up | none => false) with
  | none => s.podAnswer q (BlkAns.failed (.bad (BitVec.ofNat 8 causeAddress))) (fun _ => 0)
  | some p =>
    { s with podOut := s.podOut ++ [{ q with port := p }]
             ports := mapModify s.ports p (fun x => { x with queue := x.queue ++ [q.seq] }.refill p) }

/-! The counter's block (R351). -/

/-- A little-endian field of a block. -/
def blkNat (b : Blk) (off n : Nat) : Nat := (b.toNat >>> (8 * off)) % 2 ^ (8 * n)
/-- A block with a little-endian field set. -/
def blkSetNat (b : Blk) (off n v : Nat) : Blk :=
  blkMerge b (BitVec.ofNat 512 ((v % 2 ^ (8 * n)) * 2 ^ (8 * off))) (BitVec.ofNat 64 ((2 ^ n - 1) * 2 ^ off))

def ctrReserve (b : Blk) : Nat := blkNat b 0 8
def ctrQCore (b : Blk) : Nat := blkNat b 8 2
def ctrQDie (b : Blk) : Nat := blkNat b 10 2
def ctrNoGive (b : Blk) : Bool := b.getLsbD 96
def ctrScope (b : Blk) : Nat := blkNat b 13 1
def ctrRecalling (b : Blk) : Bool := b.getLsbD 114
def ctrState (b : Blk) : Nat := blkNat b 14 1 % 4
def ctrDieMask (b : Blk) : Nat := blkNat b 16 2
def ctrPkgMask (b : Blk) : Nat := blkNat b 24 8
def ctrRecalls (b : Blk) : Nat := blkNat b 32 8
def ctrSetState (b : Blk) (recalling : Bool) (state : Nat) : Blk := blkSetNat b 14 1 (state % 4 + if recalling then 4 else 0)

/-- Whether a counter is another package's, named through space 5 (R352, R362). -/
def AlKey.remote (k : AlKey) : Bool := eaSpace k.va == 5
/-- A counter's block and its place, while the tables map it; a block of another package is not there. -/
def State.counter (s : State) (k : AlKey) : Option (Nat × Blk) :=
  if k.remote then none else (s.dpaOf k.asid k.va).map (fun d => (d, s.memBlk d))
/-- Whether the tables let an ASID read and write a counter, and its page is not pending (R240, R243, R362). -/
def State.alAllowed (s : State) (k : AlKey) : Bool :=
  k.remote || ((s.pendingPage k.asid k.va).isNone && (match s.walk k.asid k.va with
    | .leaf e _ => (ptePerm e).allows .atomic
    | .stop _ _ => false))
/-- Whether a counter refuses gives (R351). -/
def State.alNoGive (s : State) (k : AlKey) : Bool :=
  match s.counter k with
  | some (_, b) => ctrNoGive b
  | none => k.remote && Config.podNoGive k.asid k.va
/-- The cause with which an instruction on a counter fails wherever it is answered: the block is no counter, or the counter is
poisoned (R357, R360, R362). -/
def State.alCause (s : State) (k : AlKey) : Option Nat :=
  match s.counter k with
  | none => none
  | some (d, b) => if s.memTagAt d != 0xA000 then some causeAllowState else if ctrState b == 2 then some causeAllowPoison else none
/-- Whether a counter's home has it SCARCE: a give of a core that records nothing is then performed when it is sent (R356). -/
def State.alScarce (s : State) (k : AlKey) : Bool := match s.counter k with | some (_, b) => ctrState b == 1 | none => false
/-- The quanta of a counter (R351). -/
def State.quanta (s : State) (k : AlKey) : Nat × Nat :=
  match s.counter k with
  | some (_, b) => (ctrQCore b, ctrQDie b)
  | none => if k.remote then Config.podQuanta k.asid k.va else (0, 0)

/-- The slice of a block (R235). -/
def sliceOf (va : DWord) : Nat :=
  let f (n : Nat) : Nat := va.toNat / 2 ^ n % 16
  f 6 ^^^ f 10 ^^^ f 14 ^^^ f 18

/-! Messages (R352, R344). -/

def State.partOf (s : State) (asid : BitVec 16) : Option Nat := (s.ctx asid).map (fun c => c.partition)
/-- A message of the allowance protocol. -/
def State.sendAl (s : State) (src dst : Agent) (m : AlMsg) (asid : BitVec 16) : State := s.send src dst 0 (s.partOf asid) (.al m)
/-- The slice of a core's die that serves a counter, and the home of a counter. -/
def alSlice (die : Nat) (k : AlKey) : Agent := .slice die (sliceOf k.va)
def alHomeOf (k : AlKey) : Agent := .home (eaHeap k.va)
/-- A message of a die to a counter's home: to its agent, or to the other package on a Troxia port (R352). -/
def State.sendUp (s : State) (die : Nat) (k : AlKey) (m : AlMsg) : State :=
  if k.remote then
    let from_ : Nat × Nat := match m with
      | .take _ t => (t.core, t.entry)
      | .give _ _ _ (some (core, entry, _)) => (core, entry)
      | _ => (die * 16, 0)
    ({ s with winNext := s.winNext + 1 } : State).podSend
      { seq := s.winNext, port := 0, pkg := k.va.toNat / 2 ^ 48 % 4096, core := from_.1, asker := .entry from_.2, sheaf := 0,
        write := false, base := k.va, mask := 0, bytes := 0, al := some (die, m) }
  else s.sendAl (alSlice die k) (alHomeOf k) m k.asid
/-- An answer put into the core's own inbox. -/
def State.answerSelf (s : State) (core : Nat) (m : AlMsg) : State := s.send (.core core) (.core core) 0 none (.al m)

/-! Levels (R352, R359). -/

def State.alCore (s : State) (core : Nat) (k : AlKey) : Option AlCore := (s.core core).al.find? (fun e => e.key == k)
def State.alDieOf (s : State) (die : Nat) (k : AlKey) : Option AlDie := (mapGetD s.alDie die []).find? (fun e => e.key == k)

/-- An entry changed or added. -/
def putBy {α : Type} (same : α → Bool) (x : α) (xs : List α) : List α :=
  if xs.any same then xs.map (fun y => if same y then x else y) else xs ++ [x]

def State.putAlDie (s : State) (die : Nat) (e : AlDie) : State :=
  { s with alDie := mapPutD s.alDie die (putBy (fun x => x.key == e.key) e (mapGetD s.alDie die [])) [] }
def State.dropAlDie (s : State) (die : Nat) (k : AlKey) : State :=
  { s with alDie := mapPutD s.alDie die ((mapGetD s.alDie die []).filter (fun e => e.key != k)) [] }
def State.dropAlCore (s : State) (core : Nat) (k : AlKey) : State :=
  s.onCore core (fun c => { c with al := c.al.filter (fun e => e.key != k) })

/-- The takes queued at a core sent on as exact ones; the first is on its way already where it has asked for a refill. -/
def State.sendQueued (s : State) (core : Nat) (e : AlCore) : State :=
  (if e.asked then e.queue.drop 1 else e.queue).foldl (fun s t =>
    s.sendAl (.core core) (alSlice (coreDie core) e.key) (.take (coreDie core) { t with exact := true, want := t.n }) e.key.asid) s

/-- A core's entry evicted: its units go back to the die, and takes queued there go on as in a recall (R354, R359). -/
def State.evictCore (s : State) (core : Nat) (v : AlCore) : State :=
  ((s.dropAlCore core v.key).sendAl (.core core) (alSlice (coreDie core) v.key) (.give v.key (coreDie core) v.units none)
    v.key.asid).sendQueued core v

/-- A die's entry evicted: its cores are recalled, or everything goes back to the home (R359). -/
def State.evictDie (s : State) (die : Nat) (v : AlDie) : State :=
  let here := alSlice die v.key
  if v.cores.isEmpty then (s.dropAlDie die v.key).sendUp die v.key (.give v.key die v.units none)
  else
    v.cores.foldl (fun s c => s.sendAl here (.core c) (.recalling v.key true) v.key.asid) (s.putAlDie die { v with recalling := v.cores, evict := true })

/-- A core's entry written; a core that holds 64 others first evicts the least recently used one (R359). -/
def State.putAlCore (s : State) (core : Nat) (e : AlCore) : State :=
  let al := (s.core core).al
  if al.any (fun x => x.key == e.key) || al.length < 64 then
    s.onCore core (fun c => { c with al := putBy (fun x => x.key == e.key) e c.al })
  else
    match leastUsed (fun (x : AlCore) => x.used) al with
    | none => s.onCore core (fun c => { c with al := c.al ++ [e] })
    | some v => (s.evictCore core v).onCore core (fun c => { c with al := c.al ++ [e] })

/-- Whether a die that holds 1,024 other entries has no place for a counter's (R352). -/
def State.alDieFull (s : State) (die : Nat) (k : AlKey) : Bool :=
  let al := mapGetD s.alDie die []
  !al.any (fun x => x.key == k) && 1024 ≤ al.length
/-- The entry that a full die evicts: its least recently used one; none while an entry is on its way out already (R359). -/
def State.alVictim (s : State) (die : Nat) : Option AlDie :=
  let al := mapGetD s.alDie die []
  if al.any (fun x => !x.recalling.isEmpty) then none else leastUsed (fun (x : AlDie) => x.used) al
/-- The eviction that makes room for the first allowance message at a die slice that needs an entry of a full die (R359): it recalls the entry's
cores, or returns everything to the home; the message waits. -/
def State.alMakeRoom (s : State) (needs : AlMsg → Bool) : Option State :=
  s.net.findSome? (fun f => match f.place, f.p.dst, f.p.msg with
    | .inbox, .slice d _, .al m => if needs m && s.alDieFull d m.key then (s.alVictim d).map (fun v => s.evictDie d v) else none
    | _, _, _ => none)

def AlCore.fresh (k : AlKey) (now : Nat) : AlCore :=
  { key := k, units := 0, held := false, scarce := false, queue := [], asked := false, poison := false, used := now }
def AlDie.fresh (k : AlKey) (now : Nat) : AlDie :=
  { key := k, units := 0, held := false, cores := [], scarce := false, recalling := [], evict := false, sum := 0, poison := false,
    used := now }

/-! A core's level (R353, R355, R356, R415). -/

/-- A take at a core; one whose page denies it meets its fault at the home, one at a lost allowance fails (R360). -/
def State.takeAtCore (s : State) (t : AlTake) : State :=
  let core := t.core
  let up (s : State) (t : AlTake) : State :=
    s.sendAl (.core core) (alSlice (coreDie core) t.key) (.take (coreDie core) t) t.key.asid
  let e := (s.alCore core t.key).getD (AlCore.fresh t.key s.clk)
  let e := { e with used := s.clk }
  if !s.alAllowed t.key then
    s.sendAl (.core core) (alHomeOf t.key) (.take (coreDie core) { t with exact := true, want := t.n }) t.key.asid
  else match (s.alCause t.key).orElse (fun _ => if e.poison then some causeAllowPoison else none) with
  | some c => s.answerSelf core (.fail t.key core t.entry t.thread (BitVec.ofNat 8 c) none)
  | none =>
    if t.n == 0 then s.answerSelf core (.answer (coreDie core) t 0 none)
    else if e.scarce then up (s.putAlCore core e) { t with exact := true, want := t.n }
    else if !e.queue.isEmpty then s.putAlCore core { e with queue := e.queue ++ [t] }
    else if t.n ≤ e.units then (s.putAlCore core { e with units := e.units - t.n }).answerSelf core (.answer (coreDie core) t t.n none)
    else
      up (s.putAlCore core { e with queue := [t], asked := true }) { t with want := (s.quanta t.key).1 + t.n - e.units }

/-- A give of one thread at a core (R356): applied where the core holds an entry, with the excess above twice the quantum passed
to the die; otherwise sent on, and at a SCARCE counter performed when it is sent. One whose page denies it meets its fault at the
home. -/
def State.giveAtCore (s : State) (k : AlKey) (core entry thread n : Nat) : State :=
  let die := coreDie core
  let up (s : State) (n : Nat) (f : Option (Nat × Nat × Nat)) : State :=
    s.sendAl (.core core) (alSlice die k) (.give k die n f) k.asid
  let done (s : State) : State := s.answerSelf core (.value k core entry (BitVec.ofNat 64 thread) none)
  let fail (c : Nat) : State := s.answerSelf core (.fail k core entry thread (BitVec.ofNat 8 c) none)
  let e := (s.alCore core k).getD (AlCore.fresh k s.clk)
  if !s.alAllowed k then s.sendAl (.core core) (alHomeOf k) (.give k die n (some (core, entry, thread))) k.asid
  else match (s.alCause k).orElse (fun _ => if e.poison then some causeAllowPoison else none) with
  | some c => fail c
  | none =>
    if s.alNoGive k then fail causeAllowState
    else if e.held && !e.scarce then
      let limit := 2 * (s.quanta k).1
      let total := e.units + n
      if limit < total then done (up (s.putAlCore core { e with units := limit, used := s.clk }) (total - limit) none)
      else done (s.putAlCore core { e with units := total, used := s.clk })
    else if e.scarce || s.alScarce k then done (up s n none)
    else up s n (some (core, entry, thread))

/-- What a window entry's allowance instruction asks at its core for the threads of a mask (R353, R356, R357, R362). -/
def State.alStart (s : State) (id core : Nat) (k : AlKey) (i : Instr) (thr : Map ThreadReq) (m : TMask) : State :=
  let ts := threadsOf m
  let f := ts.headD 0
  let req (t : Nat) : ThreadReq := (mapFind thr t).getD { addr := 0, data := 0, data2 := 0 }
  let home (s : State) : State := s.sendAl (.core core) (alHomeOf k) (.op i k core id f (req f)) k.asid
  match i with
  | .altake o =>
    ts.foldl (fun s t => s.takeAtCore { key := k, core := core, entry := id, thread := t, n := (req t).data.toNat % 2 ^ 32,
                                        part := o.mod.getLsbD 0, want := 0, wantHome := 0, exact := false }) s
  | .algive _ => ts.foldl (fun s t => s.giveAtCore k core id t ((req t).data.toNat % 2 ^ 32)) s
  | .alpeek _ =>
    let a := (s.alCore core k).getD (AlCore.fresh k s.clk)
    let d := (s.alDieOf (coreDie core) k).getD (AlDie.fresh k s.clk)
    if !s.alAllowed k then home s
    else (match (s.alCause k).orElse (fun _ => if a.poison || d.poison then some causeAllowPoison else none) with
    | some c => s.answerSelf core (.fail k core id 32 (BitVec.ofNat 8 c) none)
    | none => s.answerSelf core (.value k core id (BitVec.ofNat 64 (a.units + d.units)) none))
  | _ => home s

end Sys2Proof.Machine
end

