-- ==== Sys2Proof/Machine/Path.lean ====
section
/-! DEFINITION. The coalescing window (R227 to R229), the store buffer (R230), the L1 (R232 to R234, R335), acquires (R318), the
local-store banks (R225) and what a memory instruction reads or writes in one block (R256 to R259, R336, R349). -/

namespace Sys2Proof

/-- The fields and the ATTR fields of an instruction. -/
def Instr.opsOf (i : Instr) : Option Ops := i.form.map (fun f => f.1)
def Instr.attrOf (i : Instr) : Attr := match i.opsOf with | some (o : Ops) => o.attr | none => Attr.zero
def Instr.acquires (i : Instr) : Bool := i.attrOf.order.getLsbD 0
def Instr.releases (i : Instr) : Bool := i.attrOf.order.getLsbD 1
/-- The scope that an instruction's ATTR names, as it acts (R311). -/
def Instr.scopeOf (i : Instr) : Nat := Machine.actsAs i.attrOf.scope.toNat
/-- The access size of LD, ST, LDB and STB in bytes (R136). -/
def Instr.memBytes (i : Instr) : Nat := match i.opsOf with | some (o : Ops) => 2 ^ (o.mod.toNat % 8) | none => 1
/-- Whether an instruction returns a value to registers. -/
def Instr.answers (i : Instr) : Bool := match i.form with | some (_, f) => f.dst != .none | none => false

end Sys2Proof

namespace Sys2Proof.Machine

/-! What kind of access an instruction makes. -/

inductive MemClass where
  | load | store | atomic | allow
  deriving DecidableEq, Repr

def memClass (i : Instr) : MemClass :=
  match i with
  | .ld _ => .load
  | .ldb _ => .load
  | .ldtg _ => .load
  | .tagrd _ => .load
  | .st _ => .store
  | .stb _ => .store
  | .sttg _ => .store
  | .tagwr _ => .store
  | .alinit _ => .allow
  | .altake _ => .allow
  | .algive _ => .allow
  | .alread _ => .allow
  | .alpeek _ => .allow
  | .alclose _ => .allow
  | _ => .atomic

/-- The effective policy of an access (R234): 1 NORMAL, 2 EVICT_FIRST, 3 RETAIN, 4 BYPASS. DESIGN CHOICE (log 90): a pointer's policy
of 5 to 7, which R221 refuses at every address check, would pass through as it is. -/
def effPolicy (i : Instr) (own : Nat) : Nat :=
  let p := if i.attrOf.policy.toNat != 0 then i.attrOf.policy.toNat else own
  if p == 0 then 1 else p

/-- The effective policy of a thread's access. -/
def WinEntry.policy (e : WinEntry) (r : ThreadReq) : Nat :=
  effPolicy e.instr (match e.instr with
    | .ldb _ => r.data2.toNat
    | .stb _ => r.data2.toNat
    | _ => eaPolicy r.addr)

/-! Values of one block (R64 to R67, R256, R257, R259). -/

/-- The words of a block that bytes off to off + n - 1 touch. -/
def wordsOf (off n : Nat) : BitVec 16 :=
  BitVec.ofNat 16 ((List.range 16).foldl (fun m i => if 4 * i < off + n && off < 4 * i + 4 then m + 2 ^ i else m) 0)

/-- What a load takes from its block for one thread: the value, or the cause it fails with (R254, R257, R381). -/
def loadValue (i : Instr) (r : ThreadReq) (x : BlkAns) : Except Nat (BitVec 128) :=
  let off := r.addr.toNat % 64
  let bad (off n : Nat) : Bool := x.poison &&& wordsOf off n != 0
  match i with
  | .tagrd _ => if x.poison != 0 then .error causeDataError else .ok (x.tag.setWidth 128)
  | .ldtg _ =>
    let code := x.tag.toNat / 256
    if code == 0xA0 then .error causeAllowObject
    else if code == 0 || 8 < code then .error causeFormat
    else
      let bits := elemBits code
      let k := r.data.toNat % 2 ^ 32 % (512 / bits)
      if bad (k * bits / 8) ((bits + 7) / 8) then .error causeDataError
      else .ok ((toFP32 .rne (scaledValue code (x.tag.toNat % 256) ((x.blk.toNat >>> (k * bits)) % 2 ^ bits))).setWidth 128)
  | _ =>
    let n := i.memBytes
    if x.tag == 0xA000 then .error causeAllowObject
    else if bad off n then .error causeDataError
    else
      let v := blkNat x.blk off n
      let sx := match i.opsOf with | some o => o.mod.getLsbD 3 | none => false
      .ok (if sx && n < 4 && v.testBit (8 * n - 1) then BitVec.ofNat 128 (2 ^ 32 - 2 ^ (8 * n) + v) else BitVec.ofNat 128 v)

/-- The bytes that the threads of a mask store to their block, a later thread over an earlier one, and the tag they set (R256,
R258). -/
def storeBytesOf (i : Instr) (thr : Map ThreadReq) (m : TMask) : Blk × BMask × Option Tag :=
  (threadsOf m).foldl (fun acc t =>
    match mapFind thr t with
    | none => acc
    | some r =>
      let off := r.addr.toNat % 64
      let put (n : Nat) : Blk × BMask :=
        let mk : BMask := BitVec.ofNat 64 ((2 ^ n - 1) * 2 ^ off)
        (blkMerge acc.1 (BitVec.ofNat 512 (r.data.toNat % 2 ^ (8 * n) * 2 ^ (8 * off))) mk, acc.2.1 ||| mk)
      match i with
      | .tagwr _ => (acc.1, acc.2.1, some (r.data.extractLsb' 0 16))
      | .sttg _ => let x := put 4; (x.1, x.2, some (r.data2.extractLsb' 0 16))
      | _ => let x := put i.memBytes; (x.1, x.2, acc.2.2)) (0, 0, none)

/-- What an atomic's threads bring. -/
def atomItems (thr : Map ThreadReq) (m : TMask) : List AtomItem :=
  (threadsOf m).filterMap (fun t => (mapFind thr t).map (fun r =>
    { thread := t, addr := r.addr, b := r.data.extractLsb' 0 64, c := r.data2 }))

/-- The words that an atomic of a thread reads. -/
def atomWords (i : Instr) (x : AtomItem) : BitVec 16 := wordsOf (x.addr.toNat % 64) (atomBytes i)

/-! The store buffer (R230). -/

def State.sbOf (s : State) (core lgrp : Nat) : List SbEntry := mapGetD (s.core core).sb lgrp []
def State.setSb (s : State) (core lgrp : Nat) (xs : List SbEntry) : State :=
  s.onCore core (fun c => { c with sb := mapPutD c.sb lgrp xs [] })

/-- The bytes and the tag that a store buffer holds for a block. -/
def State.sbBytes (s : State) (core lgrp : Nat) (asid : BitVec 16) (va : DWord) : Blk × BMask × Option Tag :=
  (s.sbOf core lgrp).foldl (fun acc x => if x.asid == asid && x.va == va then
    (blkMerge acc.1 x.blk x.mask, acc.2.1 ||| x.mask, x.tag.orElse (fun _ => acc.2.2)) else acc) (0, 0, none)

/-- A write-through on its way to the slice of its block (R230, R335). -/
def State.sendWrite (s : State) (core : Nat) (asid : BitVec 16) (va : DWord) (dpa : Nat) (blk : Blk) (mask : BMask)
    (tag : Option Tag) (made : Nat) : State :=
  let s1 := { s with winNext := s.winNext + 1 }
  s1.send (.core core) (.slice (coreDie core) (sliceOf va)) 1 (s.partOf asid)
    (.write { id := s.winNext, asid := asid, va := va, dpa := some dpa, blk := blk, mask := mask, tag := tag, poison := 0,
              writer := .through core, made := made })

/-- Fills of some bytes of a core asked for before now may not be kept in the L1 (R234). -/
def Core.overtake (c : Core) (asid : BitVec 16) (va : DWord) (len : Nat) : Core :=
  { c with epoch := c.epoch + 1
           overtaken := c.overtaken.filter (fun x => !(x.asid == asid && x.va == va && x.len == len)) ++ [⟨asid, va, len, c.epoch + 1⟩] }
/-- No fill of a core asked for before now may be kept in the L1. -/
def Core.flush (c : Core) : Core := { c with epoch := c.epoch + 1, flushed := c.epoch + 1, overtaken := [] }
/-- Whether a block asked for at an epoch may still be kept. -/
def Core.current (c : Core) (asid : BitVec 16) (va : DWord) (epoch : Nat) : Bool :=
  c.flushed ≤ epoch && !c.overtaken.any (fun x => x.asid == asid && epoch < x.at_ && x.va.toNat ≤ va.toNat && va.toNat < x.va.toNat + x.len)

/-- An entry drained (R230): the L1's copy follows, the bytes go through to the slice; reads of the block sent before may not be kept. -/
def State.drain (s : State) (core lgrp : Nat) (x : SbEntry) : State :=
  let s := s.setSb core lgrp ((s.sbOf core lgrp).filter (fun y => y.seq != x.seq || y.asid != x.asid || y.va != x.va))
  let s := s.onCore core (fun c =>
    { c.overtake x.asid x.va 64 with
      l1 := c.l1.map (fun l => if l.asid == x.asid && l.va == x.va then
        { l with blk := blkMerge l.blk x.blk x.mask, tag := x.tag.getD l.tag,
                 poison := if x.mask == BitVec.allOnes 64 then 0 else l.poison } else l) })
  s.sendWrite core x.asid x.va x.dpa x.blk x.mask x.tag x.seq

/-- Every entry of a lane group for one block drained, oldest first (R335). -/
def State.drainBlock (s : State) (core lgrp : Nat) (asid : BitVec 16) (va : DWord) : State :=
  ((s.sbOf core lgrp).filter (fun x => x.asid == asid && x.va == va)).foldl (fun s x => s.drain core lgrp x) s

/-! The L1 (R232 to R235, R335). -/

def State.l1Find (s : State) (core : Nat) (asid : BitVec 16) (va : DWord) : Option Line :=
  (s.core core).l1.find? (fun l => l.asid == asid && l.va == va)
def Line.ans (l : Line) : BlkAns := { blk := l.blk, tag := l.tag, poison := l.poison, perm := l.perm, dpa := l.dpa, status := .ok }

/-- A line in the atomic state written through: the bytes changed since the last write-through (R335). -/
def State.writeAtomicLine (s : State) (core : Nat) (l : Line) : State :=
  if l.atomic && l.dirty != 0 then
    (s.onCore core (fun c => { c with l1 := c.l1.map (fun x => if x.asid == l.asid && x.va == l.va then { x with dirty := 0 } else x) })).sendWrite
      core l.asid l.va l.dpa l.blk l.dirty none s.winNext
  else s

/-- A line dropped from an L1, a line in the atomic state after its write-through (R261, R335, R390). -/
def State.dropL1 (s : State) (core : Nat) (asid : BitVec 16) (va : DWord) : State :=
  let s := match s.l1Find core asid va with
    | some l => s.writeAtomicLine core l
    | none => s
  s.onCore core (fun c => { c.overtake asid va 64 with l1 := c.l1.filter (fun l => !(l.asid == asid && l.va == va)) })

/-- Whether a workgroup of a core holds an allocatable unit (R115). -/
def State.unitHeld (s : State) (core u : Nat) : Bool :=
  s.wgs.any (fun w => w.2.core == core && w.2.stage != .saved && w.2.lsBase / 65536 ≤ u && u < w.2.lsBase / 65536 + w.2.units)

/-- The lines that a place of an L1 can hold (R115, R232): 16,384 in its permanent 1 MiB, 1,024 in a unit lent to it. -/
def State.placeLines (s : State) (core place : Nat) : Nat :=
  if place == 0 then 16384 else if s.lsCap / 65536 - 16 ≤ place - 1 || s.unitHeld core (place - 1) then 0 else 1024

/-- The lines of a place. -/
def Core.inPlace (c : Core) (place : Nat) : List Line := c.l1.filter (fun l => l.place == place)

/-- The place that an L1 fixes for a fill (R116): the permanent 1 MiB while it has room, else the first lent unit that has. -/
def State.l1Place (s : State) (core : Nat) : Nat :=
  if ((s.core core).inPlace 0).length < 16384 then 0
  else ((List.range (s.lsCap / 65536 - 16)).find? (fun u => ((s.core core).inPlace (u + 1)).length < s.placeLines core (u + 1))).elim 0 (fun u => u + 1)

/-- The line that gives way among some (R234): the one the step names where the policies allow it, otherwise the first they
order. -/
def evicted (ls : List Line) (named : Option Line) : Option Line :=
  match leastUsed (fun (l : Line) => giveWay l.pol l.used) ls, named with
  | some v, some n => if ls.contains n && giveWay n.pol n.used ≤ giveWay v.pol v.used then some n else some v
  | v, _ => v

/-- Room for one more line in a place of an L1: the line that gives way is dropped, one in the atomic state written through. -/
def State.makeRoom (s : State) (core place : Nat) (named : Option Line) : State :=
  if ((s.core core).inPlace place).length < s.placeLines core place then s
  else match evicted ((s.core core).inPlace place) named with
    | some v => s.dropL1 core v.asid v.va
    | none => s

/-- A line put into its place of an L1, unless the place has been taken back (R116, R234, R423): the whole place is its set, at most
half of which holds RETAIN lines (log 45). -/
def State.keepL1 (s : State) (core : Nat) (victim : Option Nat) (l : Line) : State :=
  let cap := s.placeLines core l.place
  if cap == 0 then s
  else
    let s := s.makeRoom core l.place (victim.bind (fun v => (s.core core).l1[v]?))
    let retained := ((s.core core).inPlace l.place).filter (fun x => x.pol == 3)
    let pol := if l.pol == 3 && cap / 2 ≤ retained.length then 1 else l.pol
    s.onCore core (fun c => { c with l1 := c.l1 ++ [{ l with pol := pol, used := placedUse pol s.clk }] })

/-- A line used (R234). -/
def State.touchL1 (s : State) (core : Nat) (asid : BitVec 16) (va : DWord) : State :=
  s.onCore core (fun c => { c with l1 := c.l1.map (fun l => if l.asid == asid && l.va == va then { l with used := s.clk + 1 } else l) })

/-- Whether an access may be served from a copy of a block (R369, R383): a frame's copy only to who may reach the frame, and none of
heap 14 while it is lost. -/
def State.copyServes (s : State) (l : Line) (a : Asker) (core : Nat) : Bool :=
  !s.lostAt l.va
    && (match s.frameAtDpa l.dpa with | some f => frameAdmits (s.askerLevel a core) f | none => true)

/-! Acquires (R318). -/

/-- Whether a line on a die is in its remote section (R235). -/
def isRemote (die : Nat) (va : DWord) : Bool := 12 ≤ eaHeap va || heapDie (eaHeap va) != die

/-- An acquire on a core (R318): DIE and wider drop the L1's lines but those in the atomic state; DEVICE and wider also the
die's remote sections. -/
def State.acquire (s : State) (core scope : Nat) : State :=
  if scope < 3 then s
  else
    let s := s.onCore core (fun c => { c.flush with l1 := c.l1.filter (fun l => l.atomic) })
    if scope < 5 then s
    else
      { s with slices := mapMap (fun k x => if k / 16 == coreDie core then
          { x with
            lines := x.lines.filter (fun l => !isRemote (coreDie core) l.va)
            merge := x.merge.map (fun m => if isRemote (coreDie core) m.va then { m with open_ := false } else m) } else x) s.slices }

/-! Barrier objects (R348, R349). -/

/-- EXPECTED, ARRIVED, INIT and PHASE of the object at an offset. -/
structure BObj where
  expected : Word
  arrived  : Word
  init     : Bool
  phase    : Bool
  deriving DecidableEq, Repr

def State.boAt (s : State) (core off : Nat) : BObj :=
  let w (k : Nat) : Nat := leNat (s.lsRead core (off + 4 * k) 4)
  { expected := BitVec.ofNat 32 (w 0), arrived := BitVec.ofNat 32 (w 1), init := w 2 / 2 % 2 == 1, phase := w 2 % 2 == 1 }

/-- An object written back. -/
def State.setBo (s : State) (core off : Nat) (b : BObj) : State :=
  (s.lsWrite core off (leBytes 4 b.expected.toNat ++ leBytes 4 b.arrived.toNat
    ++ leBytes 4 ((if b.phase then 1 else 0) + (if b.init then 2 else 0)) ++ leBytes 4 0)).lsCleanWords core off 16

/-- bo_update (R349): at most one flip. -/
def BObj.update (b : BObj) (dexp darr : Word) : BObj :=
  let e := b.expected + dexp
  let a := b.arrived + darr
  if 0 < e.toNat && e.toNat ≤ a.toNat then { b with expected := e, arrived := a - e, phase := !b.phase }
  else { b with expected := e, arrived := a }

/-- Whether a change would take EXPECTED outside 0 to 2^31 − 1 (R350). -/
def BObj.expOut (b : BObj) (dexp : Word) : Bool := 2 ^ 31 ≤ (b.expected + dexp).toNat

/-- An update at the object's bank: an object a lane has stored into behaves in no stated way, so its content is free (R348). -/
def State.boUpdate (s : State) (core off : Nat) (dexp darr : Word) : State :=
  if mapFind s.bos (lsKey core off / 16) == some true then
    { s with free := s.free + 2 }.setBo core off
      { expected := Config.freeWord s.free, arrived := Config.freeWord (s.free + 1), init := true,
        phase := (Config.freeWord (s.free + 1)).getLsbD 0 }
  else s.setBo core off ((s.boAt core off).update dexp darr)

/-- A lane store into live objects (R348). -/
def State.taintBos (s : State) (core off n : Nat) : State :=
  { s with bos := mapMap (fun k v => if lsKey core off < 16 * k + 16 && 16 * k < lsKey core (off + n) then true else v) s.bos }

/-! A local-store block (R225, R256 to R259, R336, R380, R381). -/

/-- The words of a block of local store that are poisoned. -/
def State.lsPoisonMask (s : State) (core base : Nat) : BitVec 16 :=
  BitVec.ofNat 16 ((List.range 16).foldl (fun m i => if mapGetD s.lsPoison ((lsKey core base) / 4 + i) false then m + 2 ^ i else m) 0)

/-- A block of local store with its tag. -/
def State.lsBlk (s : State) (core base : Nat) : BlkAns :=
  { blk := blkOfBytes (s.lsRead core base 64), tag := mapGetD s.lsTag (lsKey core base / 64) 0, poison := s.lsPoisonMask core base,
    perm := ⟨true, true, false⟩, dpa := 0, status := .ok }

/-- Bytes, a tag and poison written to a block of local store; a word written whole loses its poison (R381). -/
def State.lsPut (s : State) (core base : Nat) (blk : Blk) (mask : BMask) (tag : Option Tag) (poison : BitVec 16) : State :=
  let s := (List.range 64).foldl (fun s i => if mask.getLsbD i then s.setLsByte core (base + i) (blk.extractLsb' (8 * i) 8) else s) s
  let s := (List.range 16).foldl (fun s i =>
    let whole := mask.toNat / 2 ^ (4 * i) % 16 == 15
    let key := lsKey core base / 4 + i
    if poison.getLsbD i && mask.toNat / 2 ^ (4 * i) % 16 != 0 then { s with lsPoison := mapPutD s.lsPoison key true false }
    else if whole then { s with lsPoison := mapErase s.lsPoison key } else s) s
  match tag with
  | some t => { s with lsTag := mapPutD s.lsTag (lsKey core base / 64) t 0 }
  | none => s

/-- What a lane instruction does at a bank to one block: the state, values by thread, threads that fail with their causes. -/
def State.lsLane (s : State) (core base : Nat) (i : Instr) (thr : Map ThreadReq) : State × Map (BitVec 128) × List (Nat × Nat) :=
  let m := thr.foldl (fun m r => m ||| threadBit r.1) (0#32)
  let x := s.lsBlk core base
  let off (r : ThreadReq) : Nat := base + r.addr.toNat % 64
  let f := (threadsOf m).headD 0
  let lead : ThreadReq := (mapFind thr f).getD { addr := 0, data := 0, data2 := 0 }
  match i with
  | .boinit _ =>
    ({ s with bos := mapInsert s.bos (lsKey core (off lead) / 16) false }.setBo core (off lead)
      { expected := lead.data.extractLsb' 0 32, arrived := 0, init := true, phase := false }, [], [])
  | .boexp _ =>
    if (s.boAt core (off lead)).expOut (lead.data.extractLsb' 0 32) then (s, [], (threadsOf m).map (fun t => (t, causeIllegalOperand)))
    else (s.boUpdate core (off lead) (lead.data.extractLsb' 0 32) 0, [], [])
  | .boarr _ =>
    let b := s.boAt core (off lead)
    if !b.init then (s, [], (threadsOf m).map (fun t => (t, causeIllegalOperand)))
    else
      (s.boUpdate core (off lead) 0 (lead.data.extractLsb' 0 32),
        (threadsOf m).map (fun t => (t, if b.phase then 1#128 else 0#128)), [])
  | i =>
    match memClass i with
    | .load =>
      thr.foldl (fun acc r => match loadValue i r.2 x with
        | .ok v => (acc.1, mapInsert acc.2.1 r.1 v, acc.2.2)
        | .error c => (acc.1, acc.2.1, acc.2.2 ++ [(r.1, c)])) (s, [], [])
    | .store =>
      if x.tag == 0xA000 then (s, [], (threadsOf m).map (fun t => (t, causeAllowObject)))
      else
        let (blk, mask, tag) := storeBytesOf i thr m
        let s := (List.range 64).foldl (fun s j => if mask.getLsbD j then s.taintBos core (base + j) 1 else s) s
        (s.lsPut core base blk mask tag 0, [], [])
    | _ =>
      let items := atomItems thr m
      let bad := items.filter (fun a => x.poison &&& atomWords i a != 0)
      let good := items.filter (fun a => x.poison &&& atomWords i a == 0)
      let (olds, blk, mask) := atomApply (.instr i) x.blk good
      let s := (List.range 64).foldl (fun s j => if mask.getLsbD j then s.taintBos core (base + j) 1 else s) s
      (s.lsPut core base blk mask none 0, olds.map (fun o => (o.1, o.2.setWidth 128)), bad.map (fun a => (a.thread, causeDataError)))

/-! Window entries (R227 to R229). -/

/-- Whether an instruction takes a window entry (R227): the barrier-object instructions take none. -/
def Instr.takesEntry (i : Instr) : Bool :=
  match i with
  | .boinit _ => false
  | .boexp _ => false
  | .boarr _ => false
  | _ => true

/-- The entries a lane's window holds. -/
def State.windowUse (s : State) (k : Nat) : Nat :=
  (s.win.filter (fun e => slotCore e.2.sheaf == slotCore k && slotLane e.2.sheaf == slotLane k && Instr.takesEntry e.2.instr)).length

/-- A block's address with the same name for each way to reach it from a core (R229): the core's own local store as space 2 names
it. -/
def blkName (core : Nat) (base : DWord) : DWord :=
  if eaSpace base == 1 then
    BitVec.ofNat 64 (2 * 2 ^ 60 + coreDie core * 2 ^ 36 + core % 16 * 2 ^ 32 + base.toNat % 2 ^ 24)
  else base

/-- The block requests of some threads in ascending address order, as an instruction with a U or A address sends them (R228). -/
def sortBlks (bs : List BlkReq) : List BlkReq :=
  let rec put (b : BlkReq) : List BlkReq → List BlkReq
    | [] => [b]
    | x :: rest => if b.base.toNat < x.base.toNat then b :: x :: rest else x :: put b rest
  bs.foldl (fun acc b => put b acc) []

/-- The block requests of some threads, in the order in which ascending threads first touch them (R228). -/
def blkReqs (thr : Map ThreadReq) : List BlkReq :=
  thr.foldl (fun acc r =>
    let base := blkBase r.2.addr
    if acc.any (fun b => b.base == base) then acc.map (fun b => if b.base == base then { b with mask := b.mask ||| threadBit r.1 } else b)
    else acc ++ [{ base := base, mask := threadBit r.1, stage := .held }]) []

/-- The stage of a block of an entry set. -/
def State.setBlk (s : State) (id : Nat) (base : DWord) (st : BlkStage) : State :=
  { s with win := mapModify s.win id (fun e => { e with blks := e.blks.map (fun b => if b.base == base then { b with stage := st } else b) }) }

/-- What stands before a block request (R229, R317). -/
inductive Before where
  | nothing | wait | joins (token : Word)
  deriving DecidableEq, Repr

def State.before (s : State) (id : Nat) (e : WinEntry) (b : BlkReq) : Before :=
  let ordered := match e.order with
    | some r => mapHas s.rels r
    | none => false
  let earlier := s.win.filter (fun x => x.1 < id && x.2.sheaf == e.sheaf && !x.2.kept)
  let name (x : DWord) : DWord := blkName (slotCore e.sheaf) x
  let same := (earlier.flatMap (fun x => x.2.blks) ++ e.blks.takeWhile (fun y => y.base != b.base)).filter (fun y => name y.base == name b.base)
  match same.findSome? (fun y => match y.stage with | .faulted t => some t | _ => none) with
  | some t => .joins t
  | none => if ordered || same.any BlkReq.open_ then .wait else .nothing

/-- Whether an earlier request of a sheaf to a block, by whatever name it reached it, has not been performed (R229, R325). -/
def State.blockBusy (s : State) (k : Nat) (a : DWord) : Bool :=
  s.win.any (fun e => e.2.sheaf == k && e.2.blks.any (fun b => blkName (slotCore k) b.base == blkName (slotCore k) (blkBase a) && b.open_))

/-- A sheaf parked on a page (R243): its chain closes, it waits for the page; the page may have been released while the fault was
on its way. -/
def Sheaf.parkOn (sh : Sheaf) (token : Word) (kind : ParkKind) (released : Map Bool) : Sheaf :=
  { sh.closeChain with
    parks := if sh.parks.any (fun p => p.token == token && p.kind == kind) then sh.parks
      else sh.parks ++ [{ token := token, kind := kind, done := mapFind released token.toNat }] }
def State.park (s : State) (k : Nat) (token : Word) (kind : ParkKind) : State :=
  s.onSheaf k (fun sh => sh.parkOn token kind s.released)

/-- The fault mask of an entry, the threads of all its faulted blocks and of those held behind them (R243), in the record that its
fault made, until the record is written (R244). -/
def State.joinFault (s : State) (id : Nat) : State :=
  match mapFind s.win id with
  | none => s
  | some e =>
    let m := e.blks.foldl (fun m b => match b.stage with | .faulted _ => m ||| (b.mask &&& e.left) | _ => m) (0#32)
    { s with pend := s.pend.map (fun p =>
        if p.op == some id then { p with recd := p.recd.map (fun r => { r with mask := r.mask ||| m }) } else p) }

/-- The ASID of a request (R369, R388): frames are reached above USER level in ASID 0xFFFF. -/
def State.reqAsid (s : State) (e : WinEntry) (base : DWord) : BitVec 16 :=
  if e.level != .user && eaSpace base == 0 && (s.frameAt base).isSome then 0xFFFF else e.asid

/-- Whether an allowance instruction is answered below the home as far as a core and its die hold units (R353, R356, R357). -/
def alBelow (i : Instr) : Bool :=
  match i with
  | .altake _ => true
  | .algive _ => true
  | .alpeek _ => true
  | _ => false

/-- A block request sent on its path (R225, R226, R228, R230, R232, R334, R342, R362). DESIGN CHOICE (log 120): where threads that share a block have
different policies, the request takes that of the lowest one. -/
def State.sendBlk (s : State) (id : Nat) (e : WinEntry) (b : BlkReq) : State :=
  let core := slotCore e.sheaf
  let die := coreDie core
  let here : Agent := .core core
  let asid := s.reqAsid e b.base
  let part := s.partOf asid
  let m := b.mask &&& e.left
  let thr := mapFilter (fun t _ => m.getLsbD t) e.thr
  let lead : ThreadReq := (mapFind e.thr ((threadsOf m).headD 0)).getD { addr := b.base, data := 0, data2 := 0 }
  let s := s.setBlk id b.base .sent
  match eaSpace b.base with
  | 0 =>
    let slice : Agent := .slice die (sliceOf b.base)
    let pol := e.policy lead
    let ask (s : State) (k : AccessKind) (ovl : Blk × BMask × Option Tag) (hit : Perm → Bool) : State :=
      let q : ReadReq := { asid := asid, va := b.base, asker := .entry id, kind := k, pol := pol, l1 := pol != 4 && k != .store && eaHeap b.base != 13,
                           epoch := (s.core core).epoch, ovl := ovl.1, overM := ovl.2.1, overT := ovl.2.2, bulk := false,
                           place := if k == .atomic then 0 else s.l1Place core }
      match s.l1Find core asid b.base with
      | some l => if hit l.perm && s.copyServes l (.entry id) core then (s.touchL1 core asid b.base).deliver here (.data { q with l1 := false } l.ans)
                  else s.send here slice 1 part (.read q)
      | none => s.send here slice 1 part (.read q)
    (match memClass e.instr with
    | .load => ask s .load (s.sbBytes core (slotLgrp e.sheaf) asid b.base) (fun p => p.r)
    | .store => ask s .store (0, 0, none) (fun p => p.w)
    | .allow => s.alStart id core { asid := asid, va := b.base } e.instr thr m
    | .atomic =>
      if e.instr.scopeOf < 3 then
        ask (s.drainBlock core (slotLgrp e.sheaf) asid b.base) .atomic (0, 0, none) (fun p => p.r && p.w)
      else
        let repro := match s.sheaf e.sheaf with
          | some sh => (match mapFind s.wgs sh.wg with | some w => w.repro | none => false)
          | none => false
        let items := atomItems thr m
        let s := (s.drainBlock core (slotLgrp e.sheaf) asid b.base).dropL1 core asid b.base
        let q : AtomReq := { asid := asid, va := b.base, op := .instr e.instr, order := e.instr.attrOf.order.toNat,
                             scope := e.instr.attrOf.scope.toNat, repro := repro, poison := false, items := items,
                             from_ := [{ id := s.winNext, die := die, core := core, asker := .entry id, poison := false, items := items }] }
        let s := { s with winNext := s.winNext + 1 }
        s.send here slice 1 part (.atom q))
  | 1 =>
    let q : LsReq := { core := core, base := b.base.toNat % 2 ^ 24, va := b.base, act := .lane e.instr thr, who := .entry id, asid := asid,
                       span := none, priv := e.level != .user, since := s.clk, lane := slotLane e.sheaf }
    s.onCore core (fun c => { c with bankQ := c.bankQ ++ [q] })
  | 2 =>
    let target := b.base.toNat / 2 ^ 36 % 16 * 16 + b.base.toNat / 2 ^ 32 % 16
    let q : LsReq := { core := target, base := b.base.toNat % 2 ^ 24, va := b.base, act := .lane e.instr thr, who := .peer core id,
                       asid := s.sheafAsid e.sheaf,
                       span := none, priv := e.level != .user, since := s.clk, lane := slotLane e.sheaf }
    let s := if memClass e.instr == .store then s.onCore core (fun c => { c with peerOut := c.peerOut ++ [id] }) else s
    s.send here (.core target) 1 part (.ls q)
  | _ =>
    let q : PodOut := { seq := s.winNext, port := 0, pkg := b.base.toNat / 2 ^ 48 % 4096, core := core, asker := .entry id,
                        sheaf := e.sheaf, write := memClass e.instr != .load, base := b.base, mask := m, bytes := 0 }
    if alBelow e.instr then s.alStart id core { asid := asid, va := b.base } e.instr thr m
    else ({ s with winNext := s.winNext + 1 } : State).podSend q

/-- The held requests of a sheaf that nothing stands before are sent, in issue order; those behind a faulted request join its
fault (R228, R229). -/
def State.pump (s : State) (k : Nat) : State :=
  ((s.win.filter (fun e => e.2.sheaf == k && !e.2.kept)).map (fun e => e.1)).foldl (fun s id =>
    match mapFind s.win id with
    | none => s
    | some e =>
      e.blks.foldl (fun s b =>
        match mapFind s.win id with
        | none => s
        | some e =>
          if b.stage != .held then s
          else
            match s.before id e b with
            | .wait => s
            | .joins t => ((s.setBlk id b.base (.faulted t)).park k t (.entry id)).joinFault id
            | .nothing => s.sendBlk id e b) s) s

/-! The end of an entry (R156, R223, R227, R317, R371). -/

/-- The counter of a class (R280). -/
def Sheaf.counter (sh : Sheaf) (cls : Nat) : Nat :=
  match cls with
  | 0 => sh.cCopy
  | 1 => sh.cMatrix
  | 2 => sh.cCode
  | _ => sh.cRemote
def Sheaf.setCounter (sh : Sheaf) (cls n : Nat) : Sheaf :=
  match cls with
  | 0 => { sh with cCopy := n }
  | 1 => { sh with cMatrix := n }
  | 2 => { sh with cCode := n }
  | _ => { sh with cRemote := n }

/-- A counter drops; a WAITC that it lets go on ends (R268, R281). -/
def Sheaf.drop (sh : Sheaf) (cls : Nat) : Sheaf :=
  let sh := sh.setCounter cls (sh.counter cls - 1)
  match sh.wait with
  | .counter c limit => if c == cls && sh.counter cls ≤ limit then { sh with wait := .none } else sh
  | _ => sh

/-- The sheaf of a workgroup's index, resident or saved, changed. -/
def State.onMember (s : State) (wg idx : Nat) (f : Sheaf → Sheaf) : State :=
  { s with
    sheaves := mapMap (fun _ sh => if sh.wg == wg && sh.idx == idx then f sh else sh) s.sheaves
    wgs := mapModify s.wgs wg (fun w => { w with saved := w.saved.map (fun sh => if sh.idx == idx then f sh else sh) }) }

/-- Completions of a class reported in issue order (R268): the finished operations at the head of a sheaf's list leave it, and
its counter drops once for each. -/
def reportOps (wg idx : Nat) : List CountedOp → List CountedOp × Nat
  | [] => ([], 0)
  | x :: rest =>
    if x.wg == wg && x.idx == idx then
      (if x.left == 0 then let r := reportOps wg idx rest; (r.1, r.2 + 1) else (x :: rest, 0))
    else let r := reportOps wg idx rest; (x :: r.1, r.2)

/-- A REMOTE or CODE operation of a core with one target less to wait for. -/
def State.countedDone (s : State) (core : Nat) (code : Bool) (id : Nat) : State :=
  let ops := if code then (s.core core).code else (s.core core).remote
  match ops.find? (fun x => x.id == id) with
  | none => s
  | some x =>
    let ops := ops.map (fun y => if y.id == id then { y with left := y.left - 1 } else y)
    let r := reportOps x.wg x.idx ops
    let s := s.onCore core (fun c => if code then { c with code := r.1 } else { c with remote := r.1 })
    (List.range r.2).foldl (fun s _ => s.onMember x.wg x.idx (fun sh => sh.drop (if code then 2 else 3))) s

/-- TRAP_INFO of a response-time trap (R370). -/
def respInfo (cause : Nat) (a : DWord) : Word :=
  if cause == causeDataError then (if eaSpace a == 0 || eaSpace a == 5 then 3 else 2) else 0

/-- The response-time traps of an entry's failed threads: one for each cause, the entry kept for TRET (R223, R371). -/
def State.failEntry (s : State) (id : Nat) (e : WinEntry) : State :=
  let causes := e.fails.foldl (fun acc f => if acc.contains f.2 then acc else acc ++ [f.2]) ([] : List (BitVec 8))
  (causes.zipIdx).foldl (fun s ci =>
    let m := e.fails.foldl (fun m f => if f.2 == ci.1 then m ||| threadBit f.1 else m) (0#32)
    let a := match mapFind e.thr ((threadsOf m).headD 0) with | some r => r.addr | none => 0
    let kid := if ci.2 == 0 then id else s.winNext
    let s := { s with
      winNext := if ci.2 == 0 then s.winNext else s.winNext + 1
      win := if Instr.takesEntry e.instr then mapInsert s.win kid { e with kept := true, left := m, fails := [], uni := e.uni && m == e.mask } else s.win }
    let s := match s.sheaf e.sheaf with
      | some sh => if ci.1.toNat == causeDataError then s.consumedRecord e.sheaf sh a m else s
      | none => s
    s.onSheaf e.sheaf (fun sh =>
      { sh with respTraps := sh.respTraps ++ [{ seq := id, cause := ci.1, info := respInfo ci.1.toNat a, mask := m, pc := e.pc, level := e.level,
                                                 entry := if Instr.takesEntry e.instr then some kid else none }] })) s

/-- The node of a sheaf in error (R106, R373). -/
def State.errNode (s : State) (k : Nat) : State :=
  match (s.sheaf k).bind (fun sh => mapFind s.wgs sh.wg) with
  | some w => s.onNode w.node (fun n => { n with errored := true })
  | none => s

/-- An entry none of whose blocks waits any more: results are no longer pending (those of failed threads neither, log 91), failed
threads are held for their trap, the acquire is made, REMOTE drops, and what waited behind it goes on. -/
def State.closeEntry (s : State) (id : Nat) : State :=
  match mapFind s.win id with
  | none => s
  | some e =>
    if e.kept || e.order.isSome || e.blks.any (fun b => b.stage != .done) then s
    else
      let core := slotCore e.sheaf
      let ended := match s.sheaf e.sheaf with
        | some sh => sh.ended
        | none => true
      let s := { s with win := mapErase s.win id }
      let s := s.onSheaf e.sheaf (fun sh =>
        let sh := sh.clearPend e.instr.dstOf
        let need := (e.instr.dstOf.filter (fun r => !(sh.classOf r).stored)).length
        if e.uni && e.fails.isEmpty && sh.storeUsed + need ≤ 32 then
          e.instr.dstOf.foldl (fun sh r => sh.setClasses [r] (.uni (sh.reg r 0))) sh
        else sh)
      let s := if e.fails.isEmpty then s else if ended then s.errNode e.sheaf else s.failEntry id e
      let s := if e.instr.acquires then s.acquire core e.instr.scopeOf else s
      let s := if e.remote then s.countedDone core false id else s
      (s.pump e.sheaf).reap e.sheaf

/-- A value of a thread of an entry (R127, R156). -/
def State.giveValue (s : State) (e : WinEntry) (t : Nat) (v : BitVec 128) : State :=
  match e.instr.form with
  | none => s
  | some (o, f) => s.onSheaf e.sheaf (fun sh => if f.dst == .none then sh else sh.lateResult o f.dst.width t v)

/-- The answer to one block of an entry: values and failures by thread; the block is done. -/
def State.answerBlk (s : State) (id : Nat) (base : DWord) (vals : Map (BitVec 128)) (fails : List (Nat × Nat)) : State :=
  match mapFind s.win id with
  | none => s
  | some e =>
    match e.blks.find? (fun b => b.base == base && b.stage == .sent) with
    | none => s
    | some b =>
      let m := b.mask &&& e.left
      let s := vals.foldl (fun s v => if m.getLsbD v.1 then s.giveValue e v.1 v.2 else s) s
      let bad := fails.filter (fun f => m.getLsbD f.1)
      let s := { s with win := mapModify s.win id (fun e =>
        { e with left := e.left &&& ~~~m, fails := bad.foldl (fun (a : Map (BitVec 8)) (f : Nat × Nat) => mapInsert a f.1 (BitVec.ofNat 8 f.2)) e.fails }) }
      (s.setBlk id base .done).closeEntry id

/-- A block of an entry faults (R229, R243): its threads wait for the page and the sheaf parks; requests behind it join. -/
def State.faultBlk (s : State) (id : Nat) (base : DWord) (token : Word) : State :=
  match mapFind s.win id with
  | none => s
  | some e =>
    if e.blks.any (fun b => b.base == base && b.stage == .sent) then
      (((s.setBlk id base (.faulted token)).park e.sheaf token (.entry id)).joinFault id).pump e.sheaf
    else s

end Sys2Proof.Machine
end

