-- ==== Sys2Proof/Machine/Record.lean ====
section
/-! DEFINITION. Buffer records (R262 to R265): their fields, what makes one malformed, where an element lies; the records
of an engine operation, its completion scope and its counted arrivals (R264, R273, R309, R408). -/

namespace Sys2Proof.Machine

/-- The eight words of a buffer record, by field (R262). -/
structure BufRec where
  base    : DWord
  ext0    : Nat
  ext1    : Nat
  ext2    : Nat
  stride1 : Nat
  stride2 : Nat
  fmt     : Nat
  tagMode : Nat
  policy  : Nat
  scope   : Nat
  bounds  : Nat
  /-- a reserved field or value is nonzero, FMT is above 0x08, or an E2M1 record has an odd EXT0 (R263) -/
  bad     : Bool
  deriving DecidableEq, Repr

/-- A record from its words. -/
def bufRec (ws : List Word) : BufRec :=
  let w (i : Nat) : Nat := (ws.getD i 0).toNat
  let fmt := w 6 / 2 ^ 24
  let policy := w 7 / 32 % 8
  { base := BitVec.ofNat 64 (w 0 + 2 ^ 32 * w 1), ext0 := w 2, ext1 := w 3, ext2 := w 6 % 2 ^ 24, stride1 := w 4, stride2 := w 5,
    fmt := fmt, tagMode := w 7 / 256 % 4, policy := if policy == 0 then 1 else policy, scope := w 7 / 4 % 8, bounds := w 7 % 4,
    bad := w 7 / 1024 != 0 || w 7 / 256 % 4 == 3 || 5 ≤ policy || w 7 % 4 == 3 || 8 < fmt || (fmt == 6 && w 2 % 2 == 1) }

/-- The bits of an element (R262). -/
def fmtBits (fmt : Nat) : Nat :=
  match fmt with
  | 1 => 32
  | 2 => 16
  | 3 => 16
  | 6 => 4
  | _ => 8
def BufRec.bits (r : BufRec) : Nat := fmtBits r.fmt
/-- The bytes of n elements that start on a byte. -/
def BufRec.bytes (r : BufRec) (n : Nat) : Nat := (n * r.bits + 7) / 8
/-- Whether the array is empty. -/
def BufRec.empty (r : BufRec) : Bool := r.ext0 == 0 || r.ext1 == 0 || r.ext2 == 0
/-- The address of the byte at which element (x, y, z) lies (R262). -/
def BufRec.at (r : BufRec) (x y z : Nat) : DWord := r.base + BitVec.ofNat 64 (x * r.bits / 8 + y * r.stride1 + z * r.stride2)
/-- The address of row j of a table (R275). -/
def BufRec.row (r : BufRec) (j : Nat) : DWord := r.at 0 (j % r.ext1) (j / r.ext1)

/-- What becomes of out-of-bounds coordinates of LDB and STB (R265). -/
inductive Bound where
  | inside (x j : Nat)
  | trap
  | dropped
  deriving DecidableEq, Repr

def BufRec.bound (r : BufRec) (x j : Nat) : Bound :=
  let rows := r.ext1 * r.ext2
  if x < r.ext0 && j < rows then .inside x j
  else match r.bounds with
    | 0 => .trap
    | 1 => .dropped
    | _ => if r.ext0 == 0 || rows == 0 then .dropped else .inside (min x (r.ext0 - 1)) (min j (rows - 1))

/-- Whether a window record's first word lies on a 32-byte boundary (R263). -/
def State.windowAligned (s : State) (w : Workgroup) (o : Ops) : Bool :=
  match o.ext with
  | .const win off =>
    let base := match (mapFind s.nodes w.node).bind (fun n => n.windows[win.toNat]?) with
      | some x => if win.toNat < 6 then x.base.toNat else 0
      | none => 0
    (base + 4 * off.toNat) % 32 == 0
  | _ => true

/-- The words of a record in the workgroup's region, or the cause that its pointer raises (R263). -/
def State.localRecord (s : State) (w : Workgroup) (a : DWord) : Except Nat (List Word) :=
  match s.locate w a with
  | some (.own off) =>
    if off % 32 != 0 then .error causeMisaligned
    else if w.lsBase + w.units * 65536 < off + 32 then .error causeAddress
    else .ok ((List.range 8).map (fun i => BitVec.ofNat 32 (leNat (s.lsRead w.core (off + 4 * i) 4))))
  | _ => .error causeAddress

/-! The records of an engine operation. -/

/-- The record that governs the destination's tags: A of CPY.rec, else the source (R264, R272). -/
def EngOp.tagRecord (op : EngOp) (o : Ops) : BufRec := bufRec (if o.mod.toNat % 8 == 0 then op.words.drop 8 else op.words)

/-- The completion scope of an operation (R273, R309): ATTR SCOPE when ORDER is 10; otherwise that of its destination or table
record, and DEVICE for a pointer (log 94 for GATH and BAGS), as the build widens it. -/
def EngOp.completionScope (op : EngOp) : Nat :=
  actsAs (if op.instr.attrOf.order == 2 then op.instr.attrOf.scope.toNat
    else match op.instr with
      | .cpy o => if o.mod.toNat % 8 == 0 then (op.tagRecord o).scope else 5
      | .gath _ => 5
      | .bags _ => 5
      | _ => (bufRec op.words).scope)

/-- A counted block write that has been performed: its bytes go to the barrier object at its receiver, the core `at_` unless its part names one
(R273, R408). -/
def State.boArrive (s : State) (op : EngOp) (item bytes : Nat) (here : Agent) (at_ : Nat) : State :=
  match op.bo with
  | none => s
  | some off =>
    let to_ := ((op.items.find? (fun x => x.index == item)).bind (fun x => x.boCore)).getD at_
    s.send here (.core to_) 0 (s.partOf op.own) (.boArr op.own off bytes op.core op.id op.completionScope)

end Sys2Proof.Machine
end

