-- ==== Sys2Proof/Machine/SliceSteps.lean ====
section
/-! DEFINITION. The steps of a die-cache slice: reads and merges (R235, R237, R274), writes and atomics on their way to their home
(R230, R236, R319, R342), acknowledgements, markers (R320). -/

namespace Sys2Proof.Machine

def State.slice (s : State) (die i : Nat) : Slice := mapGetD s.slices (die * 16 + i) Slice.reset
def State.setSlice (s : State) (die i : Nat) (x : Slice) : State := { s with slices := mapPutD s.slices (die * 16 + i) x Slice.reset }
def State.onSlice (s : State) (die i : Nat) (f : Slice → Slice) : State := s.setSlice die i (f (s.slice die i))

/-- A block answer with bytes, and a tag, laid over it: a block's poison goes only where all of it is written (R381). -/
def BlkAns.ovl (a : BlkAns) (b : Blk) (m : BMask) (t : Option Tag) : BlkAns :=
  { a with blk := blkMerge a.blk b m, tag := t.getD a.tag, poison := if m == BitVec.allOnes 64 then 0 else a.poison }

/-- A block with pending writes laid over it in arrival order (R319). -/
def BlkAns.under (a : BlkAns) (ps : List PendWrite) : BlkAns :=
  ps.foldl (fun a p =>
    let b := a.ovl p.blk p.mask p.tag
    if p.poison then { b with poison := 0xFFFF } else b) a

/-- The pending writes of a block whose bytes the slice shows. -/
def Slice.pendingOf (x : Slice) (asid : BitVec 16) (va : DWord) : List PendWrite :=
  x.pend.filter (fun p => p.asid == asid && p.va == va && !p.wait)

/-- A line of a slice as reads find it (R71, R231, R319): a line of the remote section has taken every write on its arrival; over one of the
home section lie the pending writes that its home has not performed (the bytes and the tag of a performed one are in the line). -/
def Slice.shown (x : Slice) (die : Nat) (l : Line) : BlkAns :=
  if isRemote die l.va then l.ans else l.ans.under (x.pendingOf l.asid l.va)

/-- A fill as the slice shows it: over a block of the home section as over a line; over another, whose home has performed the writes sent
before the read, the writes that have arrived since (R71, R319). -/
def Slice.shownFill (x : Slice) (die : Nat) (m : MergeEntry) (a : BlkAns) : BlkAns :=
  if isRemote die m.va then a.under (m.later ++ (x.pendingOf m.asid m.va).filter (fun p => !m.before.contains p.id))
  else a.under (x.pendingOf m.asid m.va)

/-- Whether reads of a block wait: an atomic or a reduction of it is unanswered (R342). -/
def Slice.holds (x : Slice) (asid : BitVec 16) (va : DWord) : Bool := x.pend.any (fun p => p.asid == asid && p.va == va && p.wait)

/-- The line of a slice that serves an access of a core. -/
def State.sliceHit (s : State) (x : Slice) (q : ReadReq) (core : Nat) : Option Line :=
  x.lines.find? (fun l => l.asid == q.asid && l.va == q.va && l.perm.allows q.kind && s.copyServes l q.asker core)

/-- The priority of a read and of its data (R344), and of an answer: a fault response is urgent. -/
def ReadReq.prio (q : ReadReq) : Nat := if q.bulk then 2 else 1
def BlkAns.prio (a : BlkAns) (normal : Nat) : Nat := match a.status with | .fault _ => 0 | _ => normal
/-- The priority of a write and of its acknowledgement (R344). -/
def WriteReq.prio (w : WriteReq) : Nat := match w.writer with | .engine _ _ _ => 2 | _ => 1
/-- The priority of an atomic (R344): an addition of SCAD is a block of an engine. -/
def AtomReq.prio (a : AtomReq) : Nat := match a.op with | .scad _ => 2 | .instr _ => 1

/-- No later reader may join the reads of a block that have left, and their block is not kept. -/
def Slice.closeMerge (x : Slice) (asid : BitVec 16) (va : DWord) : Slice :=
  { x with merge := x.merge.map (fun m => if m.asid == asid && m.va == va then { m with open_ := false } else m) }

/-- The requester record of a read that is served (R274): one packet to its cores. -/
def State.serve (s : State) (die i : Nat) (r : Agent × List Nat × ReadReq) (a : BlkAns) : State :=
  let part := s.partOf r.2.2.asid
  if r.2.1.isEmpty || a.status != .ok then
    (if r.2.2.asker == .prefetch && !r.2.2.l1 then s else s.send (.slice die i) r.1 (a.prio r.2.2.prio) part (.data r.2.2 a))
  else
    s.sendPkt { src := .slice die i, dst := .core (die * 16), prio := r.2.2.prio, msg := .data r.2.2 a, mcast := r.2.1, part := part }

/-- The home agent of an address. -/
def homeOf (va : DWord) : Agent := .home (eaHeap va)

/-- A read at its slice (R235, R237, R274): a hit is served; a confirmation goes on to the home; a miss joins the merge entry of its
block, takes a free entry, or waits: for an entry that has four requesters, that an acquire, an invalidation or an atomic has closed, or
while the table is full. None where it must wait. -/
def State.sliceRead (s : State) (die i : Nat) (src : Agent) (q : ReadReq) (mcast : List Nat) : Option State :=
  let x := s.slice die i
  let core := match src with | .core c => c | _ => 0
  let home (s : State) : State := s.send (.slice die i) (homeOf q.va) q.prio (s.partOf q.asid) (.homeRead q core)
  let waits : Option State := if q.asker == .prefetch then some s else none
  if x.holds q.asid q.va then none
  else
    match s.sliceHit x q core with
    | some l =>
      let s := s.onSlice die i (fun x =>
        { x with lines := x.lines.map (fun y => if y.asid == l.asid && y.va == l.va then { y with used := s.clk + 1 } else y) })
      some (s.serve die i (src, mcast, q) (x.shown die l))
    | none =>
      if q.kind == .store then some (home s)
      else
        match x.merge.find? (fun m => m.asid == q.asid && m.va == q.va) with
        | some m =>
          if m.open_ && m.recs.length < 4 then
            some (s.onSlice die i (fun x => { x with merge := x.merge.map (fun (y : MergeEntry) =>
              if y.asid == q.asid && y.va == q.va then { y with recs := y.recs ++ [(src, mcast, q)] } else y) }))
          else waits
        | none =>
          if x.merge.length < 32 then
            some (home (s.onSlice die i (fun x =>
              let m : MergeEntry := { asid := q.asid, va := q.va, kind := q.kind, recs := [(src, mcast, q)], open_ := true,
                                      before := (x.pendingOf q.asid q.va).map (fun p => p.id), later := [] }
              { x with merge := x.merge ++ [m] })))
          else waits

/-- SLICE_READ (R237): the first read at the slice that does not have to wait. -/
def execSliceRead (die slice : Nat) (s : State) : Out :=
  .next (s.firstEnabled (fun s p =>
    if p.dst != .slice die slice then none
    else match p.msg with
      | .read q => s.sliceRead die slice p.src q []
      | .multi q cores => s.sliceRead die slice p.src q cores
      | _ => none))

/-- The lines a section of a slice can hold: 3 MiB of the die's own heaps, 1 MiB of every other line (R235). -/
def sectionLines (remote : Bool) : Nat := if remote then 16384 else 49152

/-- The set of a line in its section of a slice (R235: 16 ways; log 45 for the index): 3,072 sets of the home section, 1,024 of the
remote section. -/
def sliceSet (die : Nat) (va : DWord) : Bool × Nat :=
  (isRemote die va, va.toNat / 1024 % (sectionLines (isRemote die va) / 16))

/-- A line kept by a slice in its set of 16 ways, in place of the line that gives way where the set is full (R234, R235, R423). -/
def Slice.keep (x : Slice) (die : Nat) (victim : Option Nat) (l : Line) : Slice :=
  let lines := x.lines.filter (fun y => !(y.asid == l.asid && y.va == l.va))
  let set := lines.filter (fun y => sliceSet die y.va == sliceSet die l.va)
  let pol := setPolicy l.pol (set.filter (fun y => y.pol == 3)).length
  let lines := if set.length < 16 then lines
    else match evicted set (victim.bind (fun v => x.lines[v]?)) with
      | some v => lines.filter (fun y => !(y.asid == v.asid && y.va == v.va))
      | none => lines
  { x with lines := lines ++ [{ l with pol := pol, used := placedUse pol (l.used - 1) }] }

/-- A line from an answer. -/
def lineOf (asid : BitVec 16) (va : DWord) (a : BlkAns) (pol now : Nat) : Line :=
  { asid := asid, va := va, dpa := a.dpa, blk := a.blk, tag := a.tag, poison := a.poison, perm := a.perm, pol := pol, used := now,
    atomic := false, dirty := 0, lastAtomic := 0, place := 0 }

/-- A read put back into a slice's inbox: it looks up anew. -/
def State.readAgain (s : State) (die i : Nat) (r : Agent × List Nat × ReadReq) : State :=
  let m : Msg := if r.2.1.isEmpty then .read r.2.2 else .multi r.2.2 r.2.1
  let p : Packet := { src := r.1, dst := .slice die i, prio := r.2.2.prio, msg := m, mcast := [], part := none }
  { s with net := s.net ++ [{ p := p, place := .inbox, age := 0, since := s.clk }] }

/-- SLICE_FILL_RETURN (R237, R274): the block is kept where its policy and what has happened since allow it, and every
requester record is served; one of another kind of access that the answer does not settle looks up anew. -/
def execSliceFillReturn (die slice : Nat) (victim : Option Nat) (s : State) : Out :=
  .next (match s.receive (.slice die slice) (fun m => match m with | .fill q a => some (q, a) | _ => none) with
    | none => s
    | some ((q, a), _, s) =>
      let x := s.slice die slice
      match x.merge.find? (fun m => m.asid == q.asid && m.va == q.va) with
      | none => s
      | some m =>
        let a := if a.status == .ok then x.shownFill die m a else a
        let pol := match m.recs with | r :: _ => r.2.2.pol | [] => 1
        let x := { x with merge := x.merge.filter (fun y => !(y.asid == q.asid && y.va == q.va)) }
        let x := if m.open_ && a.status == .ok && pol != 4 then x.keep die victim (lineOf q.asid q.va a pol (s.clk + 1)) else x
        m.recs.foldl (fun s r =>
          if r.2.2.kind == m.kind || (a.status == .ok && a.perm.allows r.2.2.kind) then s.serve die slice r a
          else s.readAgain die slice r) (s.setSlice die slice x))

/-! Writes (R230, R236, R319, R342). -/

/-- A die's remote copy of a written block (R236): the bytes and the tag over it. -/
def Line.written (l : Line) (w : WriteReq) : Line :=
  { l with blk := blkMerge l.blk w.blk w.mask, tag := w.tag.getD l.tag,
           poison := if w.poison != 0 then 0xFFFF else if w.mask == BitVec.allOnes 64 then 0 else l.poison }

/-- WRITE_THROUGH_ARRIVE (R236, R267, R319, R342): a write or an atomic enters the pending write table and goes on to its home. The die's
remote copy follows a write, also an engine's, which its home has still to confirm (log 39); an atomic discards it, and no later reader joins
the reads of its block that have left. A full table accepts none (log 42). -/
def execWriteThroughArrive (die slice : Nat) (s : State) : Out :=
  let arrive (s : State) (p : PendWrite) (line : Line → Option Line) (prio : Nat) (m : Msg) : State :=
    let s := s.onSlice die slice (fun x =>
      let x := { x with pend := x.pend ++ [p]
                        lines := x.lines.filterMap (fun (l : Line) =>
                          if l.asid == p.asid && l.va == p.va && isRemote die p.va then line l else some l) }
      if p.wait && isRemote die p.va then x.closeMerge p.asid p.va else x)
    s.send (.slice die slice) (homeOf p.va) prio (s.partOf p.asid) m
  let room := (s.slice die slice).pend.isEmpty || (s.slice die slice).pend.length ≤ Config.pendingWrites
  .next (match s.receive (.slice die slice) (fun m => match room, m with
      | true, .write w => some (Sum.inl w)
      | true, .atom a => some (Sum.inr a)
      | _, _ => none) with
    | none => s
    | some (.inl w, _, s) =>
      arrive s { id := w.id, asid := w.asid, va := w.va, blk := w.blk, mask := w.mask, tag := w.tag, poison := w.poison != 0, wait := false }
        (fun l => some (l.written w)) w.prio (.homeWrite w)
    | some (.inr a, _, s) =>
      arrive s { id := (match a.from_ with | c :: _ => c.id | [] => 0), asid := a.asid, va := a.va, blk := 0, mask := 0, tag := none,
                 poison := false, wait := true }
        (fun _ => none) a.prio (.homeAtom a))

/-- A pending write gone. -/
def Slice.free (x : Slice) (id : Nat) : Slice := { x with pend := x.pend.filter (fun p => p.id != id) }

/-- A write acknowledged (R319): a read of its block that left before it arrived is still to find it; after a failure the slice holds no copy
of the block, on which the write had been laid. -/
def Slice.acked (x : Slice) (w : WriteReq) (ok : Bool) : Slice :=
  let mine := x.pend.filter (fun p => p.id == w.id)
  if ok then
    { x.free w.id with merge := x.merge.map (fun m =>
        if m.asid == w.asid && m.va == w.va && !m.before.contains w.id then { m with later := m.later ++ mine } else m) }
  else { x.free w.id with lines := x.lines.filter (fun l => !(l.asid == w.asid && l.va == w.va)) }

/-- WRITE_ACK (R319, R342): the entry frees; an engine's acknowledgement and an atomic's answer go on to their core. -/
def execWriteAck (s : State) : Out :=
  .next (match s.receiveAny (fun a m => match a, m with
      | .slice d i, .writeAck w x => some (d, i, Sum.inl (w, x))
      | .slice d i, .atomAns x => some (d, i, Sum.inr x)
      | _, _ => none) with
    | none => s
    | some ((d, i, .inl (w, x)), _, s) =>
      let s := s.onSlice d i (fun y => y.acked w (x.status == .ok))
      (match w.writer with
      | .engine core _ _ => s.send (.slice d i) (.core core) (x.prio 2) (s.partOf w.asid) (.writeAck w x)
      | _ => s)
    | some ((d, i, .inr x), _, s) =>
      let s := s.onSlice d i (fun y => y.free x.to_.id)
      s.send (.slice d i) (.core x.to_.core) (x.ans.prio 1) (s.partOf x.asid) (.atomAns x))

/-! Markers (R320). -/

/-- SLICE_MARKER (R320): a marker that arrives is answered once every write forwarded before it has been acknowledged. -/
def execSliceMarker (s : State) : Out :=
  .next (match s.receiveAny (fun a m => match a, m with | .slice d i, .mark f _ => some (d, i, f) | _, _ => none) with
    | some ((d, i, f), p, s) =>
      s.onSlice d i (fun x => { x with marks := x.marks ++ [{ who := f, back := p.src, before := x.pend.map (fun p => p.id) }] })
    | none =>
      match s.slices.findSome? (fun x =>
        (x.2.marks.find? (fun m => x.2.pend.all (fun p => !m.before.contains p.id))).map (fun m => (x.1, m))) with
      | none => s
      | some (key, m) =>
        let d := key / 16
        let i := key % 16
        (s.onSlice d i (fun x => { x with marks := x.marks.erase m })).send (.slice d i) m.back 0 none (.marked m.who))

end Sys2Proof.Machine
end

