-- ==== Sys2Proof/Machine/MxOwn.lean ====
section
/-! DEFINITION. Claims and content owners of slots and tiles (R287 to R292). An entry of a core is numbered lane group·64 +
kind·32 + index, kind 1 for tiles. -/

namespace Sys2Proof.Machine

/-- The states of an entry (R287). -/
inductive EntryState where
  | free | live | parked | absent
  deriving DecidableEq, Repr

def EntryState.code : EntryState → Nat
  | .free => 0
  | .live => 1
  | .parked => 2
  | .absent => 3

/-- The number of an entry. -/
def mxEntry (lgrp : Nat) (tile : Bool) (index : Nat) : Nat := lgrp * 64 + (if tile then 32 else 0) + index

/-- The identity of a workgroup (R42, R287). -/
def Workgroup.ident (w : Workgroup) : BitVec 16 × Word := (w.asid, w.tag)

/-- The state of an entry of a core (R287). -/
def State.entryState (s : State) (c x : Nat) : EntryState :=
  let k := s.core c
  match mapFind k.claims x, mapFind k.owners x with
  | none, none => .free
  | none, some _ => .parked
  | some _, none => .absent
  | some g, some own =>
    match mapFind s.wgs g with
    | some w => if w.ident == own then .live else .absent
    | none => .absent

/-- The entry that MX_SEL selects; none for a tile index above 15 (R292). -/
def Core.selected (k : Core) : Option Nat :=
  let sel := k.mxSel.toNat
  if sel / 32 % 2 == 1 && 16 ≤ sel % 32 then none else some (sel / 64 * 64 + sel % 64)

/-- MX_OWN (R292). -/
def State.mxOwn (s : State) (c : Nat) : Word :=
  match (s.core c).selected with
  | none => 0
  | some x =>
    let k := s.core c
    BitVec.ofNat 32 ((if mapHas k.claims x then 2 ^ 31 else 0)
      + (match mapFind k.owners x with | some (asid, _) => 2 ^ 30 + asid.toNat | none => 0)
      + (s.entryState c x).code * 2 ^ 28)

/-- MX_WG (R292). -/
def State.mxWg (s : State) (c : Nat) : Word :=
  match (s.core c).selected with
  | none => 0
  | some x => match mapFind (s.core c).owners x with | some (_, tag) => Config.wgTag tag.toNat | none => 0

/-- MX_CMD FREE (R288): the selected entry's content owner := nobody. -/
def State.mxFree (s : State) (c : Nat) : State :=
  match (s.core c).selected with
  | none => s
  | some x => s.onCore c (fun k => { k with owners := mapErase k.owners x })

/-- MX_CMD ADOPT (R288): the selected entry's content owner := the claim holder. -/
def State.mxAdopt (s : State) (c : Nat) : State :=
  match (s.core c).selected with
  | none => s
  | some x =>
    match mapFind (s.core c).claims x with
    | none => s.onCore c (fun k => { k with owners := mapErase k.owners x })
    | some g =>
      match mapFind s.wgs g with
      | none => s
      | some w => s.onCore c (fun k => { k with owners := mapInsert k.owners x w.ident })

/-- Claims of a workgroup on a core given up; content owners unchanged (R288). -/
def Core.dropClaims (k : Core) (g : Nat) : Core := { k with claims := mapFilter (fun _ h => h != g) k.claims }
/-- Content ownership of a workgroup ended (R288). -/
def Core.dropOwner (k : Core) (id : BitVec 16 × Word) : Core := { k with owners := mapFilter (fun _ h => h != id) k.owners }

end Sys2Proof.Machine
end

