-- ==== Sys2Proof/Machine/Slots.lean ====
section
/-! DEFINITION. Operand slots and accumulator tiles (R283 to R286): where their bytes lie, half-rows with their tags, tile words,
and who may reach them through space 3. -/

namespace Sys2Proof.Machine

/-- The offset within a core of a byte of a slot or a tile: lane group·2^19, tiles from 2^18 on. -/
def mxOff (lgrp : Nat) (tile : Bool) (index off : Nat) : Nat :=
  lgrp * 2 ^ 19 + (if tile then 2 ^ 18 + index * 16384 else index * 8192) + off
/-- The key of such a byte. -/
def mxKey (core off : Nat) : Nat := core * 2 ^ 21 + off
/-- Whether an offset lies in a tile. -/
def mxTile (off : Nat) : Bool := 2 ^ 18 ≤ off % 2 ^ 19
/-- The entry that an offset lies in. -/
def mxEntryAt (off : Nat) : Nat :=
  mxEntry (off / 2 ^ 19) (mxTile off) (if mxTile off then off % 2 ^ 18 / 16384 else off % 2 ^ 18 / 8192)

def State.mxByte (s : State) (core off : Nat) : Byte :=
  mapGetD (if mxTile off then s.tileMem else s.slotMem) (mxKey core off) 0
def State.setMxByte (s : State) (core off : Nat) (b : Byte) : State :=
  if mxTile off then { s with tileMem := mapPutD s.tileMem (mxKey core off) b 0 }
  else { s with slotMem := mapPutD s.slotMem (mxKey core off) b 0 }
/-- Whether the word at an offset is poisoned (R380). -/
def State.mxPoisoned (s : State) (core off : Nat) : Bool := mapGetD s.slotPoison (mxKey core off / 4) false
/-- A word of a slot or a tile. -/
def State.mxWord (s : State) (core off : Nat) : Word :=
  BitVec.ofNat 32 (leNat ((List.range 4).map (fun i => s.mxByte core (off + i))))
/-- A word written whole, which clears its poison (R381). -/
def State.setMxWord (s : State) (core off : Nat) (w : Word) (poison : Bool) : State :=
  let s := ((leBytes 4 w.toNat).zipIdx).foldl (fun s bi => s.setMxByte core (off + bi.2) bi.1) s
  { s with slotPoison := mapPutD s.slotPoison (mxKey core off / 4) poison false }
/-- The tag of the half-row of a slot that holds an offset (R283). -/
def State.mxTag (s : State) (core off : Nat) : Tag := mapGetD s.slotTag (mxKey core off / 64) 0
def State.setMxTag (s : State) (core off : Nat) (t : Tag) : State :=
  if mxTile off then s else { s with slotTag := mapPutD s.slotTag (mxKey core off / 64) t 0 }

/-- A half-row of a slot, with its tag, from one point (R296). -/
def State.mxBlk (s : State) (core off : Nat) : BlkAns :=
  { blk := blkOfBytes ((List.range 64).map (fun i => s.mxByte core (off + i))), tag := s.mxTag core off
    poison := BitVec.ofNat 16 ((List.range 16).foldl (fun m i => if s.mxPoisoned core (off + 4 * i) then m + 2 ^ i else m) 0)
    perm := ⟨true, true, false⟩, dpa := 0, status := .ok }

/-- Bytes and a tag written to 64 bytes of a slot or a tile; a tile takes no tag (R286). -/
def State.mxPut (s : State) (core off : Nat) (blk : Blk) (mask : BMask) (tag : Option Tag) (poison : BitVec 16) : State :=
  let s := (List.range 64).foldl (fun s i => if mask.getLsbD i then s.setMxByte core (off + i) (blk.extractLsb' (8 * i) 8) else s) s
  let s := (List.range 16).foldl (fun s i =>
    let part := mask.toNat / 2 ^ (4 * i) % 16
    if poison.getLsbD i && part != 0 then { s with slotPoison := mapPutD s.slotPoison (mxKey core off / 4 + i) true false }
    else if part == 15 then { s with slotPoison := mapErase s.slotPoison (mxKey core off / 4 + i) } else s) s
  match tag with
  | some t => s.setMxTag core off t
  | none => s

/-- Whether an access of an ASID reaches an entry through space 3 (R286): it is claimed and its content belongs to a workgroup of
the ASID; above USER level ownership is not checked. -/
def State.mxReach (s : State) (core off : Nat) (asid : BitVec 16) (priv : Bool) : Bool :=
  let x := mxEntryAt off
  let c := s.core core
  priv || (mapHas c.claims x && (match mapFind c.owners x with | some own => own.1 == asid | none => false))

/-- A word of a tile (R285). -/
def State.tileWord (s : State) (core lgrp tile i j : Nat) : Word := s.mxWord core (mxOff lgrp true tile (256 * i + 4 * j))
def State.setTileWord (s : State) (core lgrp tile i j : Nat) (w : Word) (poison : Bool) : State :=
  s.setMxWord core (mxOff lgrp true tile (256 * i + 4 * j)) w poison

end Sys2Proof.Machine
end

