-- ==== Sys2Proof/Machine/CoreSteps.lean ====
section
/-! DEFINITION. The steps of a core's memory path: responses to the coalescing window (R228), confirmed stores and the drain of
the store buffer (R230), atomics at the L1 (R335), the banks of the local store (R225, R226), answers of atomics and of peers. -/

namespace Sys2Proof.Machine

/-! Responses of blocks (R223, R228, R234, R254). -/

/-- A line that a core's L1 may keep from an answer (R232, R234): its block has not been drained, dropped or invalidated since it was asked. -/
def State.mayKeep (s : State) (core : Nat) (q : ReadReq) (a : BlkAns) : Bool :=
  q.l1 && a.status == .ok && eaHeap q.va != 13 && (s.core core).current q.asid q.va q.epoch && (s.l1Find core q.asid q.va).isNone

/-- Values and failures of the waiting threads of a block, from what came back. -/
def loadAnswers (e : WinEntry) (base : DWord) (a : BlkAns) : Map (BitVec 128) × List (Nat × Nat) :=
  match e.blks.find? (fun b => b.base == base) with
  | none => ([], [])
  | some b =>
    (threadsOf (b.mask &&& e.left)).foldl (fun acc t =>
      match mapFind e.thr t with
      | none => acc
      | some r =>
        match a.status with
        | .bad c => (acc.1, acc.2 ++ [(t, c.toNat)])
        | _ =>
          match loadValue e.instr r a with
          | .ok v => (mapInsert acc.1 t v, acc.2)
          | .error c => (acc.1, acc.2 ++ [(t, c)])) ([], [])

/-- A block that came for a request, put into the L1's place that the request was given (R116, R234). -/
def State.keepFill (s : State) (core : Nat) (q : ReadReq) (a : BlkAns) (victim : Option Nat) : State :=
  if s.mayKeep core q a then s.keepL1 core victim { lineOf q.asid q.va a q.pol s.clk with place := q.place } else s

/-- A block that a load asked for reaches the window: the bytes of the store buffer lie over it (R230). -/
def State.loadBlock (s : State) (core : Nat) (id : Nat) (q : ReadReq) (a : BlkAns) (victim : Option Nat) : State :=
  let a' := s.readAs q.asid (a.ovl q.ovl q.overM q.overT)
  let s := (s.readDone q.asid a).keepFill core q a victim
  match mapFind s.win id with
  | none => s
  | some e =>
    let r := loadAnswers e q.va a'
    s.answerBlk id q.va r.1 r.2

/-- Whether a message is an answer to loads that has not faulted. -/
def loadMsg (s : State) (m : Msg) : Option (Sum (ReadReq × BlkAns) LsAns) :=
  match m with
  | .data q a => (match q.asker with
    | .entry _ => if q.kind == .load && !(match a.status with | .fault _ => true | _ => false) then some (.inl (q, a)) else none
    | .prefetch => if (match a.status with | .fault _ => true | _ => false) then none else some (.inl (q, a))
    | _ => none)
  | .lsAns a => (match a.who with
    | .entry id => (match mapFind s.win id with
      | some e => if memClass e.instr == .load then some (.inr a) else none
      | none => some (.inr a))
    | .peer _ id => (match mapFind s.win id with
      | some e => if memClass e.instr == .load then some (.inr a) else none
      | none => some (.inr a))
    | .engine _ _ _ _ => none
    | .put _ _ _ _ => none)
  | _ => none

/-- The entry behind a local-store answer. -/
def LsWho.entryId (w : LsWho) : Nat :=
  match w with
  | .entry id => id
  | .peer _ id => id
  | .engine _ op _ _ => op
  | .put _ op _ _ => op

/-- LOAD_RESPONSE (R228): the first answer to a load in a core's inbox; a prefetched block is only kept. -/
def execLoadResponse (core : Nat) (victim : Option Nat) (s : State) : Out :=
  .next (match s.receive (.core core) (loadMsg s) with
    | none => s
    | some (.inr a, _, s) => s.answerBlk a.who.entryId a.va a.vals a.fails
    | some (.inl (q, a), _, s) =>
      match q.asker with
      | .entry id => s.loadBlock core id q a victim
      | _ => s.keepFill core q a victim)

/-! Stores (R230). -/

/-- Whether a confirmed block has a place in its lane group's store buffer. -/
def State.sbRoom (s : State) (core lgrp : Nat) (asid : BitVec 16) (va : DWord) : Bool :=
  let sb := s.sbOf core lgrp
  sb.length < 64 || (match sb.getLast? with | some x => x.asid == asid && x.va == va | none => false)

/-- A confirmed block of a window entry put into the store buffer: merged with the youngest entry of its block, or as a new entry,
numbered by the oldest store in it. -/
def State.sbPut (s : State) (core lgrp id : Nat) (asid : BitVec 16) (va : DWord) (dpa : Nat) (blk : Blk) (mask : BMask)
    (tag : Option Tag) : State :=
  let sb := s.sbOf core lgrp
  let new : SbEntry := { seq := id, asid := asid, va := va, dpa := dpa, blk := blk, mask := mask, tag := tag }
  match sb.getLast? with
  | some x =>
    if x.asid == asid && x.va == va then
      s.setSb core lgrp (sb.dropLast ++ [{ x with
        seq := min x.seq id, blk := blkMerge x.blk blk mask, mask := x.mask ||| mask, tag := tag.orElse (fun _ => x.tag) }])
    else s.setSb core lgrp (sb ++ [new])
  | none => s.setSb core lgrp [new]

/-- The tag that a thread of an instruction sends (R258); 0 for an instruction that sends none. -/
def tagOf (i : Instr) (r : ThreadReq) : Tag :=
  match i with
  | .tagwr _ => r.data.extractLsb' 0 16
  | .sttg _ => r.data2.extractLsb' 0 16
  | _ => 0

/-- The threads of a mask that send a nonzero tag to host memory (R68, R258). -/
def tagsHost (i : Instr) (thr : Map ThreadReq) (va : DWord) (m : TMask) : TMask :=
  maskOf (fun t => m.getLsbD t && eaHeap va == 13 && (match mapFind thr t with | some r => tagOf i r != 0 | none => false))

/-- A store's block confirmed, or failed on an allowance object, on a tag for host memory or at the response (R254, R258): a thread
that sends a nonzero tag to host memory fails, the others store (log 92). -/
def State.confirmStore (s : State) (core id : Nat) (q : ReadReq) (a : BlkAns) : Option State :=
  match mapFind s.win id with
  | none => some s
  | some e =>
    match e.blks.find? (fun b => b.base == q.va && b.stage == .sent) with
    | none => some s
    | some b =>
      let m := b.mask &&& e.left
      let all (c : Nat) : List (Nat × Nat) := (threadsOf m).map (fun t => (t, c))
      let bad := tagsHost e.instr e.thr q.va m
      let fails := (threadsOf bad).map (fun t => (t, causeFormat))
      let (blk, mask, tag) := storeBytesOf e.instr e.thr (m &&& ~~~bad)
      match a.status with
      | .bad c => some (s.answerBlk id q.va [] (all c.toNat))
      | _ =>
        if a.tag == 0xA000 then some (s.answerBlk id q.va [] (all causeAllowObject))
        else if bad == m then some (s.answerBlk id q.va [] fails)
        else if s.sbRoom core (slotLgrp e.sheaf) q.asid q.va then
          some ((s.sbPut core (slotLgrp e.sheaf) id q.asid q.va a.dpa blk mask tag).answerBlk id q.va [] fails)
        else none

/-- STORE_CONFIRM (R230): the first confirmation in a core's inbox whose block has a place. -/
def execStoreConfirm (core : Nat) (s : State) : Out :=
  .next (s.firstEnabled (fun s p =>
    match p.msg with
    | .data q a => (match q.asker with
      | .entry id => if p.dst == .core core && q.kind == .store && !(match a.status with | .fault _ => true | _ => false)
          then s.confirmStore core id q a else none
      | _ => none)
    | _ => none))

/-- STORE_BUFFER_DRAIN (R230): the oldest entry of a lane group's buffer. -/
def execStoreBufferDrain (core lgrp : Nat) (s : State) : Out :=
  .next (match s.sbOf core lgrp with
    | [] => s
    | x :: _ => s.drain core lgrp x)

/-! Atomics at the L1 (R335, R336). -/

/-- An L1-point atomic of a block's waiting threads applied to its line, which is in the atomic state from then on, in the
permanent 1 MiB (R115). -/
def State.atomicAtLine (s : State) (core id : Nat) (e : WinEntry) (l : Line) : State :=
  let m := match e.blks.find? (fun b => b.base == l.va && b.stage == .sent) with | some b => b.mask &&& e.left | none => 0
  let items := atomItems e.thr m
  let s := if l.place == 0 then s else s.makeRoom core 0 none
  if l.tag == 0xA000 then s.answerBlk id l.va [] (items.map (fun x => (x.thread, causeAllowObject)))
  else
    let bad := items.filter (fun x => l.poison &&& atomWords e.instr x != 0)
    let good := items.filter (fun x => l.poison &&& atomWords e.instr x == 0)
    let (olds, blk, mask) := atomApply (.instr e.instr) (s.readAs l.asid l.ans).blk good
    let s := s.readDone l.asid l.ans
    let l' := { l with
      blk := blk
      place := 0
      atomic := true
      dirty := l.dirty ||| mask
      lastAtomic := s.clk
      used := s.clk + 1 }
    let s := s.onCore core (fun c => { c with l1 := c.l1.map (fun x => if x.asid == l.asid && x.va == l.va then l' else x) })
    s.answerBlk id l.va (olds.map (fun o => (o.1, o.2.setWidth 128))) (bad.map (fun x => (x.thread, causeDataError)))

/-- What an L1-point atomic does when its line has come: the store buffer's entries for the block drain first; the line that
came is kept if nothing has changed since it was asked, and asked again otherwise. None while no place can be made for it. -/
def State.l1Atomic (s : State) (core id : Nat) (q : ReadReq) (a : BlkAns) (victim : Option Nat) : Option State :=
  match mapFind s.win id with
  | none => some s
  | some e =>
    let all (c : Nat) : State :=
      s.answerBlk id q.va [] (match e.blks.find? (fun b => b.base == q.va) with
        | some b => (threadsOf (b.mask &&& e.left)).map (fun t => (t, c))
        | none => [])
    match a.status with
    | .bad c => some (all c.toNat)
    | _ =>
      let lgrp := slotLgrp e.sheaf
      let fresh := s.mayKeep core { q with l1 := true } a && (s.sbBytes core lgrp q.asid q.va).2.1 == 0
      let s1 := s.drainBlock core lgrp q.asid q.va
      match s1.l1Find core q.asid q.va with
      | some l =>
        if l.perm.r && l.perm.w then some (s1.atomicAtLine core id e l) else some (s1.dropL1 core q.asid q.va |>.deliver (.core core) (.data q a))
      | none =>
        if fresh then
          let s2 := s1.keepL1 core victim (lineOf q.asid q.va a q.pol s.clk)
          (s2.l1Find core q.asid q.va).map (fun l => s2.atomicAtLine core id e l)
        else
          some (s1.send (.core core) (.slice (coreDie core) (sliceOf q.va)) 1 (s.partOf q.asid)
            (.read { q with epoch := (s1.core core).epoch }))

/-- L1_ATOMIC (R335): the first line that has come for an L1-point atomic of a core. -/
def execL1Atomic (core : Nat) (victim : Option Nat) (s : State) : Out :=
  .next (s.firstEnabled (fun s p =>
    match p.msg with
    | .data q a => (match q.asker with
      | .entry id => if p.dst == .core core && q.kind == .atomic && !(match a.status with | .fault _ => true | _ => false)
          then s.l1Atomic core id q a victim else none
      | _ => none)
    | _ => none))

/-- ATOMIC_LINE_IDLE_WRITE_THROUGH (R335): a line with no atomic for 4,096 cycles. -/
def execAtomicLineIdleWriteThrough (core line : Nat) (s : State) : Out :=
  .next (match (s.core core).l1[line]? with
    | none => s
    | some l => if l.atomic && l.dirty != 0 && l.lastAtomic + 4096 ≤ s.clk then s.writeAtomicLine core l else s)

/-- ATOMIC_RESPONSE (R336): the first answer of an atomic in a core's inbox; an atomic of the local store or a barrier arrival
is answered by its bank. -/
def execAtomicResponse (core : Nat) (s : State) : Out :=
  .next (s.firstEnabled (fun s p =>
    if p.dst != .core core then none
    else match p.msg with
      | .atomAns a => (match a.to_.asker with
        | .entry id =>
          (match a.ans.status with
          | .fault _ => none
          | .bad c => some (s.answerBlk id a.va [] (a.to_.items.map (fun x => (x.thread, c.toNat))))
          | .ok => some (s.answerBlk id a.va (a.olds.map (fun o => (o.1, o.2.setWidth 128))) []))
        | _ => none)
      | .lsAns a => (match a.who with
        | .engine _ _ _ _ => none
        | .put _ _ _ _ => none
        | w => (match mapFind s.win w.entryId with
          | some e => if memClass e.instr == .atomic && e.instr.answers then some (s.answerBlk w.entryId a.va a.vals a.fails) else none
          | none => none))
      | _ => none))

/-- REMOTE_STORE_ACK (R226): the first acknowledgement of a space-2 or space-5 store or reduction at its core. -/
def execRemoteStoreAck (s : State) : Out :=
  .next (s.firstEnabled (fun s p =>
    match p.dst, p.msg with
    | .core core, .lsAns a => (match a.who with
      | .engine _ _ _ _ => none
      | .put _ _ _ _ => none
      | w => (match mapFind s.win w.entryId with
        | some e =>
          if memClass e.instr == .load || e.instr.answers then none
          else
            let s := s.onCore core (fun c => { c with peerOut := c.peerOut.erase w.entryId })
            some (s.answerBlk w.entryId a.va a.vals a.fails)
        | none => none))
    | _, _ => none))

/-! Local store (R225, R226). -/

/-- The bank of an offset within its layer. -/
def bankOf (off : Nat) : Nat := (off % 2 ^ 23 / 64 ^^^ off % 2 ^ 23 / 2048) % 32 + (if off < 2 ^ 23 then 0 else 32)

/-- Whether one region of a core holds two offsets for a workgroup of an ASID; once the workgroup has halted for a vacate, writes
of every other issuer are refused (R226, R272, R376). -/
def State.regionOk (s : State) (core lo hi : Nat) (asid : BitVec 16) (write : Bool) (issuer : Option Nat) : Bool :=
  s.wgs.any (fun g =>
    let w := g.2
    let halted := match w.stage with
      | .vacating _ => (s.sheaves.all (fun e => e.2.wg != g.1 || (e.2.halted && e.2.chain == 0) || e.2.ended))
      | .saving _ => true
      | _ => false
    w.core == core && w.asid == asid && w.stage != .saved && w.lsBase ≤ lo && hi < w.lsBase + w.units * 65536
      && !(write && halted && issuer != some g.1))

/-- What an access does to a block of local store, and its answer. -/
def State.lsPerform (s : State) (q : LsReq) : State × LsAns :=
  match q.act with
  | .lane i thr =>
    let r := s.lsLane q.core q.base i thr
    (r.1, { who := q.who, va := q.va, vals := r.2.1, blk := BlkAns.done, fails := r.2.2 })
  | .read =>
    let b := if eaSpace q.va == 3 then s.mxBlk q.core q.base else s.lsBlk q.core q.base
    (s, { who := q.who, va := q.va, vals := [], blk := b, fails := [] })
  | .write blk mask tag poison =>
    let s := if eaSpace q.va == 3 then s.mxPut q.core q.base blk mask tag poison else s.lsPut q.core q.base blk mask tag poison
    (s, { who := q.who, va := q.va, vals := [], blk := BlkAns.done, fails := [] })

/-- Whether one waiting request comes before another at its bank: the longest wait, lane requests, the lower lane. -/
def LsReq.first (a b : LsReq) : Bool :=
  let eng (x : LsReq) : Bool := match x.who with | .engine _ _ _ _ => true | .put _ _ _ _ => true | _ => false
  if a.since != b.since then a.since < b.since
  else if eng a != eng b then !eng a
  else a.lane < b.lane

/-- A request answered: a lane's store at once, other answers through the core's inbox. -/
def State.lsAnswer (s : State) (q : LsReq) (a : LsAns) : State :=
  match q.act, q.who with
  | .lane i _, .entry id =>
    if memClass i == .store || !i.answers then s.answerBlk id q.va a.vals a.fails else s.deliver (.core q.core) (.lsAns a)
  | _, .peer core _ => s.send (.core q.core) (.core core) 1 (s.partOf q.asid) (.lsAns a)
  | _, .engine core _ _ _ => s.send (.core q.core) (.core core) 2 (s.partOf q.asid) (.lsAns a)
  | _, .put core _ _ _ => s.send (.core q.core) (.core core) 2 (s.partOf q.asid) (.lsAns a)
  | _, .entry _ => s.deliver (.core q.core) (.lsAns a)

/-- Whether a request changes its block. -/
def LsReq.writes (q : LsReq) : Bool :=
  match q.act with
  | .lane i _ => memClass i != .load
  | .read => false
  | .write _ _ _ _ => true

/-- The threads of a request. -/
def LsReq.threads (q : LsReq) : List Nat := match q.act with | .lane _ thr => thr.map (fun x => x.1) | _ => []

/-- The workgroup behind a request. -/
def State.lsIssuer (s : State) (q : LsReq) : Option Nat :=
  match q.who with
  | .entry id => ((mapFind s.win id).bind (fun e => s.sheaf e.sheaf)).map (fun sh => sh.wg)
  | .peer _ id => ((mapFind s.win id).bind (fun e => s.sheaf e.sheaf)).map (fun sh => sh.wg)
  | .engine core op _ _ => ((s.core core).eng.find? (fun x => x.id == op)).map (fun x => x.wg)
  | .put core op _ _ => ((s.core core).eng.find? (fun x => x.id == op)).map (fun x => x.wg)

/-- Whether a request reaches what it asks for (R226, R272, R286). -/
def State.lsAdmits (s : State) (q : LsReq) : Bool :=
  if eaSpace q.va == 3 then s.mxReach q.core q.base q.asid q.priv
  else
    let span := q.span.getD (q.base, q.base + 63)
    s.regionOk q.core (min span.1 q.base) (max span.2 (q.base + 63)) q.asid q.writes (s.lsIssuer q)

/-- An engine's block write that a core has performed is counted at its barrier object (R273, R408). -/
def State.lsCount (s : State) (q : LsReq) : State :=
  match q.who with
  | .put c op item bytes => (match (s.core c).eng.find? (fun x => x.id == op) with
    | some x => s.boArrive x item bytes (.core q.core) q.core
    | none => s)
  | _ => s

/-- A request performed where it reaches what it asks for; otherwise it fails with ADDRESS. -/
def State.lsServe (s : State) (q : LsReq) : State :=
  if s.lsAdmits q then
    (let r := s.lsPerform q; (r.1.lsCount q).lsAnswer q r.2)
  else
    s.lsAnswer q { who := q.who, va := q.va, vals := [], blk := BlkAns.failed (.bad (BitVec.ofNat 8 causeAddress)),
                   fails := q.threads.map (fun t => (t, causeAddress)) }

/-- LS_BANK_ACCEPT (R225, R226): the request that a bank of a core accepts next, one in a cycle; one that names the core as a peer is checked
there. -/
def execLsBankAccept (core bank : Nat) (s : State) : Out :=
  .next (if s.clk < mapGetD (s.core core).bankAt bank 0 then s
    else match (s.core core).bankQ.filter (fun q => bankOf q.base == bank) with
    | [] => s
    | q :: rest =>
      let q := rest.foldl (fun b x => if LsReq.first x b then x else b) q
      let s := s.onCore core (fun c => { c with bankQ := c.bankQ.erase q, bankAt := mapInsert c.bankAt bank (s.clk + 1) })
      if eaSpace q.va == 1 then (let r := s.lsPerform q; (r.1.lsCount q).lsAnswer q r.2) else s.lsServe q)

/-- PEER_LS_ACCESS (R225, R226, R286): an access from another core, or of an engine through space 2, comes to its bank, where it
waits with the others; one of an engine to slots and tiles, which have no banks, is performed. -/
def execPeerLsAccess (core : Nat) (s : State) : Out :=
  .next (match s.receive (.core core) (fun m => match m with | .ls q => some q | _ => none) with
    | none => s
    | some (q, _, s) =>
      if eaSpace q.va == 3 then s.lsServe q
      else s.onCore core (fun c => { c with bankQ := c.bankQ ++ [{ q with since := s.clk }] }))

end Sys2Proof.Machine
end

