-- ==== Sys2Proof/Machine/Issue.lean ====
section
/-! DEFINITION. What a sheaf issues next: the words at its pc (R120, R124), the order in which a lane chooses among its sheaves
(R157, R158), breakpoints and STEP (R384, R385), and words that do not decode (R142). -/

namespace Sys2Proof.Machine

/-- The doubleword at an address in a fetch buffer (R120). -/
def fetchWord (ls : List FetchLine) (a : DWord) : Option DWord :=
  (ls.find? (fun l => l.va == lineAt a)).map (fun l =>
    let off := a.toNat % 128
    if off < 64 then l.lo.extractLsb' (8 * off) 64 else l.hi.extractLsb' (8 * (off - 64)) 64)

/-- The bytes of the words at an address that the fetch buffer holds: the base word and the word after it. -/
def fetchBytes (ls : List FetchLine) (a : DWord) : List Byte :=
  match fetchWord ls a with
  | none => []
  | some w =>
    bytesOfDword w ++ (match fetchWord ls (a + 8) with
      | some x => bytesOfDword x
      | none => [])

/-- Whether the whole instruction at an address is in the fetch buffer; the words decide its length (R125). -/
def fetched (ls : List FetchLine) (a : DWord) : Bool :=
  match decodeBytes (fetchBytes ls a) with
  | .error .short => false
  | _ => true

/-- The line that a sheaf needs and its buffer lacks: that of its pc, or the next one where the instruction crosses. -/
def neededLine (ls : List FetchLine) (a : DWord) : DWord :=
  match fetchWord ls a with
  | none => lineAt a
  | some _ => lineAt (a + 8)

/-! Breakpoints and STEP (R384, R385). -/

/-- The addresses that a chain starting at `a` would issue, up to its first instruction without HD (R160: at most eight); it ends
where no words are known. -/
def chainAddrs (ls : List FetchLine) : Nat → DWord → List DWord
  | 0, _ => []
  | n + 1, a =>
    match decodeBytes (fetchBytes ls a) with
    | .error _ => [a]
    | .ok (i, _) =>
      let hd := match i.form with
        | some (o, _) => o.hd
        | none => false
      if hd then a :: chainAddrs ls n (a + BitVec.ofNat 64 i.size) else [a]

/-- Whether breakpoints and STEP of a core apply to a sheaf about to start a chain. -/
def State.debugged (s : State) (k : Nat) (sh : Sheaf) : Bool :=
  let c := s.core (slotCore k)
  match mapFind s.wgs sh.wg with
  | some w => sh.chain == 0 && w.asid == c.dbgAsid && (c.dbgStep || c.bp.any (fun b => b.getLsbD 0))
  | none => false

/-- The breakpoint register that matches a chain (R384, R373): none of those that have fired, and none that names an instruction executed
again or replayed. -/
def bpMatch (bp : List DWord) (fired : List Nat) (again : Option DWord) (as : List DWord) : Option Nat :=
  (bp.zipIdx.find? (fun b => b.1.getLsbD 0 && !fired.contains b.2 && again != some (b.1 &&& ~~~(7#64)) && as.contains (b.1 &&& ~~~(7#64)))).map
    (fun b => b.2)

/-! A word that decodes to no instruction (R139, R141, R142). -/

/-- PRIVILEGE at step 2 or ILLEGAL_INSTRUCTION at step 3 for a word with an assigned opcode. -/
def State.badWord (s : State) (k : Nat) (op : BitVec 8) : State :=
  match s.sheaf k with
  | none => s
  | some sh0 =>
    match mapFind s.wgs sh0.wg, fetchWord sh0.fbuf sh0.pc with
    | some g, some w =>
      if !sh0.issues then s
      else
        let sh := sh0.atHead
        let csr := if w.extractLsb' 32 2 == 3 then (w.extractLsb' 24 8).toNat else 0
        match decodeFails sh.level op false with
        | some (cause, step) => (s.setSheaf k sh).issueTrap k (.unassignedOpcode w) cause (decodeInfo op cause step csr) sh.m
            (trapExec g.nReg sh (w.getLsbD 62) (w.extractLsb' 54 8))
        | none => s
    | _, _ => s

/-! The choice of a sheaf (R157, R158). -/

/-- Whether a sheaf may be chosen: it issues, its workgroup runs, its words or a trap in their place are there, no response-time trap or replay
is owed. -/
def State.choosable (s : State) (sh : Sheaf) : Bool :=
  sh.issues && (sh.owes || fetched sh.fbuf sh.pc)
    && (match mapFind s.wgs sh.wg with | some w => w.stage == .running || (match w.stage with | .vacating _ => true | _ => false) | none => false)
    && (sh.force.isSome || !sh.respTraps.any (fun r => sh.level.code ≤ r.level.code))

/-- The base priority of a sheaf's node (R92, R158). -/
def State.nodePrio (s : State) (sh : Sheaf) : Nat :=
  match mapFind s.wgs sh.wg with
  | some w => match mapFind s.nodes w.node with
    | some n => recNat n.record 19 1 % 8
    | none => 0
  | none => 0

/-- The order of R158 between two sheaves of a lane; sheaves of different lanes go by their last issue. -/
def State.issuesBefore (s : State) (a b : Nat × Sheaf) : Bool :=
  let aged (x : Nat × Sheaf) : Bool := x.2.readyAt + 64 ≤ s.clk
  let chain (x : Nat × Sheaf) : Bool := x.2.chain != 0
  if a.1 / 4 != b.1 / 4 then (if a.2.lastOp != b.2.lastOp then a.2.lastOp < b.2.lastOp else a.1 < b.1)
  else if chain a != chain b then chain a
  else if aged a != aged b then aged a
  else if aged a then (if a.2.readyAt != b.2.readyAt then a.2.readyAt < b.2.readyAt else a.1 < b.1)
  else if a.2.yielded != b.2.yielded then b.2.yielded
  else if s.nodePrio a.2 != s.nodePrio b.2 then s.nodePrio b.2 < s.nodePrio a.2
  else if a.2.lastOp != b.2.lastOp then a.2.lastOp < b.2.lastOp
  else a.1 < b.1

/-- Insertion into an ordered list. -/
def insertBy {α : Type} (le : α → α → Bool) (x : α) : List α → List α
  | [] => [x]
  | y :: rest => if le x y then x :: y :: rest else y :: insertBy le x rest

/-- The sheaves that may issue, best first; a lane whose chain is open offers only that sheaf (R158). -/
def State.offers (s : State) : List Nat :=
  let xs := s.sheaves.filter (fun e => s.choosable e.2
    && !(s.sheaves.any (fun o => o.1 != e.1 && o.1 / 4 == e.1 / 4 && o.2.chain != 0)))
  (xs.foldl (fun acc x => insertBy (fun a b => s.issuesBefore a b) x acc) []).map (fun x => x.1)

/-- What comes to a sheaf at a fixed cycle: the end of TRET's read of the frame (R372), pending values (R156). -/
def Sheaf.timed (sh : Sheaf) (clk : Nat) : Sheaf :=
  let sh := sh.clearPend (sh.pendDue clk)
  match sh.wait with
  | .frame till => if till ≤ clk then { sh with wait := .none } else sh
  | _ => sh

/-- Every sheaf's values that are due; a sheaf that had ended leaves its slot with the last (R185). -/
def State.frameDone (s : State) : State :=
  s.sheaves.foldl (fun s e => if (e.2.timed s.clk) == e.2 then s else (s.setSheaf e.1 (e.2.timed s.clk)).reap e.1) s

/-! Reaching a slot from outside: the program that the fetch finds next. -/

/-- The slot of the probe workgroup that `withFetchWord` places on a machine without a chosen sheaf: core 0 of die 0, lane 0. -/
def probeSlot : Nat := 0
/-- The workgroup number of the probe. -/
def probeWg : Nat := 0

/-- A sheaf as placement leaves it (R37). -/
def Sheaf.placed (wg idx : Nat) (entry : DWord) (asid : BitVec 16) (level : Level) (clk : Nat) : Sheaf :=
  { wg := wg, idx := idx, pc := entry, m := 0xFFFFFFFF, live := 0xFFFFFFFF, stack := [], spilled := [], regs := [], rpoison := [],
    cls := [], pend := 0, pendTill := [], cCopy := 0, cMatrix := 0, cCode := 0, cRemote := 0, valid0 := false, valid1 := false, latch0 := [],
    latch1 := [], errCopy := none, errMatrix := none, chain := 0, conv := 0, level := level,
    trap := { cause := 0, pc := 0, npc := 0, mask := 0, rmask := 0, amask := 0, info := 0 }, handler := none, ctxAsid := asid,
    wait := .none, parks := [], replays := [], respTraps := [], owed := none, force := none, fbuf := [], fetching := none, seqLine := none, readyAt := clk,
    lastOp := 0, yielded := false, bpSkip := [], fresh := true, halted := false, stopped := false, ended := false }

/-- The probe workgroup: one sheaf of 256 registers and one unit of local store. -/
def probeWorkgroup : Workgroup :=
  { node := 0, lin := 0, tag := 0, asid := 0, nSheaf := 1, nReg := 256, units := 1, core := 0,
    parts := [{ lgrp := 0, base := 0, count := 1, first := 0 }], lsBase := 0,
    bars := List.replicate 16 { expected := 1, arrived := 0, phase := false, byLive := true }, repro := false, seed := 0,
    stage := .running, placedAt := 0, suspDie := none, asked := false, claims := [], saved := [], kept := Saved.empty }

/-- The fetch buffer with one instruction's words at `pc`: the line of the pc and the one after it. -/
def probeLines (pc : DWord) (words : Nat) : List FetchLine :=
  let line := lineAt pc
  let v := words * 2 ^ (8 * (pc.toNat % 128))
  [{ va := line, lo := BitVec.ofNat 512 v, hi := BitVec.ofNat 512 (v / 2 ^ 512) },
   { va := lineAt (pc + 128), lo := BitVec.ofNat 512 (v / 2 ^ 1024), hi := BitVec.ofNat 512 (v / 2 ^ 1536) }]

end Sys2Proof.Machine
end

