-- ==== Sys2Proof/Machine/HomeSteps.lean ====
section
/-! DEFINITION. The steps of the homes: reads, writes and atomics in coherence order (R236, R324, R340, R342), walks and confirmed
faults (R242 to R245, R422), the completions of the host port and the expanders (R337, R383, R395, R399). -/

namespace Sys2Proof.Machine

/-! What a message asks of the tables. -/

/-- An access that a home translates. -/
structure HomeAsk where
  asid  : BitVec 16
  va    : DWord
  kind  : AccessKind
  asker : Asker
  core  : Nat
  deriving DecidableEq, Repr

/-- Who stands behind a write, as a translation asks it. -/
def Writer.asker (w : Writer) : Asker × Nat :=
  match w with
  | .engine core op item => (.engine op item 0, core)
  | .through core => (.prefetch, core)
  | _ => (.prefetch, 0)

/-- The access of a message in a home's inbox; none where it needs no translation. -/
def homeAsk (m : Msg) : Option HomeAsk :=
  match m with
  | .homeRead q core => some ⟨q.asid, q.va, q.kind, q.asker, core⟩
  | .homeWrite w => if w.dpa.isSome then none else some ⟨w.asid, w.va, .store, w.writer.asker.1, w.writer.asker.2⟩
  | .homeAtom a => (match a.from_ with | c :: _ => some ⟨a.asid, a.va, .atomic, c.asker, c.core⟩ | [] => none)
  | .al (.take _ t) => some ⟨t.key.asid, t.key.va, .atomic, .entry t.entry, t.core⟩
  | .al (.op i k core entry _ _) =>
    some ⟨k.asid, k.va, (match i with | .alinit _ => AccessKind.store | _ => .atomic), .entry entry, core⟩
  | .al (.give k _ _ (some (core, entry, _))) => some ⟨k.asid, k.va, .atomic, .entry entry, core⟩
  | _ => none

/-- The lookup of an access. -/
def State.ask (s : State) (a : HomeAsk) : Lookup := s.lookup a.asid a.va a.kind (s.askerLevel a.asker a.core)

/-! Answers. -/

/-- The block at a device-physical address as its home answers it. -/
def State.homeAns (s : State) (dpa : Nat) (perm : Perm) : BlkAns :=
  { blk := s.memBlk dpa, tag := s.memTagAt dpa, poison := poisonMask (s.memPoisonAt dpa), perm := perm, dpa := dpa / 64 * 64,
    status := .ok }

/-- MSC_POLICY and WAY_PART of the leaf that maps an address (R238, R240): 1 NORMAL, 2 EVICT_FIRST, 3 RETAIN, 4 BYPASS. -/
def State.mscAttrs (s : State) (asid : BitVec 16) (va : DWord) : Nat × Nat :=
  let leaf : Option DWord := match (mapGetD s.tc (eaHeap va) []).find? (fun t => t.asid == asid && t.va.toNat ≤ va.toNat
      && va.toNat < t.va.toNat + t.size) with
    | some t => some t.entry
    | none => match s.walk asid va with | .leaf e _ => some e | .stop _ _ => none
  match leaf with
  | some e => (e.toNat / 2 ^ 62 + 1, e.toNat / 2 ^ 59 % 8)
  | none => (1, 0)

/-- An access of an ASID at an address passes through the memory-side cache of its home (R238). -/
def State.mscAccess (s : State) (asid : BitVec 16) (va : DWord) (dpa : Nat) : State :=
  s.mscFill dpa asid (s.mscAttrs asid va).1 (s.mscAttrs asid va).2

/-- A read's answer sent back: to the slice whose merge entry waits, or to the core that asked for a confirmation (R230). -/
def State.answerRead (s : State) (h : Nat) (src : Agent) (q : ReadReq) (core : Nat) (a : BlkAns) : State :=
  if q.kind == .store then s.send (.home h) (.core core) (a.prio q.prio) (s.partOf q.asid) (.data q a)
  else s.send (.home h) src (a.prio q.prio) (s.partOf q.asid) (.fill q a)

/-- What the slices of a home's own die show of a pending write once the home has performed it: nothing more, for its bytes and its tag are in
the block (R71, R319); the entry stays for the markers. -/
def State.performed (s : State) (h id : Nat) : State :=
  { s with slices := mapMap (fun k x => if k / 16 == heapDie h then
      { x with pend := x.pend.map (fun p => if p.id == id then { p with mask := 0, tag := none, poison := false } else p) } else x) s.slices }

/-- An access to a block at its home that reads its tag alone: it passes through the memory-side cache and counts (R238, R247, R404). -/
def State.tagAccess (s : State) (asid : BitVec 16) (va : DWord) (dpa : Nat) : State := (s.mscAccess asid va dpa).mediaAccess dpa false

/-- A write performed at its home (R236), or failed on an allowance object, on a tag for host memory (R68, R258). -/
def State.homeStore (s : State) (h : Nat) (src : Agent) (w : WriteReq) (dpa : Nat) : State :=
  let back (s : State) (a : BlkAns) : State := s.send (.home h) src w.prio (s.partOf w.asid) (.writeAck w a)
  let fails (c : Nat) : State := back (s.tagAccess w.asid w.va dpa) (BlkAns.failed (.bad (BitVec.ofNat 8 c)))
  if s.memTagAt dpa == 0xA000 then fails causeAllowObject
  else if h == 13 && (w.tag.getD 0) != 0 then fails causeFormat
  else if (match w.writer with | .cword _ => true | _ => false) && s.memPoisonAt dpa then fails causeDataError
  else
    let s := ((s.mscAccess w.asid w.va dpa).storeBlk dpa w.asid w.blk w.mask w.tag (w.poison != 0)).performed h w.id
    back s (s.homeAns dpa ⟨true, true, false⟩)

/-- Where the answer of an atomic goes: the slice of each contributor (R342). -/
def State.answerAtom (s : State) (h : Nat) (a : AtomReq) (olds : Map DWord) (x : BlkAns) : State :=
  a.from_.foldl (fun s c =>
    s.send (.home h) (.slice c.die (sliceOf a.va)) (x.prio a.prio) (s.partOf a.asid) (.atomAns { to_ := c, asid := a.asid, va := a.va, olds := olds, ans := x })) s

/-- An atomic applied at its home's ALU (R336, R340): nothing on an allowance object or on poisoned data. -/
def State.homeAtomic (s : State) (h : Nat) (a : AtomReq) (dpa : Nat) : State :=
  let x := s.homeAns dpa ⟨true, true, false⟩
  let fails (c : Nat) : State := (s.tagAccess a.asid a.va dpa).answerAtom h a [] (BlkAns.failed (.bad (BitVec.ofNat 8 c)))
  if x.tag == 0xA000 then fails causeAllowObject
  else if (match a.op with | .scad fmt => x.tag.toNat != fmt * 256 + 0x7F | .instr _ => false) then fails causeFormat
  else if x.poison != 0 then fails causeDataError
  else
    let (olds, blk, mask) := atomApply a.op (s.readAs a.asid x).blk a.items
    (((s.readDone a.asid x).mscAccess a.asid a.va dpa).storeBlk dpa a.asid blk mask none a.poison).answerAtom h a olds { x with blk := blk }

/-! Heap 14 lost (R383). -/

/-- The cause of a lost access. -/
def lostStatus : MemStatus := .bad (BitVec.ofNat 8 causeExpanderLost)

/-- The device-physical address of an access at a home: the one that its permission was confirmed with, or what the tables give. -/
def State.accessDpa (s : State) (m : Msg) : Option Nat :=
  match m with
  | .homeWrite w => (match w.dpa with
    | some d => some d
    | none => (homeAsk m).bind (fun a => match s.ask a with | .ok d _ => some d | _ => none))
  | m => (homeAsk m).bind (fun a => match s.ask a with | .ok d _ => some d | _ => none)

/-- An access of heap 14 completed as lost. -/
def State.loseAccess (s : State) (p : Packet) : Option State :=
  let s := s.lostAccess ((s.accessDpa p.msg).getD 0)
  match p.dst, p.msg with
  | .home h, .homeRead q core => some (s.answerRead h p.src q core (BlkAns.failed lostStatus))
  | .home h, .homeWrite w => some (s.send (.home h) p.src w.prio (s.partOf w.asid) (.writeAck w { BlkAns.failed lostStatus with dpa := (s.accessDpa p.msg).getD 0 }))
  | .home h, .homeAtom a => some (s.answerAtom h a [] (BlkAns.failed lostStatus))
  | _, _ => none

/-! Reads, writes, atomics. -/

/-- HOME_READ (R242, R243, R403): the first read at a home that its tables settle; reads of host memory and of the expanders wait
for their completions, reads of a channel that switches its rate for its end. -/
def execHomeRead (s : State) : Out :=
  .next (s.firstEnabled (fun s p =>
    match p.dst, p.msg with
    | .home h, .homeRead q core =>
      (match s.ask ⟨q.asid, q.va, q.kind, q.asker, core⟩ with
      | .miss => none
      | .pending t => some (s.answerRead h p.src q core (BlkAns.failed (.fault t)))
      | .ok dpa perm =>
        if h == 14 && s.heap14Lost then s.loseAccess p
        else if q.kind == .store then some (s.answerRead h p.src q core (s.homeAns dpa perm))
        else if h == 13 || h == 14 || s.channelWaits dpa then none
        else some (((s.mscAccess q.asid q.va dpa).mediaAccess dpa false).answerRead h p.src q core (s.homeAns dpa perm)))
    | _, _ => none))

/-- HOME_WRITE (R236, R403): the first write at a home that its tables settle and whose channel does not switch its rate. -/
def execHomeWrite (s : State) : Out :=
  .next (s.firstEnabled (fun s p =>
    match p.dst, p.msg with
    | .home h, .homeWrite w =>
      let look : Lookup := match w.dpa with
        | some d => .ok d ⟨true, true, false⟩
        | none => s.ask ⟨w.asid, w.va, .store, w.writer.asker.1, w.writer.asker.2⟩
      (match look with
      | .miss => none
      | .pending t => some (s.send (.home h) p.src 0 (s.partOf w.asid) (.writeAck w (BlkAns.failed (.fault t))))
      | .ok dpa _ =>
        if h == 14 then (if s.heap14Lost then s.loseAccess p else none)
        else if s.channelWaits dpa then none
        else some (s.homeStore h p.src w dpa))
    | _, _ => none))

/-- HOME_ATOMIC (R340, R342): the first atomic at a home that its tables settle; the host and the expanders answer through
their completions. -/
def execHomeAtomic (s : State) : Out :=
  .next (s.firstEnabled (fun s p =>
    match p.dst, p.msg with
    | .home h, .homeAtom a =>
      (match (homeAsk p.msg).map (fun x => s.ask x) with
      | some (.pending t) => some (s.answerAtom h a [] (BlkAns.failed (.fault t)))
      | some (.ok dpa _) =>
        if h == 13 then (match a.op with | .scad _ => some (s.answerAtom h a [] (BlkAns.failed (.bad (BitVec.ofNat 8 causeFormat)))) | .instr _ => none)
        else if h == 14 then (if s.heap14Lost then s.loseAccess p else none)
        else if s.channelWaits dpa then none
        else some (s.homeAtomic h a dpa)
      | _ => none)
    | _, _ => none))

/-! Walks and confirmed faults (R242 to R244, R104, R121, R260). -/

/-- Whether some sheaf of a core needs a code line of an ASID to issue. -/
def State.lineNeeded (s : State) (core : Nat) (asid : BitVec 16) (line : DWord) : Bool :=
  s.sheaves.any (fun e => slotCore e.1 == core && s.sheafAsid e.1 == asid && e.2.fetching == some line && !fetched e.2.fbuf e.2.pc
    && neededLine e.2.fbuf e.2.pc == line)

/-- Whether a fault of an access is dropped without a record: a prefetch, a line that no sheaf needs to issue, a CPIN. -/
def State.dropsFault (s : State) (a : HomeAsk) : Bool :=
  match a.asker with
  | .prefetch => true
  | .line => !s.lineNeeded a.core a.asid (lineAt a.va)
  | _ => false

/-- The record of a fault of a completion word (R104). -/
def State.cwordRecord (s : State) (slot : Nat) (asid : BitVec 16) (va : DWord) : FaultRec :=
  { errorRec s 0 va asid 0x02 0 with
    node := slot
    place := 0x40
    lane := 0xFF }

/-- The effective address of a completion word: its lowest byte in its block. -/
def WriteReq.wordVa (w : WriteReq) : DWord :=
  w.va + BitVec.ofNat 64 (((List.range 64).find? (fun i => w.mask.getLsbD i)).getD 0)

/-- The completion word that a message stores, with its address. -/
def cwordOf (m : Msg) : Option (Nat × DWord) :=
  match m with
  | .homeWrite w => (match w.writer with | .cword n => some (n, w.wordVa) | _ => none)
  | _ => none

/-- One walk for the first access at a home that its translation cache does not settle; its reads of table entries count. -/
def State.walkFor (s : State) (h : Nat) (p : Packet) : Option State :=
  match (if p.dst == .home h then homeAsk p.msg else none) with
  | none => none
  | some a =>
    match s.ask a with
    | .miss =>
      if (s.tablePlaces a.asid a.va).any (fun t => s.channelWaits t) then none else
      let found := s.settle a.asid a.va a.kind (s.askerLevel a.asker a.core)
      let s := s.tableReads a.asid a.va
      (match found with
      | .ok t =>
        let old := (mapGetD s.tc (eaHeap a.va) []).filter (fun x => !(x.asid == t.asid && x.va == t.va && x.size == t.size))
        some ({ s with tc := mapInsert s.tc (eaHeap a.va) (old ++ [t]) }.sendPkt p)
      | .error (kind, level) =>
        let slot := cwordOf p.msg
        if s.dropsFault a && slot.isNone then
          (match p.msg with
          | .homeRead q core => some (s.answerRead h p.src q core (BlkAns.failed (.bad 0)))
          | _ => none)
        else
          let r := match slot with
            | some n => s.cwordRecord n.1 a.asid n.2
            | none => s.faultOf a.asid a.va a.kind a.asker a.core
          (s.confirmFault a.asid a.va kind level r (match a.asker with | .engine op _ _ => some op | .entry id => some id | _ => none)).map (fun x => x.2.sendPkt p))
    | _ => none

/-- A walked message goes back to the inbox in its old place. -/
def State.walkNext (s : State) (h : Nat) : State :=
  match takeFlight (fun f => f.place == .inbox && (s.walkFor h f.p).isSome) s.net with
  | none => s
  | some (f, _) =>
    match ({ s with net := [] }.walkFor h f.p) with
    | none => s
    | some t =>
      if t.net.any (fun g => g.p == f.p) then { t with net := s.net }
      else { t with net := (match takeFlight (fun g => g == f) s.net with | some (_, rest) => rest | none => s.net) ++ t.net }

/-- TRANSLATION_WALK (R422). -/
def execTranslationWalk (heap : Nat) (s : State) : Out := .next (s.walkNext heap)

/-! The host port and the expanders (R337, R383, R395, R399). -/

/-- HOST_READ_COMPLETION (R395): the host's answer to the first read of host memory; data it brings is what host memory holds. -/
def execHostReadCompletion (data : Option Blk) (s : State) : Out :=
  .next (s.firstEnabled (fun s p =>
    match p.dst, p.msg with
    | .home 13, .homeRead q core =>
      (match s.ask ⟨q.asid, q.va, q.kind, q.asker, core⟩ with
      | .ok dpa perm =>
        if q.kind == .store then none
        else
          let s := match data with
            | some b => s.storeBlk dpa q.asid b (BitVec.allOnes 64) none false
            | none => s
          some (s.answerRead 13 p.src q core (s.homeAns dpa perm))
      | _ => none)
    | _, _ => none))

/-- HOST_ATOMICOP_COMPLETION (R337): the host completes the first atomic at host memory; a value it brings is what the first
location held; none is Unsupported Request or Completer Abort. -/
def execHostAtomicopCompletion (result : Option DWord) (s : State) : Out :=
  .next (s.firstEnabled (fun s p =>
    match p.dst, p.msg with
    | .home 13, .homeAtom a =>
      (match (homeAsk p.msg).map (fun x => s.ask x) with
      | some (.ok dpa _) =>
        (match result, a.items with
        | none, _ => some (s.answerAtom 13 a [] (BlkAns.failed (.bad (BitVec.ofNat 8 causeAtomicUnsupported))))
        | some v, x :: _ =>
          let n := match a.op with | .instr i => atomBytes i | .scad _ => 4
          some ((s.memWrite (dpa / 64 * 64 + x.addr.toNat % 64) (leBytes n v.toNat)).homeAtomic 13 a dpa)
        | some _, [] => some s)
      | _ => none)
    | _, _ => none))

/-- EXPANDER_ACCESS_COMPLETION (R399, R381): the device completes the first access of heap 14 that its tables settle. -/
def execExpanderAccessCompletion (poisoned : Bool) (s : State) : Out :=
  .next (if s.heap14Lost then s else s.firstEnabled (fun s p =>
    let bad (s : State) (dpa : Nat) : State :=
      if poisoned then { s with memPoison := mapPutD s.memPoison (dpaBlock dpa) true false } else s
    match p.dst, p.msg with
    | .home 14, .homeRead q core =>
      (match s.ask ⟨q.asid, q.va, q.kind, q.asker, core⟩ with
      | .ok dpa perm =>
        if q.kind == .store then none
        else some ((bad s dpa).answerRead 14 p.src q core ((bad s dpa).homeAns dpa perm))
      | _ => none)
    | .home 14, .homeWrite w =>
      (match w.dpa, s.ask ⟨w.asid, w.va, .store, w.writer.asker.1, w.writer.asker.2⟩ with
      | some dpa, _ => some (s.homeStore 14 p.src w dpa)
      | none, .ok dpa _ => some (s.homeStore 14 p.src w dpa)
      | _, _ => none)
    | .home 14, .homeAtom a =>
      (match (homeAsk p.msg).map (fun x => s.ask x) with
      | some (.ok dpa _) => some ((bad s dpa).homeAtomic 14 a dpa)
      | _ => none)
    | _, _ => none))

/-- EXPANDER_LINK_DROP (R383): heap 14 is lost; the accesses at its home complete as lost, the first of them with the record. -/
def execExpanderLinkDrop (port : Nat) (s : State) : Out := .next (if 2 ≤ port then s else s.loseHeap14)

/-- EXPANDER_ACCESS_TIMEOUT (R383): an access of heap 14 without a completion for 60,000 cycles completes as lost. -/
def execExpanderAccessTimeout (s : State) : Out :=
  let late (f : Flight) : Option Nat :=
    if f.place == .inbox && f.p.dst == .home 14 && f.since + 60000 ≤ s.clk then s.accessDpa f.p.msg else none
  .next (match takeFlight (fun f => (late f).isSome) s.net with
    | none => s
    | some (f, rest) => ({ s with net := rest }.loseHeap14.loseAccess f.p).getD s)

/-- HEAP14_RESTORE (R383): system software restores the heap. -/
def execHeap14Restore (s : State) : Out := .next { s with heap14Lost := false, heap14Owed := false }

end Sys2Proof.Machine
end

