-- ==== Sys2Proof/Machine/Control.lean ====
section
/-! DEFINITION. Meanings of the control instructions (R178 to R187, R170 to R172) and of an unassigned opcode (R139, R142). -/

namespace Sys2Proof.Machine

/-- The target of a branch-form instruction (R138). DESIGN CHOICE (log 104): the sum, and the pc of the next instruction, are taken modulo 2^64; where
the result leaves space 0 the spec names neither a trap nor a wrap, and the sheaf fetches there. -/
def branchTarget (pc : DWord) (o : BrOps) : DWord := pc + (o.tgt.signExtend 64 <<< 3)
/-- The reconvergence point of BRC (R138). -/
def branchJoin (pc : DWord) (o : BrOps) : DWord := pc + (o.rcv.setWidth 64 <<< 3)

/-- NOP (R180): nothing but the pc. -/
def execNop (o : Ops) (s : State) : Out :=
  runGeneral s (.nop o) (fun c _ => (c.s.setSheaf c.k (c.sh.advance (.nop o))).finish c.k o.hd 1)

/-- BRA (R180): the pc moves for the whole active mask. -/
def execBra (o : BrOps) (s : State) : Out :=
  runBranch s (.bra o) o (fun c =>
    (c.s.setSheaf c.k { c.sh with pc := branchTarget c.sh.pc o }).finish c.k false 1)

/-- The occupancy of BRC: one cycle where its predicate is U, otherwise one per thread of M (R189). -/
def brcOccupancy (sh : Sheaf) (o : BrOps) : Nat :=
  if (sh.classOf o.p.toNat).isUni then 1 else countThreads sh.m

/-- BRC (R170, R181): no push when one side is empty; otherwise the taken side waits and the fall-through side runs first. -/
def execBrc (o : BrOps) (s : State) : Out :=
  runBranch s (.brc o) o (fun c =>
    let pc := c.sh.pc
    let target := branchTarget pc o
    let join := branchJoin pc o
    let fall := c.sh.m &&& ~~~c.e
    let occ := brcOccupancy c.sh o
    if fall == 0 then (c.s.setSheaf c.k { c.sh with pc := target }).finish c.k false occ
    else if c.e == 0 then (c.s.setSheaf c.k { c.sh with pc := pc + 8 }).finish c.k false occ
    else if !pushRoom c.w c.sh then c.s.issueTrap c.k (.brc o) causeReconvOverflow 0 c.e c.e
    else
      let entry : StackEntry := if target == join then ⟨target, c.sh.m, target⟩ else ⟨join, c.e, target⟩
      ((c.begun.push c.k c.w entry).onSheaf c.k (fun sh => { sh with m := fall, pc := pc + 8 })).finish c.k false occ)

/-- The distance of a target from a reconvergence point in words is within 2^31 − 1 (R172, R182). -/
def nearJoin (target join : DWord) : Bool := (target - join).toInt.natAbs / 8 ≤ 2 ^ 31 - 1

/-- The first check of R182 that some executing thread's target fails, with the threads that fail it. -/
def targetFault (e : TMask) (join : DWord) (target : Nat → DWord) : Option (Nat × TMask) :=
  let bad (p : DWord → Bool) : TMask := maskOf (fun t => e.getLsbD t && p (target t))
  let m1 := bad (fun x => x.extractLsb' 60 4 != 0)
  let m2 := bad (fun x => x.extractLsb' 0 3 != 0)
  let m3 := bad (fun x => !nearJoin x join)
  if m1 != 0 then some (causeAddress, m1)
  else if m2 != 0 then some (causeMisaligned, m2)
  else if m3 != 0 then some (causeIllegalOperand, m3)
  else none

/-- Whether n pushes have room (R173). -/
def pushRoomN (w : Workgroup) (sh : Sheaf) (n : Nat) : Bool :=
  sh.stack.length + sh.spilled.length + n ≤ (if w.spills then 64 else 32)

/-- BRX and CALLX (R172, R182): the threads with the lowest executing thread's target run first; the rest peel. -/
def peel (c : Ctx) (i : Instr) (o : Ops) (f : Form) (call : Bool) : State :=
  if c.e == 0 then (c.s.setSheaf c.k (c.sh.advance i)).finish c.k o.hd 1
  else
    let target (t : Nat) : DWord := srcValue c.sh c.ext f.a o.a t
    let offset := srcValue c.sh c.ext f.b o.b 0
    let join := c.sh.pc + (offset <<< 3)
    match targetFault c.e join target with
    | some (cause, bad) => c.s.issueTrap c.k i cause 0 bad c.e
    | none =>
      let first := (threadsOf c.e).headD 0
      let g := maskOf (fun t => c.e.getLsbD t && target t == target first)
      let rest := c.sh.m &&& ~~~g
      let pushes := (if rest == 0 then 0 else 1) + (if call then 1 else 0)
      if !pushRoomN c.w c.sh pushes then c.s.issueTrap c.k i causeReconvOverflow 0 c.e c.e
      else
        let occ := if (srcClass c.sh c.ext f.a o.a).isUni then 1 else countThreads c.e
        let ret : DWord := (c.sh.pc + BitVec.ofNat 64 i.size) ||| 1
        let s := if rest == 0 then c.begun else c.begun.push c.k c.w ⟨join, rest, c.sh.pc⟩
        let s := if call then s.push c.k c.w ⟨ret, g, ret⟩ else s
        (s.onSheaf c.k (fun sh => { sh with m := g, pc := target first })).finish c.k o.hd occ

/-- BRX (R182). -/
def execBrx (o : Ops) (s : State) : Out := runGeneral s (.brx o) (fun c f => peel c (.brx o) o f false)
/-- CALLX (R182). -/
def execCallx (o : Ops) (s : State) : Out := runGeneral s (.callx o) (fun c f => peel c (.callx o) o f true)

/-- CALL (R183): a call entry for M. -/
def execCall (o : BrOps) (s : State) : Out :=
  runBranch s (.call o) o (fun c =>
    if !pushRoom c.w c.sh then c.s.issueTrap c.k (.call o) causeReconvOverflow 0 c.e c.e
    else
      let ret : DWord := (c.sh.pc + 8) ||| 1
      ((c.begun.push c.k c.w ⟨ret, c.sh.m, ret⟩).onSheaf c.k (fun sh => { sh with pc := branchTarget c.sh.pc o })).finish c.k false 1)

/-- RET (R184): the top entry must be a call entry, and every thread of M must return. -/
def execRet (o : Ops) (s : State) : Out :=
  runGeneral s (.ret o) (fun c _ =>
    match c.sh.stack.getLast? with
    | none => c.s.issueTrap c.k (.ret o) causeStack 0 c.e c.e
    | some top =>
      if !top.rpc.getLsbD 0 then c.s.issueTrap c.k (.ret o) causeStack 0 c.e c.e
      else if c.e != c.sh.m then c.s.issueTrap c.k (.ret o) causeConvergence 0 c.e c.e
      else
        ((c.begun.pop c.k).onSheaf c.k (fun sh =>
          { sh with pc := top.rpc &&& (~~~(1#64)), m := top.pmask &&& sh.live })).finish c.k o.hd 1)

/-- EXIT (R185, R39): the executing threads leave the live mask and M for good. -/
def execExit (o : Ops) (s : State) : Out :=
  runGeneral s (.exit o) (fun c _ =>
    let sh := c.sh.advance (.exit o)
    let sh := { sh with live := sh.live &&& ~~~c.e, m := sh.m &&& ~~~c.e }
    ((c.s.setSheaf c.k sh).finish c.k o.hd 1).reap c.k)

/-- YIELD (R186): the sheaf ranks below every other ready sheaf for its next choice. -/
def execYield (o : Ops) (s : State) : Out :=
  runGeneral s (.yield o) (fun c _ =>
    ((c.s.setSheaf c.k (c.sh.advance (.yield o))).finish c.k o.hd 1).onSheaf c.k (fun sh => { sh with yielded := true }))

/-- SLEEP (R186): not ready for the lowest executing thread's count of cycles, at most 1,048,575. -/
def execSleep (o : Ops) (s : State) : Out :=
  runGeneral s (.sleep o) (fun c f =>
    let count := min ((srcValue c.sh c.ext f.a o.a ((threadsOf c.e).headD 0)).extractLsb' 0 32).toNat 1048575
    let done := (c.s.setSheaf c.k (c.sh.advance (.sleep o))).finish c.k o.hd 1
    if c.e == 0 || count == 0 then done
    else done.onSheaf c.k (fun sh => { sh with wait := .sleep (c.s.clk + count + 1) }))

/-- BRK (R187): cause 0x12 for the executing threads. -/
def execBrk (o : Ops) (s : State) : Out :=
  runGeneral s (.brk o) (fun c _ =>
    if c.e == 0 then (c.s.setSheaf c.k (c.sh.advance (.brk o))).finish c.k o.hd 1
    else c.s.issueTrap c.k (.brk o) causeBrk 0 c.e c.e)

/-- TRAP n (R187): cause 0x20 + n for the executing threads. -/
def execTrap (o : Ops) (s : State) : Out :=
  runGeneral s (.trap o) (fun c f =>
    if c.e == 0 then (c.s.setSheaf c.k (c.sh.advance (.trap o))).finish c.k o.hd 1
    else c.s.issueTrap c.k (.trap o) (0x20 + (srcValue c.sh c.ext f.a o.a 0).toNat % 32) 0 c.e c.e)

/-- A word with an unassigned opcode (R139, R142 step 1): ILLEGAL_INSTRUCTION with step 1, for the active mask. -/
def execUnassignedOpcode (w : DWord) (s : State) : Out :=
  match s.cur with
  | none => .fault .noSheaf
  | some k =>
    match s.sheaf k with
    | none => .fault .noSheaf
    | some sh0 =>
      match mapFind s.wgs sh0.wg with
      | none => .fault .noSheaf
      | some g =>
        if !sh0.issues then .next s
        else
          let sh := sh0.atHead
          .next ((s.setSheaf k sh).issueTrap k (.unassignedOpcode w) causeIllegalInstr 1 sh.m
            (trapExec g.nReg sh (w.getLsbD 62) (w.extractLsb' 54 8)))

end Sys2Proof.Machine
end

