-- ==== Sys2Proof/Machine/System.lean ====
section
/-! DEFINITION. Meanings of CSRRD, CSRWR and TRET (R372, R387, R388) and of the debug and ownership steps that act on one
sheaf or core (R288, R386). -/

namespace Sys2Proof.Machine

/-- The lowest level that may read a CSR, and the lowest that may write it, as codes (R388). -/
def csrReadLevel (n : Nat) : Nat := if n < 0x20 then 1 else 2
def csrWriteLevel (n : Nat) : Nat :=
  if n == 0x10 || n == 0x11 then 2 else csrReadLevel n

/-- The value a CSR reads as (R388, R370, R292, R384, R385). -/
def State.csrRead (s : State) (k : Nat) (sh : Sheaf) (w : Workgroup) (n : Nat) : DWord :=
  let c := slotCore k
  let x := s.core c
  let word (v : Word) : DWord := v.setWidth 64
  let ctxNat (f : Context → Nat) : DWord := BitVec.ofNat 64 (match s.ctx w.asid with | some c => f c | none => 0)
  let part := match s.ctx w.asid with | some c => c.partition | none => 0
  match n with
  | 0x00 => word sh.trap.cause
  | 0x01 => sh.trap.pc
  | 0x02 => sh.trap.npc
  | 0x03 => word sh.trap.mask
  | 0x04 => word sh.trap.rmask
  | 0x05 => word sh.trap.amask
  | 0x06 => word sh.trap.info
  | 0x07 => s.frameVa k
  | 0x08 => BitVec.ofNat 64 (match sh.handler with | some h => h.level.code | none => sh.level.code)
  | 0x10 => ctxNat (fun c => c.trapBase.toNat)
  | 0x11 => sh.ctxAsid.setWidth 64
  | 0x12 => ctxNat (fun c => (if c.sys then 4 else 0) + (match c.mode with | .one => 0 | .two => 1 | .four => 2))
  | 0x13 => ctxNat (fun c => if c.repro then 1 else 0)
  | 0x14 => ctxNat (fun c => c.seed.toNat)
  | 0x15 => BitVec.ofNat 64 s.lsCap
  | 0x20 => word (s.quantum.getD part 0)
  | 0x21 => word (s.preWait.getD part 0)
  | 0x30 => x.mxSel.setWidth 64
  | 0x31 => word (s.mxOwn c)
  | 0x32 => word (s.mxWg c)
  | 0x33 => 0
  | 0x44 => BitVec.ofNat 64 (x.dbgAsid.toNat * 65536 + (if x.dbgStep then 2 else 0) + (if x.dbgAttach then 1 else 0))
  | n => if 0x40 ≤ n && n ≤ 0x43 then x.bp.getD (n - 0x40) 0 else 0

/-- A CSR written (R388): writes to read-only registers are ignored (R11), and reserved bits read as 0. -/
def State.csrWrite (s : State) (k : Nat) (w : Workgroup) (n : Nat) (v : DWord) : State :=
  let c := slotCore k
  let v32 : Word := v.extractLsb' 0 32
  let onCtx (f : Context → Context) : State := { s with ctxs := mapModify s.ctxs w.asid.toNat f }
  let part := match s.ctx w.asid with | some c => c.partition | none => 0
  match n with
  | 0x04 => s.onSheaf k (fun sh => { sh with trap := { sh.trap with rmask := v32 } })
  | 0x10 => onCtx (fun c => { c with trapBase := v })
  | 0x11 => s.onSheaf k (fun sh => { sh with ctxAsid := v.extractLsb' 0 16 })
  | 0x13 => onCtx (fun c => { c with repro := v.getLsbD 0 })
  | 0x14 => onCtx (fun c => { c with seed := v32 })
  | 0x20 => { s with quantum := s.quantum.set part v32 }
  | 0x21 => { s with preWait := s.preWait.set part v32 }
  | 0x30 => s.onCore c (fun x => { x with mxSel := v.extractLsb' 0 8 })
  | 0x33 => if v.toNat % 4 == 1 then s.mxFree c else if v.toNat % 4 == 2 then s.mxAdopt c else s
  | 0x44 => s.onCore c (fun x =>
      { x with dbgAsid := v.extractLsb' 16 16, dbgStep := v.getLsbD 1, dbgAttach := v.getLsbD 0 })
  | n => if 0x40 ≤ n && n ≤ 0x43 then
      s.onCore c (fun x => { x with bp := x.bp.set (n - 0x40) (v &&& (~~~(6#64))) })
    else s

/-- The first executing thread, from which group 0xF takes its operands (R387). -/
def Ctx.lead (c : Ctx) : Nat := (threadsOf c.e).headD 0

/-- CSRRD (R387, R388): a level too low raises PRIVILEGE with the CSR number; the value goes to every executing thread 4 cycles after
issue. -/
def execCsrrd (o : Ops) (s : State) : Out :=
  runGeneral s (.csrrd o) (fun c f =>
    let n := csrNumber o
    if c.e == 0 then (c.s.setSheaf c.k (c.sh.advance (.csrrd o))).finish c.k o.hd 1
    else if c.sh.level.code < csrReadLevel n then
      c.s.issueTrap c.k (.csrrd o) causePrivilege (BitVec.ofNat 32 (n * 256)) c.e c.e
    else c.endLate c.s (.csrrd o) o f (c.s.csrRead c.k c.sh c.w n))

/-- CSRWR (R387, R388): takes effect before the sheaf's next instruction. -/
def execCsrwr (o : Ops) (s : State) : Out :=
  runGeneral s (.csrwr o) (fun c f =>
    let n := csrNumber o
    if c.e == 0 then (c.s.setSheaf c.k (c.sh.advance (.csrwr o))).finish c.k o.hd 1
    else if c.sh.level.code < csrWriteLevel n then
      c.s.issueTrap c.k (.csrwr o) causePrivilege (BitVec.ofNat 32 (n * 256)) c.e c.e
    else
      let v := srcValue c.sh c.ext f.b o.b c.lead
      (((c.s.setSheaf c.k (c.sh.advance (.csrwr o))).csrWrite c.k c.w n v).finish c.k o.hd 1))

/-- Where TRET and a debug resume continue (R372): skip; the instruction again with E executing; a kept entry's replay; or
nothing replayed. -/
def State.resumeTrap (s : State) (k : Nat) (sh : Sheaf) (skip resp : Bool) (entry : Option Nat) : State :=
  let e := sh.trap.rmask &&& sh.m
  if skip || e == 0 then
    let s := match entry with | some id => { s with win := mapErase s.win id } | none => s
    s.setSheaf k { sh with pc := sh.trap.npc, bpSkip := [] }
  else if !resp then s.setSheaf k { sh with pc := sh.trap.pc, force := some e, chain := 0 }
  else
    match entry with
    | some id =>
      { s with win := mapModify s.win id (fun x => { x with left := e, kept := false }) }.setSheaf k
        { sh with pc := sh.trap.npc, replays := sh.replays ++ [(id, false)] }
    | none => s.setSheaf k { sh with pc := sh.trap.npc }

/-- What follows a resumption that has changed pc and M without an instruction to execute again: reconvergence (R171), the end of the
sheaf (R39). -/
def State.afterResume (s : State) (k : Nat) : State :=
  match s.sheaf k with
  | some t => if t.force.isSome then s else (s.reconverge k).endIfDone k
  | none => s

/-- The cycles the frame's 16 blocks take to read: one memory-side-cache hit and one cycle per further block (R251, R372). -/
def frameCycles : Nat := 315

/-- TRET (R372): illegal outside a handler; a kill when the handler left stack entries behind; otherwise v0 to v7, the level,
M and the context's ASID are restored and the program resumes. It reads the frame behind the handler's own stores there (R229). DEDUCED (log 117):
the registers that the frame gives back are of class V. -/
def execTret (o : Ops) (s : State) : Out :=
  runGeneral s (.tret o) (fun c _ =>
    match c.sh.handler with
    | none => c.s.issueTrap c.k (.tret o) causeIllegalInstr 0 c.e c.e
    | some h =>
      if c.sh.stack.length + c.sh.spilled.length != h.depth then c.s.killReported c.k c.sh.level causeStack
      else if c.s.frameBusy c.k then c.s
      else
        let sh := (c.s.leaveHandler c.k c.sh h c.w.asid).setClasses (List.range 8) .var
        let s := ((c.s.readFrame c.k).resumeTrap c.k { sh with chain := 0, fresh := false, force := none, bpSkip := h.skip } (o.mod.getLsbD 0) h.resp h.entry).tick 1
        (s.onSheaf c.k (fun t => { t with wait := .frame (c.s.clk + 1 + frameCycles), lastOp := c.s.clk })).afterResume c.k)

/-- DEBUG_RESUME (R386): a sheaf stopped by the debug port resumes with the choices of TRET. -/
def execDebugResume (sheaf : Nat) (skip : Bool) (s : State) : Out :=
  .next (match s.sheaf sheaf with
    | none => s
    | some sh =>
      if sh.stopped then
        (s.resumeTrap sheaf { sh with stopped := false, m := sh.trap.amask &&& sh.live } skip false none).afterResume sheaf
      else s)

/-- DEBUG_REGISTER_ACCESS (R386): the debug port reads a register of a stopped sheaf, or writes it; what it reads is reported. -/
def execDebugRegisterAccess (sheaf reg thread : Nat) (write : Option Word) (s : State) : Out :=
  .next (match s.sheaf sheaf with
    | none => s
    | some sh =>
      if !sh.stopped || 32 ≤ thread || 256 ≤ reg then s
      else
        match write with
        | some v => s.setSheaf sheaf ((sh.setReg reg thread v).setClasses [reg] .var)
        | none => { s with reports := s.reports ++ [(reg * 32 + thread, sh.reg reg thread)] })

/-- MX_CMD_FREE (R288, R292). -/
def execMxCmdFree (core : Nat) (s : State) : Out := .next (s.mxFree core)
/-- MX_CMD_ADOPT (R288, R292). -/
def execMxCmdAdopt (core : Nat) (s : State) : Out := .next (s.mxAdopt core)

end Sys2Proof.Machine
end

