-- ==== Sys2Proof/Machine/Memory.lean ====
section
/-! DEFINITION. Meanings of the memory instructions of group 0x7 (R253 to R265) and the shared start of every instruction that
takes an entry of the coalescing window (R222, R227, R254, R255, R317). -/

namespace Sys2Proof.Machine

/-! Before an entry starts. -/

/-- An access of a sheaf whose acquire has not been made yet (R318, R322). -/
def State.acquirePending (s : State) (k : Nat) : Bool :=
  s.win.any (fun e => e.2.sheaf == k && !e.2.kept && e.2.instr.acquires)

/-- A release of a sheaf in progress (R317). -/
def State.releasePending (s : State) (k : Nat) : Bool := s.rels.any (fun r => r.2.sheaf == some k)

/-- Whether an instruction only reads memory. -/
def Instr.onlyReads (i : Instr) : Bool := memClass i == .load

/-- A window entry is free, no acquire holds the sheaf's later accesses, and no release its later writes (R227, R317, R318). -/
def State.windowFree (s : State) (k : Nat) (i : Instr) : Bool :=
  s.windowUse k < 16 && !s.acquirePending k && (Instr.onlyReads i || !s.releasePending k)

/-- The bytes that an instruction accesses for a thread, first and last, under the one name of each block (R229): its whole block
where the tag is accessed. -/
def Instr.reach (i : Instr) (core : Nat) (a : DWord) : Nat × Nat :=
  let base := (blkName core (blkBase a)).toNat
  let off := a.toNat % 64
  match i with
  | .ld _ => (base + off, base + off + i.memBytes - 1)
  | .ldb _ => (base + off, base + off + i.memBytes - 1)
  | .st _ => (base + off, base + off + i.memBytes - 1)
  | .stb _ => (base + off, base + off + i.memBytes - 1)
  | _ => (base, base + 63)

/-- Whether the store or atomic of a release of a sheaf that is still in progress is at one of some bytes (R317). -/
def State.releaseAt (s : State) (k lo hi : Nat) : Bool :=
  s.rels.any (fun r => r.2.sheaf == some k && (match r.2.then_ with
    | .entry id => (match mapFind s.win id with
      | some e => e.thr.any (fun y =>
          lo ≤ (Instr.reach e.instr (slotCore k) y.2.addr).2 && (Instr.reach e.instr (slotCore k) y.2.addr).1 ≤ hi)
      | none => false)
    | _ => false))

/-- Whether a load is of such a location. -/
def State.holdsLocation (s : State) (k : Nat) (i : Instr) (thr : Map ThreadReq) : Bool :=
  Instr.onlyReads i && thr.any (fun x =>
    s.releaseAt k (Instr.reach i (slotCore k) x.2.addr).1 (Instr.reach i (slotCore k) x.2.addr).2)

/-- A release begun (R317). -/
def State.beginRelease (s : State) (id : Nat) (k : Nat) (scope before mark : Nat) (own : Option Nat) (t : RelThen) : State :=
  let r : Release := { sheaf := some k, core := slotCore k, lgrps := [slotLgrp k], scope := scope, stage := 0, own := own,
                       before := before, mark := mark, left := 0, then_ := t }
  { s with rels := mapInsert s.rels id r }

/-! Address checks (R221, R222, R254). -/

/-- The executing threads whose address is in none of the spaces that a window entry reaches. -/
def Ctx.badAddress (c : Ctx) (ea : Nat → DWord) : TMask :=
  maskOf (fun t => c.e.getLsbD t && (match c.s.locate c.w (ea t) with
    | none => true
    | some (.engine _ _ _ _ _) => true
    | _ => false))
/-- The executing threads whose address is not a multiple of n. -/
def Ctx.misaligned (c : Ctx) (ea : Nat → DWord) (n : Nat) : TMask := maskOf (fun t => c.e.getLsbD t && (ea t).toNat % n != 0)
/-- The checks of R254 in their order: the cause and the threads of the first that fails. -/
def Ctx.addressFault (c : Ctx) (ea : Nat → DWord) (n : Nat) : Option (Nat × TMask) :=
  if c.badAddress ea != 0 then some (causeAddress, c.badAddress ea)
  else if c.misaligned ea n != 0 then some (causeMisaligned, c.misaligned ea n)
  else none

/-- The effective address of a thread of an instruction whose A is a pointer (R220). -/
def Ctx.ea (c : Ctx) (o : Ops) (t : Nat) : DWord := srcValue c.sh c.ext .ptr o.a t + o.attr.offset.signExtend 64

/-- Whether an address operand is U or A (R168, R255): a pair whose high word is uniform and whose low word has a base and
stride. -/
def addressAffine (sh : Sheaf) (src : Src) : Bool :=
  match src with
  | .reg r => (sh.classOf (r.toNat + 1)).isUni && (sh.classOf r.toNat).pair.isSome
  | _ => false
/-- Whether a pointer operand is U. -/
def addressUni (sh : Sheaf) (src : Src) : Bool :=
  match src with
  | .reg r => (sh.classOf (r.toNat + 1)).isUni && (sh.classOf r.toNat).isUni
  | _ => false

/-- The lane occupancy of a memory instruction (R255). -/
def Ctx.memOccupancy (c : Ctx) (single : Bool) : Nat :=
  if c.e == 0xFFFFFFFF && single then 1 else max 1 (countThreads c.e)

/-! The start of an entry. -/

/-- Whether some thread's address lies in space 2 or 5. -/
def anyRemote (thr : Map ThreadReq) : Bool := thr.any (fun r => eaSpace r.2.addr == 2 || eaSpace r.2.addr == 5)
/-- Whether an instruction counts on REMOTE (R255, R280): a store of group 0x7 or an atomic of group 0x8 without an answer. -/
def countsRemote (i : Instr) (thr : Map ThreadReq) : Bool := !Instr.onlyReads i && !i.answers && memClass i != .allow && anyRemote thr

/-- The entry of an instruction's threads put into the window, its registers pending, its release begun, REMOTE counted, and
its requests sent as far as nothing stands before them (R227 to R229, R156, R166, R255, R317): in ascending address order from a
single issue cycle. An instruction whose threads access nothing still releases and acquires. -/
def Ctx.startEntry (c : Ctx) (i : Instr) (o : Ops) (thr : Map ThreadReq) (uni : Bool) (occ : Nat) : State :=
  let id := c.s.winNext
  let m := thr.foldl (fun m r => m ||| threadBit r.1) (0#32)
  let remote := countsRemote i thr
  let sh := (c.sh.setClasses i.dstOf .var).setPend i.dstOf
  let sh := { sh with cRemote := if remote then sh.cRemote + 1 else sh.cRemote }
  let blks := blkReqs thr
  let e : WinEntry :=
    { sheaf := c.k, pc := c.sh.pc, npc := c.sh.pc + BitVec.ofNat 64 i.size, instr := i, asid := c.sh.ctxAsid, level := c.sh.level,
      thr := thr, blks := if c.e == 0xFFFFFFFF && occ == 1 then sortBlks blks else blks, mask := m, left := m, order := if i.releases then some id else none, kept := false,
      remote := remote, uni := uni, fails := [] }
  let s := { c.s with win := mapInsert c.s.win id e, winNext := id + 1 }.setSheaf c.k (sh.advance i)
  let s := if i.releases then s.beginRelease id c.k i.scopeOf id id (some id) (.entry id) else s
  let s := if remote then
      s.onCore (slotCore c.k) (fun x => { x with remote := x.remote ++ [{ id := id, wg := c.sh.wg, idx := c.sh.idx, left := 1 }] })
    else s
  let s := s.pump c.k
  (if thr.isEmpty then s.closeEntry id else s).finish c.k o.hd (c.sh.occupied i.dstOf c.e occ)

/-- An instruction with a pointer operand (R254): it cannot start without a free entry; no executing thread, no effect; a
failed check traps before any effect; otherwise its entry starts. `check` gives the check that depends on operand values. -/
def Ctx.memStart (c : Ctx) (i : Instr) (o : Ops) (align : Nat) (uni : Bool) (check : Option (Nat × TMask))
    (req : Nat → ThreadReq) : State :=
  if c.e == 0 then (c.s.setSheaf c.k (c.sh.advance i)).finish c.k o.hd 1
  else if !c.s.windowFree c.k i || c.s.holdsLocation c.k i ((threadsOf c.e).map (fun t => (t, req t)))
      || (countsRemote i ((threadsOf c.e).map (fun t => (t, req t))) && 63 ≤ c.sh.cRemote) then c.s
  else
    match (c.addressFault (fun t => (req t).addr) align).orElse (fun _ => check) with
    | some (cause, bad) => c.s.issueTrap c.k i cause 0 bad c.e
    | none =>
      c.startEntry i o ((threadsOf c.e).map (fun t => (t, req t))) (c.e == 0xFFFFFFFF && uni && addressUni c.sh o.a)
        (c.memOccupancy (addressAffine c.sh o.a))

/-! LD and ST, tags (R256 to R259). -/

/-- LD (R256). -/
def execLd (o : Ops) (s : State) : Out :=
  runGeneral s (.ld o) (fun c _ =>
    c.memStart (.ld o) o (2 ^ (o.mod.toNat % 8)) true none (fun t => { addr := c.ea o t, data := 0, data2 := 0 }))

/-- ST (R256): the low bytes of b. -/
def execSt (o : Ops) (s : State) : Out :=
  runGeneral s (.st o) (fun c f =>
    c.memStart (.st o) o (2 ^ (o.mod.toNat % 8)) false none (fun t =>
      { addr := c.ea o t, data := srcValue128 c.sh c.ext f.b o.b t, data2 := 0 }))

/-- LDTG (R257): the element index goes with the address. -/
def execLdtg (o : Ops) (s : State) : Out :=
  runGeneral s (.ldtg o) (fun c f =>
    c.memStart (.ldtg o) o 1 (srcClass c.sh c.ext f.b o.b).isUni none (fun t =>
      { addr := c.ea o t, data := (srcValue c.sh c.ext f.b o.b t).setWidth 128, data2 := 0 }))

/-- The executing threads whose tag value names a counter or a reserved format (R258). -/
def Ctx.badTags (c : Ctx) (tag : Nat → DWord) : Option (Nat × TMask) :=
  let bad := maskOf (fun t => c.e.getLsbD t && 8 < (tag t).toNat / 256 % 256)
  if bad != 0 then some (causeFormat, bad) else none

/-- STTG (R258): a word and the block's tag. -/
def execSttg (o : Ops) (s : State) : Out :=
  runGeneral s (.sttg o) (fun c f =>
    c.memStart (.sttg o) o 4 false (c.badTags (fun t => srcValue c.sh c.ext f.c o.c t)) (fun t =>
      { addr := c.ea o t, data := (srcValue c.sh c.ext f.b o.b t).setWidth 128, data2 := srcValue c.sh c.ext f.c o.c t }))

/-- TAGRD (R259). -/
def execTagrd (o : Ops) (s : State) : Out :=
  runGeneral s (.tagrd o) (fun c _ => c.memStart (.tagrd o) o 1 true none (fun t => { addr := c.ea o t, data := 0, data2 := 0 }))

/-- TAGWR (R258): the block's tag. -/
def execTagwr (o : Ops) (s : State) : Out :=
  runGeneral s (.tagwr o) (fun c f =>
    c.memStart (.tagwr o) o 1 false (c.badTags (fun t => srcValue c.sh c.ext f.b o.b t)) (fun t =>
      { addr := c.ea o t, data := (srcValue c.sh c.ext f.b o.b t).setWidth 128, data2 := 0 }))

/-! PREF and CCTL (R260, R261). -/

/-- A prefetch of one block (R260): dropped where its address is invalid; BYPASS fills nothing; a line already there is kept. -/
def State.prefetch (s : State) (k : Nat) (sh : Sheaf) (w : Workgroup) (i : Instr) (die : Bool) (a : DWord) : State :=
  let core := slotCore k
  let pol := effPolicy i (eaPolicy a)
  match s.locate w a with
  | some (.dev _) =>
    if pol == 4 || (!die && (s.l1Find core sh.ctxAsid (blkBase a)).isSome) then s
    else
      s.send (.core core) (.slice (coreDie core) (sliceOf a)) 2 (s.partOf sh.ctxAsid)
        (.read { asid := sh.ctxAsid, va := blkBase a, asker := .prefetch, kind := .load, pol := pol, l1 := !die && eaHeap a != 13,
                 epoch := (s.core core).epoch, ovl := 0, overM := 0, overT := none, bulk := true, place := s.l1Place core })
  | _ => s

/-- The distinct blocks that the executing threads name, in ascending thread order. -/
def Ctx.blocksNamed (c : Ctx) (o : Ops) (size : Nat) : List DWord :=
  (threadsOf c.e).foldl (fun acc t =>
    let b := eaVa (c.ea o t) &&& (~~~(BitVec.ofNat 64 (size - 1)))
    if acc.contains b then acc else acc ++ [b]) []

/-- PREF (R260): no entry, no trap. -/
def execPref (o : Ops) (s : State) : Out :=
  runGeneral s (.pref o) (fun c _ =>
    let s := (threadsOf c.e).foldl (fun s t => s.prefetch c.k c.sh c.w (.pref o) (o.mod.getLsbD 0) (c.ea o t)) c.s
    (s.setSheaf c.k (c.sh.advance (.pref o))).finish c.k o.hd (c.memOccupancy (addressAffine c.sh o.a)))

/-- A line taken out of a core's instruction cache unless it is pinned, out of its sheaves' fetch buffers with it, and a fill of it
on its way brings nothing that is kept (R122, R123, R261). -/
def State.dropCode (s : State) (core : Nat) (asid : BitVec 16) (b : DWord) : State :=
  if (s.core core).ic.any (fun l => l.pinned && l.asid == asid && l.va == b) then s
  else
    let s := s.onCore core (fun c =>
      { c with ic := c.ic.filter (fun l => !(l.asid == asid && l.va == b))
               icMiss := c.icMiss.map (fun m => if m.asid == asid && m.va == b then { m with stale := true } else m) })
    { s with sheaves := mapMap (fun k sh =>
        if slotCore k == core && s.sheafAsid k == asid then { sh with fbuf := sh.fbuf.filter (fun l => l.va != b) } else sh) s.sheaves }

/-- CCTL on one block or line (R261). -/
def State.cacheControl (s : State) (core : Nat) (asid : BitVec 16) (op : Nat) (b : DWord) : State :=
  match op with
  | 0 => s.dropL1 core asid b
  | 1 => s.dropCode core asid b
  | _ =>
    let die := coreDie core
    if isRemote die b then
      { s with slices := mapModify s.slices (die * 16 + sliceOf b) (fun x =>
          { x with lines := x.lines.filter (fun l => !(l.asid == asid && l.va == b))
                   merge := x.merge.map (fun m => if m.asid == asid && m.va == b then { m with open_ := false } else m) }) }
    else s

/-- The executing threads of a CCTL whose address is not a valid space-0 address. -/
def Ctx.notDevice (c : Ctx) (o : Ops) : TMask :=
  maskOf (fun t => c.e.getLsbD t && (match c.s.locate c.w (c.ea o t) with | some (.dev _) => false | _ => true))

/-- CCTL (R261): the operation on each distinct block or line named. -/
def execCctl (o : Ops) (s : State) : Out :=
  runGeneral s (.cctl o) (fun c _ =>
    let op := o.mod.toNat % 8
    if c.notDevice o != 0 then c.s.issueTrap c.k (.cctl o) causeAddress 0 (c.notDevice o) c.e
    else
      let s := c.s.setSheaf c.k (c.sh.advance (.cctl o))
      ((c.blocksNamed o (if op == 1 then 128 else 64)).foldl (fun s b =>
        s.cacheControl (slotCore c.k) (if op == 1 then c.w.asid else c.sh.ctxAsid) op b) s).finish c.k o.hd
          (c.memOccupancy (addressAffine c.sh o.a)))

/-! LDB and STB (R263, R265). -/

/-- The record of a thread, or the cause its pointer raises. -/
def Ctx.record (c : Ctx) (o : Ops) (t : Nat) : Except Nat BufRec :=
  match o.a with
  | .reg r => (c.s.localRecord c.w (c.sh.pair r.toNat t)).map bufRec
  | _ => if c.s.windowAligned c.w o then .ok (bufRec (c.s.windowRecord c.k c.w o)) else .error causeMisaligned

/-- The pointer to a thread's record in local store; 0 for a window record. -/
def Ctx.recordPtr (c : Ctx) (o : Ops) (t : Nat) : DWord := match o.a with | .reg r => c.sh.pair r.toNat t | _ => 0
/-- Whether a request of the sheaf to the block of a record is still on its way, or the record's words are poisoned. -/
def Ctx.recordBusy (c : Ctx) (o : Ops) (t : Nat) : Bool :=
  match o.a with
  | .reg r => c.s.blockBusy c.k (c.sh.pair r.toNat t)
  | _ => false
def Ctx.recordPoisoned (c : Ctx) (o : Ops) (t : Nat) : Bool :=
  match o.a with
  | .reg r =>
    let off := (c.sh.pair r.toNat t).toNat % 2 ^ 24
    (c.s.lsPoisonMask c.w.core (off / 64 * 64)) &&& wordsOf (off % 64) 32 != 0
  | _ => false

/-- The first check of a list that some executing thread fails, with the threads that fail it. -/
def Ctx.firstFault (c : Ctx) (cs : List (Nat × (Nat → Bool))) : Option (Nat × TMask) :=
  cs.findSome? (fun x =>
    let bad := maskOf (fun t => c.e.getLsbD t && x.2 t)
    if bad != 0 then some (x.1, bad) else none)

/-- The element of a thread: its address, or none where the access is dropped. -/
def elementAddr (r : BufRec) (xj : DWord) : Option DWord :=
  match r.bound (xj.toNat % 2 ^ 32) (xj.toNat / 2 ^ 32) with
  | .inside x j => some (r.row j + BitVec.ofNat 64 (x * r.bits / 8))
  | _ => none

/-- LDB and STB (R265). -/
def Ctx.recordAccess (c : Ctx) (i : Instr) (o : Ops) (f : Form) (data : Nat → BitVec 128) : State :=
  let rd (t : Nat) : Except Nat BufRec := c.record o t
  let raises (n t : Nat) : Bool := match rd t with | .error e => e == n | .ok _ => false
  let on (p : BufRec → Bool) (t : Nat) : Bool := match rd t with | .ok r => p r | .error _ => false
  let xj (t : Nat) : DWord := srcValue c.sh c.ext f.b o.b t
  let trapped (t : Nat) : Bool := on (fun r => r.bound ((xj t).toNat % 2 ^ 32) ((xj t).toNat / 2 ^ 32) == .trap) t
  let addr (t : Nat) : Option DWord := match rd t with | .ok r => elementAddr r (xj t) | .error _ => none
  let pol (t : Nat) : DWord := match rd t with | .ok r => BitVec.ofNat 64 r.policy | .error _ => 0
  let bad (p : DWord → Bool) (t : Nat) : Bool := match addr t with | some a => p a | none => false
  let thr : Map ThreadReq := (threadsOf c.e).filterMap (fun t => (addr t).map (fun a => (t, { addr := a, data := data t, data2 := pol t })))
  if c.e == 0 then (c.s.setSheaf c.k (c.sh.advance i)).finish c.k o.hd 1
  else if !c.s.windowFree c.k i || c.s.holdsLocation c.k i thr || (threadsOf c.e).any (fun t => c.recordBusy o t)
      || (countsRemote i thr && 63 ≤ c.sh.cRemote) then c.s
  else
    match c.firstFault
      [(causeAddress, raises causeAddress), (causeMisaligned, raises causeMisaligned), (causeDataError, c.recordPoisoned o),
       (causeIllegalOperand, on (fun r => r.bad || r.fmt == 6 || eaSpace r.base == 3)), (causeBounds, trapped),
       (causeAddress, bad (fun a => match c.s.locate c.w a with | none => true | some (.engine _ _ _ _ _) => true | _ => false)),
       (causeMisaligned, bad (fun a => a.toNat % i.memBytes != 0))] with
    | some (cause, m) => c.s.issueTrapAt c.k i cause (if cause == causeDataError then 2 else 0) m c.e (c.recordPtr o ((threadsOf m).headD 0))
    | none =>
      let none_ := (threadsOf c.e).filter (fun t => (addr t).isNone)
      let sh := none_.foldl (fun sh t => if i.answers then sh.lateResult o f.dst.width t 0 else sh) c.sh
      let single := (srcClass c.sh c.ext f.b o.b).isUni && (match o.a with | .reg _ => addressUni c.sh o.a | _ => true)
      Ctx.startEntry { c with sh := sh } i o thr (c.e == 0xFFFFFFFF && single) (c.memOccupancy single)

/-- LDB (R265). -/
def execLdb (o : Ops) (s : State) : Out :=
  runGeneral s (.ldb o) (fun c f => c.recordAccess (.ldb o) o f (fun _ => 0))
/-- STB (R265). -/
def execStb (o : Ops) (s : State) : Out :=
  runGeneral s (.stb o) (fun c f => c.recordAccess (.stb o) o f (fun t => srcValue128 c.sh c.ext f.c o.c t))

end Sys2Proof.Machine
end

