-- ==== Sys2Proof/Machine/Sync.lean ====
section
/-! DEFINITION. Releases step by step (R317 to R322, R424), FENCE (R345), workgroup barriers (R41, R346, R347) and barrier objects
(R348 to R350). -/

namespace Sys2Proof.Machine

/-! Workgroup barriers (R347). -/

/-- A barrier's content once a sheaf has arrived: none where a .cnt count differs from the phase's count. -/
def Barrier.arrive (b : Barrier) (live : Nat) (count : Option Nat) : Option Barrier :=
  let began := b.arrived != 0
  let expected := if began then b.expected else count.getD live
  if began && count.isSome && count != some b.expected then none
  else
    let byLive := if began then b.byLive else count.isNone
    if expected ≤ b.arrived + 1 then some { expected := expected, arrived := 0, phase := !b.phase, byLive := byLive }
    else some { expected := expected, arrived := b.arrived + 1, phase := b.phase, byLive := byLive }

/-- Barrier k of a workgroup. -/
def Workgroup.bar (w : Workgroup) (k : Nat) : Barrier := w.bars.getD k { expected := w.nSheaf, arrived := 0, phase := false, byLive := true }

/-- The HD bit of an instruction. -/
def Instr.hdOf (i : Instr) : Bool := match i.opsOf with | some (o : Ops) => o.hd | none => false

/-- The lane's cycles of an instruction at which its sheaf is then held (R154, R160, R345): its chain goes on or closes with them, and the sheaf
waits at its pc until the release with this number is done. -/
def State.holdAt (s : State) (k : Nat) (sh : Sheaf) (hd : Bool) (occ order : Nat) : State :=
  (s.setSheaf k { sh with wait := .order order, chain := chainAfter sh.chain hd, yielded := false, fresh := false, lastOp := s.clk + occ - 1,
                          readyAt := s.clk + occ, bpSkip := [] }).tick occ

/-- A sheaf held at an instruction goes on past it (R171, R39); the lane had its cycles when it was held. -/
def State.passHeld (s : State) (k : Nat) (i : Instr) (sh : Sheaf) : State :=
  let s := s.setSheaf k (({ sh with wait := .none, force := none, readyAt := s.clk }).advance i)
  ((s.reconverge k).endIfDone k).onSheaf k (fun sh => { sh with fbuf := keepLines sh.pc sh.fbuf })

/-- The end of an arrival: of one that a release held, or, with .rlx, of the whole instruction. -/
def State.passArrival (s : State) (k : Nat) (i : Instr) (sh : Sheaf) (held : Bool) (occ : Nat) : State :=
  if held then s.passHeld k i sh else (s.setSheaf k (sh.advance i)).finish k (Instr.hdOf i) occ

/-- An arrival at barrier b (R347): a mismatch is taken as an issue-time trap; BARA's token goes to the executing threads; BAR
waits until the phase differs from the one it found. -/
def State.arrive (s : State) (k : Nat) (i : Instr) (b : Nat) (count : Option Nat) (mask : TMask) (held : Bool) : State :=
  match s.sheaf k with
  | none => s
  | some sh =>
    match mapFind s.wgs sh.wg with
    | none => s
    | some w =>
      match (w.bar b).arrive (s.liveSheaves sh.wg) count with
      | none => (s.setSheaf k { sh with wait := .none }).issueTrap k i causeIllegalOperand 0 mask mask
      | some nb =>
        let old := (w.bar b).phase
        let s := { s with wgs := mapInsert s.wgs sh.wg { w with bars := w.bars.set b nb } }
        match i with
        | .bara o =>
          s.passArrival k i (((if held then sh.lateResults o .w32 mask (fun _ => if old then 1 else 0) else sh.results o .w32 mask (fun _ => if old then 1 else 0))).setClasses
            i.dstOf .var) held (sh.occupied i.dstOf mask 1)
        | _ =>
          (s.passArrival k i sh held 1).onSheaf k (fun x => if nb.phase == old && !x.ended then { x with wait := .barrier b old } else x)

/-! Releases (R317, R318). -/

/-- Whether a release no longer waits for an entry: for a store, the requests to spaces 2 and 5 need only have left (R317). -/
def WinEntry.behind (e : WinEntry) : Bool :=
  memClass e.instr == .store && e.order.isNone && e.blks.all (fun b => b.stage == .done
    || (b.stage == .sent && (eaSpace b.base == 2 || eaSpace b.base == 5)))

/-- Whether every earlier access of the releasing sheaf has reached the state that R317 asks for. -/
def State.ownDone (s : State) (id : Nat) (r : Release) : Bool :=
  match r.sheaf with
  | none => true
  | some k =>
    let mine (wg idx : Nat) : Bool := match s.sheaf k with | some sh => sh.wg == wg && sh.idx == idx | none => false
    s.win.all (fun e => e.2.sheaf != k || r.before ≤ e.1 || r.own == some e.1 || e.2.kept || e.2.behind)
      && (s.core r.core).rows.all (fun x => !mine x.wg x.idx)
      && s.net.all (fun f => match f.p.msg with | .hub h _ => !mine h.wg h.idx | _ => true)
      && s.rels.all (fun x => id ≤ x.1 || x.2.sheaf != some k || (match x.2.then_ with | .hub _ _ => false | _ => true))

/-- Whether a write-through of a core made before a number is still on its way to its slice. -/
def State.writesOut (s : State) (core mark : Nat) : Bool :=
  s.net.any (fun f => match f.p.msg with
    | .write w => w.writer == .through core && w.id < mark
    | _ => false)

/-- Whether the stage a release stands at is done: 0 own accesses, 1 CORE, 2 DIE, 3 to 5 markers and the flushing read. -/
def State.stageDone (s : State) (id : Nat) (r : Release) : Bool :=
  match r.stage with
  | 0 => s.ownDone id r
  | 1 => r.lgrps.all (fun g => (s.sbOf r.core g).all (fun x => r.mark ≤ x.seq)) && (s.core r.core).peerOut.all (fun x => r.before ≤ x)
  | 2 => !s.writesOut r.core r.mark
  | _ => r.left == 0

/-- The scope that a stage belongs to. -/
def stageScope (stage : Nat) : Nat :=
  match stage with
  | 0 => 0
  | 1 => 1
  | 2 => 3
  | 3 => 5
  | 4 => 6
  | _ => 7

/-- Every line in the atomic state of a core written through (R318). -/
def State.writeAtomicLines (s : State) (core : Nat) : State := (s.core core).l1.foldl (fun s l => s.writeAtomicLine core l) s

/-- The markers that a core sends to the slices of its die. -/
def State.sendMarkers (s : State) (core : Nat) (f : MarkFor) (scope : Nat) : State :=
  (List.range 16).foldl (fun s i => s.send (.core core) (.slice (coreDie core) i) 0 none (.mark f scope)) s

/-- The markers of a POD release to the 12 Troxia ports (R318, R321). -/
def State.sendPodMarkers (s : State) (back : Agent) (f : MarkFor) : State :=
  (List.range 12).foldl (fun s p => s.send back (.troxia p) 0 none (.mark f 6)) s

/-- A release enters a stage: what its store buffers hold then drains; what its core has sent then arrives; markers go to the
slices, to the 12 Troxia ports, and a flushing read to the host port. -/
def State.enterStage (s : State) (id : Nat) (r : Release) (stage : Nat) : State :=
  match stage with
  | 1 => { s with rels := mapInsert s.rels id { r with stage := 1, mark := s.winNext } }
  | 2 =>
    let s := s.writeAtomicLines r.core
    { s with rels := mapInsert s.rels id { r with stage := 2, mark := s.winNext } }
  | 3 => { s with rels := mapInsert s.rels id { r with stage := 3, left := 16 } }.sendMarkers r.core (.rel id) 5
  | 4 => { s with rels := mapInsert s.rels id { r with stage := 4, left := 12 } }.sendPodMarkers (.core r.core) (.rel id)
  | 5 => { s with rels := mapInsert s.rels id { r with stage := 5, left := 1 } }.send (.core r.core) .hostPort 0 none (.mark (.rel id) 7)
  | n => { s with rels := mapInsert s.rels id { r with stage := n } }

/-- An entry that accesses nothing ends with its release. -/
def State.closeNone (s : State) (id : Nat) : State :=
  match mapFind s.win id with
  | some e => if e.blks.isEmpty then s.closeEntry id else s
  | none => s

/-- What follows a release that is over. -/
def State.afterRelease (s : State) (r : Release) : State :=
  match r.then_, r.sheaf with
  | .entry id, some k =>
    (({ s with win := mapModify s.win id (fun e => { e with order := none }) }).pump k).closeNone id
  | .fence i acq, some k =>
    (match s.sheaf k with
    | none => s
    | some sh => (match acq with | some sc => s.acquire r.core sc | none => s).passHeld k i sh)
  | .barrier i b count mask, some k => s.arrive k i b count mask true
  | .hub f q, _ => s.send (.core r.core) .hub 1 (some f.part) (.hub f q)
  | _, _ => s

/-- The marker answers of a release taken from its core's inbox. -/
def State.takeMarked (s : State) (id : Nat) (r : Release) : State :=
  let mine (f : Flight) : Bool := f.place == .inbox && f.p.dst == .core r.core && f.p.msg == .marked (.rel id)
  let n := (s.net.filter mine).length
  { s with
    net := s.net.filter (fun f => !mine f)
    rels := mapModify s.rels id (fun r => { r with left := r.left - n }) }

/-- A release moved on through the stages that have nothing left to wait for; the fuel covers its six stages. -/
def State.runRelease : Nat → State → Nat → State
  | 0, s, _ => s
  | fuel + 1, s, id =>
    match mapFind s.rels id with
    | none => s
    | some r0 =>
      let s := s.takeMarked id r0
      match mapFind s.rels id with
      | none => s
      | some r =>
        if !s.stageDone id r then s
        else if r.stage < 5 && stageScope (r.stage + 1) ≤ r.scope then State.runRelease fuel (s.enterStage id r (r.stage + 1)) id
        else { s with rels := mapErase s.rels id }.afterRelease r

/-- RELEASE_DONE (R317): the oldest release of a sheaf goes as far as it can. -/
def execReleaseDone (sheaf : Nat) (s : State) : Out :=
  .next (match s.rels.find? (fun r => r.2.sheaf == some sheaf) with
    | none => s
    | some (id, _) => s.runRelease 7 id)

/-! FENCE (R345). -/

/-- FENCE: the sheaf is held until the release's steps are done; the acquire follows. An acquire alone waits for the sheaf's
earlier accesses to return. -/
def execFence (o : Ops) (s : State) : Out :=
  runGeneral s (.fence o) (fun c _ =>
    let i : Instr := .fence o
    if c.e == 0 then (c.s.setSheaf c.k (c.sh.advance i)).finish c.k o.hd 1
    else if c.s.acquirePending c.k || c.s.releasePending c.k then c.s
    else
      let id := c.s.winNext
      let s := { c.s with winNext := id + 1 }.holdAt c.k c.sh o.hd 1 id
      s.beginRelease id c.k (if i.releases then i.scopeOf else 0) id id none (.fence i (if i.acquires then some i.scopeOf else none)))

/-! BAR, BARA, BARW (R346, R347). -/

/-- The barrier that the lowest executing thread names. -/
def Ctx.barrierNo (c : Ctx) (o : Ops) (f : Form) : Nat := (srcValue c.sh c.ext f.a o.a c.lead).toNat % 2 ^ 32
/-- The count of a .cnt arrival. -/
def Ctx.barrierCount (c : Ctx) (o : Ops) (f : Form) : Option Nat :=
  if o.mod.getLsbD 1 then some ((srcValue c.sh c.ext f.b o.b c.lead).toNat % 2 ^ 32) else none

/-- BAR and BARA: the checks at issue, the CORE release unless .rlx, then the arrival. -/
def Ctx.barrierStart (c : Ctx) (i : Instr) (o : Ops) (f : Form) : State :=
  let b := c.barrierNo o f
  let count := c.barrierCount o f
  let badCount := match count with | some n => n == 0 || c.w.nSheaf < n | none => false
  if c.e == 0 then (c.s.setSheaf c.k (c.sh.advance i)).finish c.k o.hd 1
  else if 15 < b || badCount then c.s.issueTrap c.k i causeIllegalOperand 0 c.e c.e
  else if o.mod.getLsbD 0 then c.begun.arrive c.k i b count c.e false
  else if c.s.acquirePending c.k || c.s.releasePending c.k then c.s
  else
    let id := c.s.winNext
    let s := { c.s with winNext := id + 1 }.holdAt c.k c.sh o.hd (c.sh.occupied i.dstOf c.e 1) id
    s.beginRelease id c.k 1 id id none (.barrier i b count c.e)

/-- BAR (R347). -/
def execBar (o : Ops) (s : State) : Out := runGeneral s (.bar o) (fun c f => c.barrierStart (.bar o) o f)
/-- BARA (R347). -/
def execBara (o : Ops) (s : State) : Out := runGeneral s (.bara o) (fun c f => c.barrierStart (.bara o) o f)

/-- BARW (R347): waits while the phase equals bit 0 of its token. -/
def execBarw (o : Ops) (s : State) : Out :=
  runGeneral s (.barw o) (fun c f =>
    let b := c.barrierNo o f
    let token := (srcValue c.sh c.ext f.b o.b c.lead).getLsbD 0
    if c.e == 0 then (c.s.setSheaf c.k (c.sh.advance (.barw o))).finish c.k o.hd 1
    else if 15 < b then c.s.issueTrap c.k (.barw o) causeIllegalOperand 0 c.e c.e
    else
      ((c.s.setSheaf c.k (c.sh.advance (.barw o))).finish c.k o.hd 1).onSheaf c.k (fun x =>
        if (c.w.bar b).phase == token then { x with wait := .barrier b token } else x))

/-- BARRIER_WAKE (R347): a sheaf whose barrier's phase has flipped becomes ready. -/
def execBarrierWake (sheaf : Nat) (s : State) : Out :=
  .next (match s.sheaf sheaf with
    | none => s
    | some sh =>
      match sh.wait, mapFind s.wgs sh.wg with
      | .barrier b phase, some w =>
        if (w.bar b).phase != phase then s.setSheaf sheaf { sh with wait := .none, readyAt := s.clk + 2 } else s
      | _, _ => s)

/-- SLEEP_EXPIRY (R186). -/
def execSleepExpiry (sheaf : Nat) (s : State) : Out :=
  .next (match s.sheaf sheaf with
    | none => s
    | some sh =>
      match sh.wait with
      | .sleep t => if t ≤ s.clk then s.setSheaf sheaf { sh with wait := .none, readyAt := s.clk } else s
      | _ => s)

/-! Barrier objects (R348 to R350). -/

/-- The address of the lowest executing thread's object, and its offset where it lies in the workgroup's own region. -/
def Ctx.boAddr (c : Ctx) (o : Ops) : DWord := c.ea o c.lead
def Ctx.boOwn (c : Ctx) (o : Ops) : Option Nat := match c.s.locate c.w (c.boAddr o) with | some (.own off) => some off | _ => none

/-- The check of R350 that fails, if any: the spaces reached, the alignment, INIT, and the operand's range. -/
def Ctx.boFault (c : Ctx) (i : Instr) (o : Ops) (b : Word) : Option Nat :=
  let peer := match i, c.s.locate c.w (c.boAddr o) with | .boarr _, some (.peer _ _) => true | _, _ => false
  match c.boOwn o with
  | none => if peer then (if (c.boAddr o).toNat % 16 != 0 then some causeMisaligned else none) else some causeAddress
  | some off =>
    if off % 16 != 0 then some causeMisaligned
    else
      let x := c.s.boAt c.w.core off
      match i with
      | .boinit _ => if 2 ^ 31 ≤ b.toNat then some causeIllegalOperand else none
      | .boexp _ => if !x.init || x.expOut b then some causeIllegalOperand else none
      | _ => if !x.init then some causeIllegalOperand else none

/-- Whether an earlier request of the sheaf to the object's block is still on its way. -/
def Ctx.boBusy (c : Ctx) (o : Ops) : Bool :=
  c.s.blockBusy c.k (c.boAddr o)

/-- BOINIT, BOEXP and BOARR: one request to the object's bank. -/
def Ctx.boStart (c : Ctx) (i : Instr) (o : Ops) (f : Form) : State :=
  let b : Word := (srcValue c.sh c.ext f.b o.b c.lead).extractLsb' 0 32
  if c.e == 0 then (c.s.setSheaf c.k (c.sh.advance i)).finish c.k o.hd 1
  else if c.s.acquirePending c.k || c.s.releasePending c.k || c.boBusy o then c.s
  else
    match c.boFault i o b with
    | some cause => c.s.issueTrap c.k i cause 0 c.e c.e
    | none =>
      c.startEntry i o ((threadsOf c.e).map (fun t => (t, ({ addr := c.boAddr o, data := b.setWidth 128, data2 := 0 } : ThreadReq)))) false 1

/-- BOINIT (R350). -/
def execBoinit (o : Ops) (s : State) : Out := runGeneral s (.boinit o) (fun c f => c.boStart (.boinit o) o f)
/-- BOEXP (R349, R350). -/
def execBoexp (o : Ops) (s : State) : Out := runGeneral s (.boexp o) (fun c f => c.boStart (.boexp o) o f)
/-- BOARR (R349, R350): the phase before goes to the executing threads. -/
def execBoarr (o : Ops) (s : State) : Out := runGeneral s (.boarr o) (fun c f => c.boStart (.boarr o) o f)

/-- BOWAIT (R350): waits while PHASE equals bit 0 of its token, then acquires. -/
def execBowait (o : Ops) (s : State) : Out :=
  runGeneral s (.bowait o) (fun c f =>
    let i : Instr := .bowait o
    let token := (srcValue c.sh c.ext f.b o.b c.lead).getLsbD 0
    if c.e == 0 then (c.s.setSheaf c.k (c.sh.advance i)).finish c.k o.hd 1
    else if c.s.acquirePending c.k || c.s.releasePending c.k || c.boBusy o then c.s
    else
      match c.boFault i o 0, c.boOwn o with
      | none, some off =>
        let done := (c.s.setSheaf c.k (c.sh.advance i)).finish c.k o.hd 1
        if (c.s.boAt c.w.core off).phase == token then
          done.onSheaf c.k (fun x => { x with wait := .object (c.boAddr o) token (if i.acquires then some i.scopeOf else none) })
        else if i.acquires then done.acquire (slotCore c.k) i.scopeOf
        else done
      | some cause, _ => c.s.issueTrap c.k i cause 0 c.e c.e
      | none, none => c.s)

/-- BO_WAKE (R349, R350): a sheaf whose object's phase has flipped becomes ready, after its acquire. -/
def execBoWake (sheaf : Nat) (s : State) : Out :=
  .next (match s.sheaf sheaf with
    | none => s
    | some sh =>
      match sh.wait with
      | .object a phase acq =>
        if (s.boAt (slotCore sheaf) (a.toNat % 2 ^ 24)).phase != phase then
          (match acq with
          | some sc => s.acquire (slotCore sheaf) sc
          | none => s).setSheaf sheaf { sh with wait := .none, readyAt := s.clk + 2 }
        else s
      | _ => s)

end Sys2Proof.Machine
end

