-- ==== Sys2Proof/Machine/Allowance.lean ====
section
/-! DEFINITION. Meanings of the allowance instructions (R353, R356, R357, R362) and the steps of the allowance protocol at the cores,
the dies and the homes (R351 to R360, R415). -/

namespace Sys2Proof.Machine

/-! The instructions (R362). -/

/-- The check of R362 at issue that fails, if any. -/
def Ctx.alFault (c : Ctx) (i : Instr) (a : DWord) (t : DWord) (q : Word) : Option Nat :=
  match c.s.locate c.w a with
  | some (.dev _) => rest
  | some (.pod _ _) => rest
  | _ => some causeAddress
where
  rest : Option Nat :=
    if a.toNat % 64 != 0 then some causeMisaligned
    else match i with
      | .alinit _ => if q.toNat / 65536 < q.toNat % 65536 || t.getLsbD 63 then some causeIllegalOperand else none
      | _ => none

/-- An allowance instruction: the counter is the lowest executing thread's; every executing thread brings its own amount. -/
def Ctx.alBegin (c : Ctx) (i : Instr) (o : Ops) (f : Form) : State :=
  let a := c.ea o c.lead
  let t := srcValue c.sh c.ext f.b o.b c.lead
  let q : Word := (srcValue c.sh c.ext f.c o.c c.lead).extractLsb' 0 32
  if c.e == 0 then (c.s.setSheaf c.k (c.sh.advance i)).finish c.k o.hd 1
  else if !c.s.windowFree c.k i then c.s
  else
    match c.alFault i a t q with
    | some cause => c.s.issueTrap c.k i cause 0 c.e c.e
    | none =>
      c.startEntry i o ((threadsOf c.e).map (fun x =>
        (x, ({ addr := a, data := (srcValue c.sh c.ext f.b o.b x).setWidth 128, data2 := q.setWidth 64 } : ThreadReq)))) false
        (c.memOccupancy (addressAffine c.sh o.a))

/-- ALINIT (R351, R362). -/
def execAlinit (o : Ops) (s : State) : Out := runGeneral s (.alinit o) (fun c f => c.alBegin (.alinit o) o f)
/-- ALTAKE (R353). -/
def execAltake (o : Ops) (s : State) : Out := runGeneral s (.altake o) (fun c f => c.alBegin (.altake o) o f)
/-- ALGIVE (R356). -/
def execAlgive (o : Ops) (s : State) : Out := runGeneral s (.algive o) (fun c f => c.alBegin (.algive o) o f)
/-- ALREAD (R357). -/
def execAlread (o : Ops) (s : State) : Out := runGeneral s (.alread o) (fun c f => c.alBegin (.alread o) o f)
/-- ALPEEK (R357). -/
def execAlpeek (o : Ops) (s : State) : Out := runGeneral s (.alpeek o) (fun c f => c.alBegin (.alpeek o) o f)
/-- ALCLOSE (R357). -/
def execAlclose (o : Ops) (s : State) : Out := runGeneral s (.alclose o) (fun c f => c.alBegin (.alclose o) o f)

/-! Answers to threads. -/

/-- The answer to one thread of an entry: its value, or its failure; with the last one the block is done. -/
def State.answerThread (s : State) (id : Nat) (base : DWord) (t : Nat) (v : Option (BitVec 128)) (cause : BitVec 8) : State :=
  match mapFind s.win id with
  | none => s
  | some e =>
    match e.blks.find? (fun b => b.base == base && b.stage == .sent) with
    | none => s
    | some b =>
      let s := match v with | some x => s.giveValue e t x | none => s
      let left := e.left &&& ~~~(threadBit t)
      let s := { s with win := mapModify s.win id (fun e =>
        { e with left := left, fails := if v.isNone then mapInsert e.fails t cause else e.fails }) }
      if b.mask &&& left == 0 then (s.setBlk id base .done).closeEntry id else s

/-- Whether a thread of an entry still waits for its answer. -/
def State.threadWaits (s : State) (id : Nat) (base : DWord) (t : Nat) : Bool :=
  match mapFind s.win id with
  | some e => e.left.getLsbD t && e.blks.any (fun b => b.base == base && b.stage == .sent && b.mask.getLsbD t)
  | none => false

/-! The core's level (R353, R415). -/

/-- A core's queued takes served as far as its units go; the first that they do not cover asks for a refill, once; a core that
records SCARCE sends them all on as exact takes, but for one whose own request is on its way; at a lost allowance they all fail (R360). -/
def State.alServe : Nat → State → Nat → AlKey → State
  | 0, s, _, _ => s
  | fuel + 1, s, core, k =>
    match s.alCore core k with
    | none => s
    | some e =>
      match e.queue with
      | [] => s
      | t :: rest =>
        let up (s : State) (t : AlTake) : State :=
          s.sendAl (.core core) (alSlice (coreDie core) k) (.take (coreDie core) t) k.asid
        if e.poison then
          State.alServe fuel ((s.putAlCore core { e with queue := rest, asked := false }).answerSelf core
            (.fail k core t.entry t.thread (BitVec.ofNat 8 causeAllowPoison) none)) core k
        else if e.scarce then
          let s := s.putAlCore core { e with queue := rest, asked := false }
          State.alServe fuel (if e.asked then s else up s { t with exact := true, want := t.n }) core k
        else if t.n ≤ e.units then
          State.alServe fuel ((s.putAlCore core { e with queue := rest, units := e.units - t.n, asked := false }).answerSelf core
            (.answer (coreDie core) t t.n none)) core k
        else if e.asked then s
        else up (s.putAlCore core { e with asked := true }) { t with want := (s.quanta k).1 + t.n - e.units }

/-- The takes that a core holds. -/
def State.alServeAll (s : State) (core : Nat) (k : AlKey) : State :=
  match s.alCore core k with
  | some e => State.alServe (e.queue.length + 1) s core k
  | none => s

/-- A take out of its core's queue. -/
def State.alPop (s : State) (core : Nat) (k : AlKey) (entry thread : Nat) : State :=
  match s.alCore core k with
  | some e =>
    let mine (t : AlTake) : Bool := t.entry == entry && t.thread == thread
    s.putAlCore core { e with queue := e.queue.filter (fun t => !mine t), asked := e.asked && !(e.queue.take 1).any mine }
  | none => s

/-- The takes of an entry forgotten at a core: it waits for its counter's page, or is abandoned. -/
def State.alForget (s : State) (core : Nat) (k : AlKey) (entry : Nat) : State :=
  match s.alCore core k with
  | some e =>
    let first := match e.queue with | t :: _ => t.entry == entry | [] => false
    let s := s.putAlCore core { e with queue := e.queue.filter (fun t => t.entry != entry), asked := e.asked && !first }
    if first then s.alServeAll core k else s
  | none => s

/-! The die's level (R353 to R356). -/

/-- A take at a die slice (R353, R415); one at a lost allowance fails (R360). -/
def State.takeAtDie (s : State) (die : Nat) (t : AlTake) : State :=
  let here := alSlice die t.key
  let up (s : State) (t : AlTake) : State := s.sendUp die t.key (.take die t)
  let e := (s.alDieOf die t.key).getD (AlDie.fresh t.key s.clk)
  let qd := (s.quanta t.key).2
  if e.poison then s.sendAl here (.core t.core) (.fail t.key t.core t.entry t.thread (BitVec.ofNat 8 causeAllowPoison) none) t.key.asid
  else if t.exact then up s t
  else if e.scarce then up s { t with exact := true, want := t.n }
  else if !e.recalling.isEmpty then up s { t with wantHome := qd + t.want }
  else if t.want ≤ e.units then
    (s.putAlDie die
      { e with
        units := e.units - t.want
        cores := if e.cores.contains t.core then e.cores else e.cores ++ [t.core]
        used := s.clk }).sendAl here (.core t.core) (.grant die t t.want 0) t.key.asid
  else up s { t with wantHome := qd + t.want - e.units }

/-- AL_TAKE_AT_DIE (R353). -/
def execAlTakeAtDie (s : State) : Out :=
  .next (match s.receiveAny (fun a m => match a, m with | .slice d _, .al (.take _ t) => some (d, t) | _, _ => none) with
    | none => s
    | some ((d, t), _, s) => s.takeAtDie d t)

/-! The home (R351, R353 to R357). -/

def State.alHomeAt (s : State) (k : AlKey) : AlHome :=
  (s.alHome.find? (fun h => h.key == k)).getD { key := k, queue := [], dies := [], pkgs := [], recalling := false }
def State.putAlHome (s : State) (h : AlHome) : State :=
  { s with alHome := if h.queue.isEmpty && !h.recalling then s.alHome.filter (fun x => x.key != h.key) else putBy (fun x => x.key == h.key) h s.alHome }

/-- The counter's block written through the memory-side cache; its tag is set where one is given. -/
def State.setCounterBlk (s : State) (k : AlKey) (dpa : Nat) (b : Blk) (tag : Option Tag) : State :=
  (s.mscAccess k.asid k.va dpa).storeBlk dpa k.asid b (BitVec.allOnes 64) tag false

/-- The bound at and below which a counter is SCARCE: 8 · Q_DIE · D (R354, R355). -/
def State.scarceBound (s : State) (k : AlKey) (b : Blk) : Nat :=
  8 * ctrQDie b * ((s.discovery (s.ctx k.asid)).row (ctrScope b)).getD 2 0

/-- The answer of an exact take: what it gets of a reserve (R354). -/
def exactGrant (t : AlTake) (reserve : Nat) : Nat := if t.part then min t.n reserve else if t.n ≤ reserve then t.n else 0

/-- The state that an answer of the home carries (R415): none where the block is no counter. -/
def State.alStateAt (s : State) (dpa : Nat) : Option Nat := if s.memTagAt dpa == 0xA000 then some (ctrState (s.memBlk dpa)) else none
/-- A failure sent to a thread, or to every thread of an entry (thread 32), from a home that has read the block alone; it passes the die's slice
(R415). -/
def State.alFail (s : State) (k : AlKey) (dpa core entry thread cause : Nat) : State :=
  (s.tagAccess k.asid k.va dpa).sendAl (alHomeOf k) (alSlice (coreDie core) k)
    (.fail k core entry thread (BitVec.ofNat 8 cause) (s.alStateAt dpa)) k.asid
/-- A value sent to an entry, by way of the die's slice, with the counter's state. -/
def State.alValue (s : State) (k : AlKey) (core entry : Nat) (v : DWord) (state : Option Nat) : State :=
  s.sendAl (alHomeOf k) (alSlice (coreDie core) k) (.value k core entry v state) k.asid

/-- The state that a counter takes with everything at its home (R354 step 5, R357). -/
def State.alStateOf (s : State) (k : AlKey) (b : Blk) : Nat :=
  if ctrState b == 2 then 2 else if ctrReserve b ≤ s.scarceBound k b then 1 else 0

/-- One waiter of a home queue served while no recall runs (R354, R357, R360): after a read the counter takes the state of what is then in
RESERVE. -/
def State.alServeWaiter (s : State) (k : AlKey) (dpa : Nat) (w : AlWaiter) : State :=
  let b := s.memBlk dpa
  let dead := s.memTagAt dpa != 0xA000
  match w with
  | .take die t =>
    if dead then s.alFail k dpa t.core t.entry t.thread causeAllowState
    else if ctrState b == 2 then s.alFail k dpa t.core t.entry t.thread causeAllowPoison
    else
      let n := exactGrant t (ctrReserve b)
      (s.setCounterBlk k dpa (blkSetNat b 0 8 (ctrReserve b - n)) none).sendAl (alHomeOf k) (alSlice die k) (.answer die t n (some (ctrState b))) k.asid
  | .read core entry close =>
    if dead then s.alFail k dpa core entry 32 causeAllowState
    else
      let v := if ctrState b == 2 then 2 ^ 64 - 1 else ctrReserve b
      let st := s.alStateOf k b
      (if close then s.setCounterBlk k dpa (BitVec.ofNat 512 v) (some 0) else s.setCounterBlk k dpa (ctrSetState b false st) none).alValue k core entry
        (BitVec.ofNat 64 v) (some st)

/-- A whole home queue served, in order. -/
def State.alServeQueue (s : State) (k : AlKey) (dpa : Nat) : State :=
  let h := s.alHomeAt k
  h.queue.foldl (fun s w => s.alServeWaiter k dpa w) (s.putAlHome { h with queue := [] })

/-- The end of a recall round (R354 steps 5 and 6). -/
def State.alRoundDone (s : State) (k : AlKey) (dpa : Nat) : State :=
  let b := s.memBlk dpa
  let b := blkSetNat (blkSetNat (blkSetNat (ctrSetState b false (s.alStateOf k b)) 16 2 0) 24 8 0) 32 8 (ctrRecalls b + 1)
  let s := (s.setCounterBlk k dpa b none).putAlHome { s.alHomeAt k with recalling := false, dies := [], pkgs := [] }
  s.alServeQueue k dpa

/-- A recall round started for every die in DIE_MASK (R354 step 1); with empty masks it is over at once. -/
def State.alRecall (s : State) (k : AlKey) (dpa : Nat) : State :=
  let b := s.memBlk dpa
  let dies := (List.range 9).filter (fun d => (ctrDieMask b).testBit d)
  if dies.isEmpty then s.alRoundDone k dpa
  else
    let s := (s.setCounterBlk k dpa (ctrSetState b true (ctrState b)) none).putAlHome { s.alHomeAt k with recalling := true, dies := dies }
    dies.foldl (fun s d => s.sendAl (alHomeOf k) (alSlice d k) (.recalling k false) k.asid) s

/-- A waiter joins the home queue; outside a round, one is started for a take; a read needs one unless the masks are empty. -/
def State.alEnqueue (s : State) (k : AlKey) (dpa : Nat) (w : AlWaiter) : State :=
  let h := s.alHomeAt k
  let s := s.putAlHome { h with queue := h.queue ++ [w] }
  if h.recalling then s
  else
    match w with
    | .take _ _ => s.alRecall k dpa
    | .read _ _ _ =>
      if ctrDieMask (s.memBlk dpa) == 0 && ctrPkgMask (s.memBlk dpa) == 0 then s.alServeQueue k dpa else s.alRecall k dpa

/-- A take at its counter's home (R353, R355, R415): exact at a SCARCE counter. -/
def State.takeAtHome (s : State) (die : Nat) (t : AlTake) (dpa : Nat) : State :=
  let b := s.memBlk dpa
  let k := t.key
  let h := s.alHomeAt k
  if s.memTagAt dpa != 0xA000 then s.alFail k dpa t.core t.entry t.thread causeAllowState
  else if ctrState b == 2 then s.alFail k dpa t.core t.entry t.thread causeAllowPoison
  else if h.recalling then s.putAlHome { h with queue := h.queue ++ [.take die t] }
  else if ctrState b == 1 then s.alServeWaiter k dpa (.take die t)
  else
    let want := if t.exact then t.n else t.wantHome
    if want ≤ ctrReserve b then
      (if t.exact then s.alServeWaiter k dpa (.take die t)
      else
        let b := blkSetNat (blkSetNat b 0 8 (ctrReserve b - want)) 16 2 (ctrDieMask b ||| 2 ^ die)
        (s.setCounterBlk k dpa b none).sendAl (alHomeOf k) (alSlice die k) (.grant die t want 0) k.asid)
    else s.alEnqueue k dpa (.take die t)

/-- The page fault of a counter's block, as its entry meets it (R362). -/
def State.alFaulted (s : State) (k : AlKey) (core entry : Nat) (t : Word) : State :=
  s.send (alHomeOf k) (.core core) 0 (s.partOf k.asid)
    (.data { asid := k.asid, va := k.va, asker := .entry entry, kind := .atomic, pol := 1, l1 := false, epoch := 0, ovl := 0,
             overM := 0, overT := none, bulk := false, place := 0 } (BlkAns.failed (.fault t)))

/-- An allowance message at a home goes on: not while its channel switches its rate (R403), and not at the lost heap 14, where its thread, or every
thread of its entry, fails (R383). -/
def State.alOn (s : State) (k : AlKey) (core entry thread dpa : Nat) (f : State → Nat → State) : Option State :=
  if s.channelWaits dpa then none
  else if s.lostAt k.va then
    some ((s.lostAccess dpa).sendAl (alHomeOf k) (alSlice (coreDie core) k) (.fail k core entry thread (BitVec.ofNat 8 causeExpanderLost) none) k.asid)
  else some (f s dpa)

/-- What the tables make of an allowance message at its home. -/
def State.alSettled (s : State) (m : AlMsg) (core entry thread : Nat) (k : AlKey) (f : State → Nat → State) : Option State :=
  match (homeAsk (.al m)).map (fun a => s.ask a) with
  | some (.pending t) => some (s.alFaulted k core entry t)
  | some (.ok dpa _) => s.alOn k core entry thread dpa f
  | _ => none

/-- The same for a message that no thread waits for: units that come back. -/
def State.alBack (s : State) (k : AlKey) (f : State → Nat → State) : Option State :=
  match s.dpaOf k.asid k.va with
  | some dpa => if s.channelWaits dpa then none else some (f s dpa)
  | none => some s

/-- AL_TAKE_AT_HOME (R353): the first take at a home that its tables settle. -/
def execAlTakeAtHome (s : State) : Out :=
  .next (s.firstEnabled (fun s p =>
    match p.dst, p.msg with
    | .home _, .al (.take die t) => s.alSettled (.take die t) t.core t.entry t.thread t.key (fun s dpa => s.takeAtHome die t dpa)
    | _, _ => none))

/-- ALINIT at the home (R351, R362). -/
def State.alInit (s : State) (o : Ops) (k : AlKey) (core entry : Nat) (r : ThreadReq) (dpa : Nat) : State :=
  if eaHeap k.va == 13 then s.alFail k dpa core entry 32 causeFormat
  else if s.memTagAt dpa == 0xA000 then s.alFail k dpa core entry 32 causeAllowState
  else
    let scope := actsAs o.attr.scope.toNat
    let b : Blk := blkSetNat (blkSetNat (blkSetNat (blkSetNat 0 0 8 (r.data.toNat % 2 ^ 64)) 8 4 (r.data2.toNat % 2 ^ 32)) 12 1
      (if o.attr.ispec.getLsbD 0 then 1 else 0)) 13 1 scope
    (s.setCounterBlk k dpa b (some 0xA000)).alValue k core entry 0 (some 0)

/-- ALREAD, ALCLOSE, ALINIT and a peek whose page was unmapped, at the home. -/
def State.alOp (s : State) (i : Instr) (k : AlKey) (core entry : Nat) (r : ThreadReq) (dpa : Nat) : State :=
  match i with
  | .alinit o => s.alInit o k core entry r dpa
  | .alpeek _ =>
    if s.memTagAt dpa != 0xA000 then s.alFail k dpa core entry 32 causeAllowState
    else if ctrState (s.memBlk dpa) == 2 then s.alFail k dpa core entry 32 causeAllowPoison
    else (s.tagAccess k.asid k.va dpa).alValue k core entry 0 (s.alStateAt dpa)
  | .alclose _ => if s.memTagAt dpa != 0xA000 then s.alFail k dpa core entry 32 causeAllowState else s.alEnqueue k dpa (.read core entry true)
  | _ => if s.memTagAt dpa != 0xA000 then s.alFail k dpa core entry 32 causeAllowState else s.alEnqueue k dpa (.read core entry false)

/-- ALREAD_ALCLOSE_AT_HOME (R357): the first instruction at a counter's home that its tables settle. -/
def execAlreadAlcloseAtHome (s : State) : Out :=
  .next (s.firstEnabled (fun s p =>
    match p.dst, p.msg with
    | .home _, .al (.op i k core entry lead r) =>
      s.alSettled (.op i k core entry lead r) core entry 32 k (fun s dpa => s.alOp i k core entry r dpa)
    | _, _ => none))

/-! Grants, recalls, returns, gives (R353 to R356). -/

/-- A grant at a die: its units join the die's allowance, and the core's request is served from it. -/
def State.grantAtDie (s : State) (die : Nat) (t : AlTake) (units : Nat) : State :=
  let e := (s.alDieOf die t.key).getD (AlDie.fresh t.key s.clk)
  let e := { e with units := e.units + units, held := true, scarce := false }
  if e.recalling.isEmpty then (s.putAlDie die e).takeAtDie die t
  else (s.putAlDie die e).sendUp die t.key (.take die { t with wantHome := (s.quanta t.key).2 + t.want })

/-- A grant at a core: its units join the core's allowance, and the queued takes are served; a take that a recall found on its
way stands before them. -/
def State.grantAtCore (s : State) (t : AlTake) (units : Nat) : State :=
  let e := (s.alCore t.core t.key).getD (AlCore.fresh t.key s.clk)
  let mine (x : AlTake) : Bool := x.entry == t.entry && x.thread == t.thread
  let lost := !e.queue.any mine && s.threadWaits t.entry t.key.va t.thread
  (s.putAlCore t.core
    { e with
      units := e.units + units
      held := true
      scarce := false
      queue := if lost then t :: e.queue else e.queue
      asked := e.asked && !(e.queue.take 1).any mine
      used := s.clk }).alServeAll t.core t.key

/-- AL_GRANT (R353, R359): the first grant at a die or a core; a full die first makes room for its entry. -/
def execAlGrant (s : State) : Out :=
  .next (match s.alMakeRoom (fun m => match m with | .grant _ _ _ _ => true | _ => false) with
    | some t => t
    | none => s.firstEnabled (fun s p => match p.dst, p.msg with
      | .slice d _, .al (.grant _ t n _) => if s.alDieFull d t.key then none else some (s.grantAtDie d t n)
      | .core _, .al (.grant _ t n _) => some (s.grantAtCore t n)
      | _, _ => none))

/-- A die's return sent once every recalled core has answered: to the round, or as an eviction. -/
def State.dieReturns (s : State) (die : Nat) (e : AlDie) : State :=
  (s.dropAlDie die e.key).sendUp die e.key (if e.evict then .give e.key die e.units none else .ret e.key die 256 e.units e.poison)

/-- A recall at a die (R354 step 2). -/
def State.recallAtDie (s : State) (die : Nat) (k : AlKey) : State :=
  let e := (s.alDieOf die k).getD (AlDie.fresh k s.clk)
  let e := { e with evict := false }
  if !e.recalling.isEmpty then s.putAlDie die e
  else if e.cores.isEmpty then s.dieReturns die e
  else
    e.cores.foldl (fun s c => s.sendAl (alSlice die k) (.core c) (.recalling k false) k.asid) (s.putAlDie die { e with recalling := e.cores })

/-- A recall at a core (R354 step 3): the units go back, the entry is freed, queued takes go on as exact ones; the first is on its
way already where it has asked for a refill. -/
def State.recallAtCore (s : State) (core : Nat) (k : AlKey) : State :=
  let die := coreDie core
  let e := (s.alCore core k).getD (AlCore.fresh k s.clk)
  ((s.dropAlCore core k).sendAl (.core core) (alSlice die k) (.ret k die core e.units e.poison) k.asid).sendQueued core e

/-- AL_RECALL (R354): the first recall at a die or a core. -/
def execAlRecall (s : State) : Out :=
  .next (match s.receiveAny (fun a m => match a, m with
      | .slice d _, .al (.recalling k _) => some (some d, 0, k)
      | .core c, .al (.recalling k _) => some (none, c, k)
      | _, _ => none) with
    | none => s
    | some ((some d, _, k), _, s) => s.recallAtDie d k
    | some ((none, c, k), _, s) => s.recallAtCore c k)

/-- Units returned to a die by one of its cores (R354 step 4). -/
def State.returnAtDie (s : State) (die : Nat) (k : AlKey) (core units : Nat) (poison : Bool) : State :=
  let e := (s.alDieOf die k).getD (AlDie.fresh k s.clk)
  let e := { e with
    units := e.units + units
    poison := e.poison || poison
    recalling := e.recalling.filter (fun c => c != core)
    cores := e.cores.filter (fun c => c != core) }
  if e.recalling.isEmpty then s.dieReturns die e else s.putAlDie die e

/-- Units returned to the home by a die (R354 step 5). -/
def State.returnAtHome (s : State) (k : AlKey) (die units : Nat) (poison : Bool) (dpa : Nat) : State :=
  let b := s.memBlk dpa
  let b := blkSetNat b 0 8 (ctrReserve b + units)
  let b := if poison then ctrSetState b (ctrRecalling b) 2 else b
  let h := s.alHomeAt k
  let h := { h with dies := h.dies.filter (fun d => d != die) }
  let s := (s.setCounterBlk k dpa b none).putAlHome h
  if h.recalling && h.dies.isEmpty then s.alRoundDone k dpa else s

/-- AL_RETURN (R354): the first return at a die or a home. -/
def execAlReturn (s : State) : Out :=
  .next (s.firstEnabled (fun s p => match p.dst, p.msg with
    | .slice d _, .al (.ret k _ core n p) => some (s.returnAtDie d k core n p)
    | .home _, .al (.ret k die _ n p) => s.alBack k (fun s dpa => s.returnAtHome k die n p dpa)
    | _, _ => none))

/-- A give performed at a die: its thread, if one waits, is told. -/
def State.giveDone (s : State) (here : Agent) (k : AlKey) (from_ : Option (Nat × Nat × Nat)) : State :=
  match from_ with
  | some (core, entry, thread) => s.sendAl here (.core core) (.value k core entry (BitVec.ofNat 64 thread) none) k.asid
  | none => s

/-- Units given at a die (R356): added to a held allowance, with the excess above twice the quantum passed on; otherwise sent on. -/
def State.giveAtDie (s : State) (die : Nat) (k : AlKey) (n : Nat) (from_ : Option (Nat × Nat × Nat)) : State :=
  let here := alSlice die k
  let up (s : State) (n : Nat) (f : Option (Nat × Nat × Nat)) : State := s.sendUp die k (.give k die n f)
  match s.alDieOf die k, from_ with
  | some e, some (core, entry, thread) =>
    if s.alNoGive k then s.sendAl here (.core core) (.fail k core entry thread (BitVec.ofNat 8 causeAllowState) none) k.asid
    else if e.poison then s.sendAl here (.core core) (.fail k core entry thread (BitVec.ofNat 8 causeAllowPoison) none) k.asid
    else apply e up here
  | some e, none => apply e up here
  | none, _ => up s n from_
where
  apply (e : AlDie) (up : State → Nat → Option (Nat × Nat × Nat) → State) (here : Agent) : State :=
    if e.scarce || !e.held || !e.recalling.isEmpty then up s n from_
    else
      let limit := 2 * (s.quanta k).2
      let total := e.units + n
      let e := { e with used := s.clk }
      let s := if limit < total then up (s.putAlDie die { e with units := limit }) (total - limit) none else s.putAlDie die { e with units := total }
      s.giveDone here k from_

/-- Units given at the home (R355, R356): the reserve wraps modulo 2^64, and a SCARCE counter above its bound is NORMAL again. -/
def State.giveAtHome (s : State) (k : AlKey) (n : Nat) (from_ : Option (Nat × Nat × Nat)) (dpa : Nat) : State :=
  let b := s.memBlk dpa
  let fail (cause : Nat) : State := match from_ with | some (core, entry, thread) => s.alFail k dpa core entry thread cause | none => s
  if s.memTagAt dpa != 0xA000 then fail causeAllowState
  else if from_.isSome && ctrState b == 2 then fail causeAllowPoison
  else if from_.isSome && ctrNoGive b then fail causeAllowState
  else
    let b := blkSetNat b 0 8 (ctrReserve b + n)
    let b := if ctrState b == 1 && s.scarceBound k b < ctrReserve b then ctrSetState b (ctrRecalling b) 0 else b
    let s := s.setCounterBlk k dpa b none
    match from_ with
    | some (core, entry, thread) => s.alValue k core entry (BitVec.ofNat 64 thread) (some (ctrState b))
    | none => s

/-- AL_GIVE_FORWARD (R356): the first give at a die, or at a home whose tables settle it. -/
def execAlGiveForward (s : State) : Out :=
  .next (s.firstEnabled (fun s p =>
    match p.dst, p.msg with
    | .slice d _, .al (.give k _ n f) => some (s.giveAtDie d k n f)
    | .home _, .al (.give k die n (some (core, entry, thread))) =>
      s.alSettled (.give k die n (some (core, entry, thread))) core entry thread k (fun s dpa => s.giveAtHome k n (some (core, entry, thread)) dpa)
    | .home _, .al (.give k _ n none) => s.alBack k (fun s dpa => s.giveAtHome k n none dpa)
    | _, _ => none))

/-- AL_POISON (R360): the home's counter becomes POISONED. -/
def execAlPoison (s : State) : Out :=
  .next (match s.receiveAny (fun a m => match a, m with | .home _, .al (.poison k) => some k | _, _ => none) with
    | none => s
    | some (k, _, s) =>
      match s.counter k with
      | some (dpa, b) => if s.memTagAt dpa == 0xA000 then s.setCounterBlk k dpa (ctrSetState b (ctrRecalling b) 2) none else s
      | none => s)

/-! Answers (R359, R415). -/

/-- The record of a counter's state at a die that an answer passes: SCARCE is recorded, any other state drops the record. -/
def State.recordAtDie (s : State) (die : Nat) (k : AlKey) (state : Option Nat) : State :=
  match state, s.alDieOf die k with
  | none, _ => s
  | some 1, e => s.putAlDie die { e.getD (AlDie.fresh k s.clk) with scarce := true, used := s.clk }
  | some _, some e =>
    if !e.scarce then s
    else if e.held || !e.recalling.isEmpty then s.putAlDie die { e with scarce := false }
    else s.dropAlDie die k
  | some _, none => s

/-- The record at the core that an answer reaches. -/
def State.recordAtCore (s : State) (core : Nat) (k : AlKey) (state : Option Nat) : State :=
  match state, s.alCore core k with
  | none, _ => s
  | some 1, e => s.putAlCore core { e.getD (AlCore.fresh k s.clk) with scarce := true, used := s.clk }
  | some _, some e =>
    if !e.scarce then s
    else if e.held || !e.queue.isEmpty then s.putAlCore core { e with scarce := false }
    else s.dropAlCore core k
  | some _, none => s

/-- Units whose take the sheaf has abandoned (R359): they join the core's allowance, or go on as a give. -/
def State.unclaimed (s : State) (core : Nat) (k : AlKey) (units : Nat) : State :=
  match s.alCore core k with
  | some e =>
    if e.held && !e.scarce then s.putAlCore core { e with units := e.units + units }
    else s.sendAl (.core core) (alSlice (coreDie core) k) (.give k (coreDie core) units none) k.asid
  | none => s.sendAl (.core core) (alSlice (coreDie core) k) (.give k (coreDie core) units none) k.asid

/-- A take's answer at its core: its own, without a state, or one that comes from the home. -/
def State.takeAnswered (s : State) (t : AlTake) (units : Nat) (state : Option Nat) : State :=
  let s := if state.isNone then s else (s.alPop t.core t.key t.entry t.thread).recordAtCore t.core t.key state
  let s := if s.threadWaits t.entry t.key.va t.thread then s.answerThread t.entry t.key.va t.thread (some (BitVec.ofNat 128 units)) 0
    else if units == 0 then s else s.unclaimed t.core t.key units
  if state.isNone then s else s.alServeAll t.core t.key

/-- A failure at its core: of one thread, or of every thread of the entry. -/
def State.alFailed (s : State) (k : AlKey) (core entry thread : Nat) (cause : BitVec 8) (state : Option Nat) : State :=
  let s := s.recordAtCore core k state
  (if thread < 32 then (s.alPop core k entry thread).answerThread entry k.va thread none cause
  else
    match mapFind s.win entry with
    | some e => s.answerBlk entry k.va [] ((threadsOf e.left).map (fun t => (t, cause.toNat)))
    | none => s).alServeAll core k

/-- A value at its core: of a give, the thread that is done; otherwise the value of every thread of the entry. -/
def State.alValued (s : State) (k : AlKey) (core entry : Nat) (v : DWord) (state : Option Nat) : State :=
  let s := s.recordAtCore core k state
  (match mapFind s.win entry with
  | none => s
  | some e =>
    match e.instr with
    | .algive _ => s.answerThread entry k.va v.toNat (some 0) 0
    | _ => s.answerBlk entry k.va ((threadsOf e.left).map (fun t => (t, v.setWidth 128))) []).alServeAll core k

/-- The core and the state of an answer of the home. -/
def AlMsg.answerTo (m : AlMsg) : Option (Nat × Option Nat) :=
  match m with
  | .answer _ t _ st => some (t.core, st)
  | .fail _ c _ _ _ st => some (c, st)
  | .value _ c _ _ st => some (c, st)
  | _ => none

/-- AL_ANSWER (R359, R415): the first answer at a die, which records its state and passes it on, or at a core; a full die first makes room for its
record. -/
def execAlAnswer (s : State) : Out :=
  .next (match s.alMakeRoom (fun m => match m.answerTo with | some (_, some 1) => true | _ => false) with
    | some t => t
    | none => s.firstEnabled (fun s p => match p.dst, p.msg with
      | .slice d _, .al m => (match m.answerTo with
        | some (c, st) =>
          if st == some 1 && s.alDieFull d m.key then none
          else some ((s.recordAtDie d m.key st).sendAl (alSlice d m.key) (.core c) m m.key.asid)
        | none => none)
      | .core _, .al (.answer _ t n st) => some (s.takeAnswered t n st)
      | .core _, .al (.fail k c e t x st) => some (s.alFailed k c e t x st)
      | .core _, .al (.value k c e v st) => some (s.alValued k c e v st)
      | _, _ => none))

end Sys2Proof.Machine
end

