-- ==== Sys2Proof/Machine/Atomic.lean ====
section
/-! DEFINITION. Meanings of the atomic instructions of group 0x8 (R334 to R340). -/

namespace Sys2Proof.Machine

/-- Whether the host performs an atomic at SYSTEM scope (R337). -/
def hostAtomic (i : Instr) : Bool :=
  let op (o : Ops) : Nat := o.mod.toNat % 16
  match i with
  | .atom o => op o == 0 || op o == 8
  | .atom64 o => op o == 0 || op o == 8
  | .cas _ => true
  | .cas64 _ => true
  | .red o => op o == 0
  | _ => false

/-- Whether the point table of R334 gives an atomic at a location no point. -/
def atomicUnsupported (i : Instr) (l : Option Loc) : Bool :=
  let sys := i.scopeOf == 7
  match l with
  | some (.dev h) => if h == 13 then !sys || !hostAtomic i else sys
  | _ => sys

/-- An atomic of group 0x8: b and c go with the address (R338 to R340). -/
def Ctx.atomicStart (c : Ctx) (i : Instr) (o : Ops) (f : Form) : State :=
  let bad := maskOf (fun t => c.e.getLsbD t && atomicUnsupported i (c.s.locate c.w (c.ea o t)))
  c.memStart i o (atomBytes i) false (if bad != 0 then some (causeAtomicUnsupported, bad) else none) (fun t =>
    { addr := c.ea o t, data := (srcValue c.sh c.ext f.b o.b t).setWidth 128, data2 := srcValue c.sh c.ext f.c o.c t })

/-- ATOM (R338, R339). -/
def execAtom (o : Ops) (s : State) : Out := runGeneral s (.atom o) (fun c f => c.atomicStart (.atom o) o f)
/-- ATOM64 (R338, R339). -/
def execAtom64 (o : Ops) (s : State) : Out := runGeneral s (.atom64 o) (fun c f => c.atomicStart (.atom64 o) o f)
/-- CAS (R338, R340). -/
def execCas (o : Ops) (s : State) : Out := runGeneral s (.cas o) (fun c f => c.atomicStart (.cas o) o f)
/-- CAS64 (R338, R340). -/
def execCas64 (o : Ops) (s : State) : Out := runGeneral s (.cas64 o) (fun c f => c.atomicStart (.cas64 o) o f)
/-- FATOM (R338, R339). -/
def execFatom (o : Ops) (s : State) : Out := runGeneral s (.fatom o) (fun c f => c.atomicStart (.fatom o) o f)
/-- HATOM2 (R338, R339). -/
def execHatom2 (o : Ops) (s : State) : Out := runGeneral s (.hatom2 o) (fun c f => c.atomicStart (.hatom2 o) o f)
/-- RED (R338, R339): no value comes back. -/
def execRed (o : Ops) (s : State) : Out := runGeneral s (.red o) (fun c f => c.atomicStart (.red o) o f)
/-- FRED (R338, R339): no value comes back. -/
def execFred (o : Ops) (s : State) : Out := runGeneral s (.fred o) (fun c f => c.atomicStart (.fred o) o f)

end Sys2Proof.Machine
end

