-- ==== Sys2Proof/Machine/Fetch.lean ====
section
/-! DEFINITION. The instruction cache and its lines (R119 to R124, R188), the constant cache (R47), and what reaches a sheaf from
them. Code and constant windows are read in the workgroup's own context. -/

namespace Sys2Proof.Machine

/-! Lines (R119, R121). -/

/-- The set of a line. -/
def icSet (va : DWord) : Nat := va.toNat / 128 % 128

def State.icFind (s : State) (core : Nat) (asid : BitVec 16) (line : DWord) : Option IcLine :=
  if s.lostAt line then none else (s.core core).ic.find? (fun l => l.asid == asid && l.va == line)

/-- The read of one block of a code line: bulk where only CFETCH has asked for the line (R344). -/
def State.readLineHalf (s : State) (core : Nat) (asid : BitVec 16) (va : DWord) (prio : Nat) : State :=
  s.send (.core core) (.slice (coreDie core) (sliceOf va)) prio (s.partOf asid)
    (.read { asid := asid, va := va, asker := .line, kind := .exec, pol := 1, l1 := false, epoch := 0, ovl := 0, overM := 0,
             overT := none, bulk := prio == 2, place := 0 })

/-- Outstanding misses sent, at most 16 at a time; both blocks leave together. -/
def State.sendMisses (s : State) (core : Nat) : State :=
  (s.core core).icMiss.foldl (fun s m =>
    if !m.sent && ((s.core core).icMiss.filter (fun x => x.sent)).length < 16 then
      let s := s.onCore core (fun c =>
        { c with icMiss := c.icMiss.map (fun x => if x.asid == m.asid && x.va == m.va then { x with sent := true } else x) })
      let prio := if !m.want.isEmpty && m.want.all (fun w => match w with | .code _ => true | _ => false) then 2 else 1
      (s.readLineHalf core m.asid m.va prio).readLineHalf core m.asid (m.va + 64) prio
    else s) s

/-- A line that the cache lacks is asked for; a request for a line with a miss outstanding joins it. -/
def State.askLine (s : State) (core : Nat) (asid : BitVec 16) (line : DWord) (want : List IcWant) : State :=
  if (s.core core).icMiss.any (fun m => m.asid == asid && m.va == line) then
    s.onCore core (fun c =>
      { c with icMiss := c.icMiss.map (fun m => if m.asid == asid && m.va == line then { m with want := m.want ++ want } else m) })
  else
    (s.onCore core (fun c =>
      let m : IcMiss := { asid := asid, va := line, lo := none, hi := none, fail := none, failAt := line, sent := false, stale := false, want := want }
      { c with icMiss := c.icMiss ++ [m] })).sendMisses core

/-- A line placed in its set; with 8 lines there, the least recently used unpinned one leaves (R119). -/
def Core.keepCode (c : Core) (l : IcLine) : Core :=
  let here := c.ic.filter (fun x => icSet x.va == icSet l.va && !(x.asid == l.asid && x.va == l.va))
  let rest := c.ic.filter (fun x => !(x.asid == l.asid && x.va == l.va))
  if here.length < 8 then { c with ic := rest ++ [l] }
  else
    match leastUsed (fun (x : IcLine) => x.used) (here.filter (fun x => !x.pinned)) with
    | some v => { c with ic := rest.filter (fun x => !(x.asid == v.asid && x.va == v.va)) ++ [l] }
    | none => c

/-- Whether a missing line is going to be pinned: a CPIN that the limits allow has asked for it. -/
def IcMiss.pins (m : IcMiss) : Bool := m.want.any (fun w => match w with | .pin _ _ _ _ => true | _ => false)

/-- The lines that count against R122's limits: those pinned, and those that are pinned when they come. -/
def Core.pinLines (c : Core) : List DWord :=
  (c.ic.filter (fun l => l.pinned)).map (fun l => l.va) ++ (c.icMiss.filter IcMiss.pins).map (fun m => m.va)

/-- Whether R122's limits allow one more pinned line in a line's set. -/
def Core.pinRoom (c : Core) (line : DWord) : Bool :=
  c.pinLines.length < 512 && (c.pinLines.filter (fun va => icSet va == icSet line)).length < 4

/-- A line of the cache pinned. -/
def State.pin (s : State) (core : Nat) (asid : BitVec 16) (line : DWord) : State :=
  s.onCore core (fun c =>
    { c with ic := c.ic.map (fun x => if x.asid == asid && x.va == line then { x with pinned := true } else x) })

/-- The slots of a workgroup's sheaf of an index. -/
def State.slotsOf (s : State) (wg idx : Nat) : List Nat :=
  (s.sheaves.filter (fun e => e.2.wg == wg && e.2.idx == idx)).map (fun e => e.1)

/-- The result of CPIN for the threads of one line: the destination is pending while another of its lines is outstanding, and an
ended sheaf leaves its slot with the last (R156, R185, R188). Under NW there is no destination. -/
def State.pinResult (s : State) (core wg idx : Nat) (d : Option Nat) (mask : TMask) (ok : Bool) : State :=
  match d with
  | none => s
  | some d =>
    let waits := (s.core core).icMiss.any (fun m => m.want.any (fun w => match w with
      | .pin g i r _ => g == wg && i == idx && r == some d
      | _ => false))
    let s := s.onMember wg idx (fun sh =>
      let sh := (threadsOf mask).foldl (fun sh t => sh.setReg d t (if ok then 1 else 0)) sh
      if waits then sh else sh.clearPend [d])
    (s.slotsOf wg idx).foldl State.reap s

/-- The slots of a core that fetch a line for a workgroup of an ASID. -/
def State.fetchers (s : State) (core : Nat) (asid : BitVec 16) (line : DWord) : List Nat :=
  (s.sheaves.filter (fun e => slotCore e.1 == core && (match e.2.fetching, mapFind s.wgs e.2.wg with
    | some l, some w => lineAt l == line && w.asid == asid
    | _, _ => false))).map (fun e => e.1)

/-- The address after a sheaf's instruction, as far as its words are there: the base word says whether another follows (R125). -/
def Sheaf.afterPc (sh : Sheaf) : DWord :=
  sh.pc + (match fetchWord sh.fbuf sh.pc with
    | some w => if w.getLsbD 63 then 16 else 8
    | none => 8)

/-- What a failed line does to the sheaves that fetch it (R124, R121, R381): a fault parks those that need it to issue, and the whole
instruction is fetched again afterwards; a failure traps them, consumed poison with a record; for the others the request is
dropped. The trap is owed until the sheaf issues: it may wait, or a response-time trap may be due (R371, R373). -/
def State.lineFails (s : State) (core : Nat) (asid : BitVec 16) (line : DWord) (st : MemStatus) (va : DWord) : State :=
  (s.fetchers core asid line).foldl (fun s k =>
    match s.sheaf k with
    | none => s
    | some sh =>
      let needed := !fetched sh.fbuf sh.pc && neededLine sh.fbuf sh.pc == line
      let s := s.setSheaf k { sh with fetching := none }
      if !needed then s
      else match st with
        | .fault t => s.park k t .fetch
        | .bad c =>
          if c == 0 then s
          else
            let o : Owed := { cause := c, info := if c.toNat == causeDataError then 3 else 0, mask := sh.m, pc := sh.pc, npc := sh.afterPc, va := va,
                              level := sh.level }
            s.onSheaf k (fun x => { x with owed := some o })
        | .ok => s) s

/-- What a CFETCH or a CPIN makes of a line that has come, or has failed (R188). DESIGN CHOICE (log 105): a CPIN whose line comes after its ASID's last
workgroup has left the core pins it all the same (R122 names no outcome); the pin then lasts until a CUNPIN or the ASID's next departure. -/
def State.lineWants (s : State) (core : Nat) (asid : BitVec 16) (line : DWord) (ok : Bool) (ws : List IcWant) : State :=
  ws.foldl (fun s w =>
    match w with
    | .code op => s.countedDone core true op
    | .pin wg idx d m =>
      let here := ok && (s.icFind core asid line).isSome
      (if here then s.pin core asid line else s).pinResult core wg idx d m here) s

/-- One half of an outstanding line: what it brings, or how it failed. -/
def IcMiss.half (m : IcMiss) (q : ReadReq) (a : BlkAns) : IcMiss :=
  let m := if q.va == m.va then { m with lo := some a.blk } else { m with hi := some a.blk }
  match a.status with
  | .ok => if a.poison != 0 && m.fail.isNone then { m with fail := some (.bad (BitVec.ofNat 8 causeDataError)), failAt := q.va } else m
  | st => if m.fail.isNone then { m with fail := some st, failAt := q.va } else m

/-- A block of a code line arrives; with the later one the line is placed, or its failure passed on (R119, R121). -/
def State.lineBlock (s : State) (core : Nat) (q : ReadReq) (a : BlkAns) : State :=
  let line := lineAt q.va
  match (s.core core).icMiss.find? (fun m => m.asid == q.asid && m.va == line) with
  | none => s
  | some m =>
    let m := m.half q (s.readAs q.asid a)
    let s := s.readDone q.asid a
    let others := (s.core core).icMiss.filter (fun x => !(x.asid == q.asid && x.va == line))
    match m.lo, m.hi with
    | some lo, some hi =>
      let s := s.onCore core (fun c => { c with icMiss := others })
      let s := (match m.fail with
        | none => if m.stale then (if m.want.isEmpty then s else s.askLine core q.asid line m.want) else
          (s.onCore core (fun c => c.keepCode { asid := q.asid, va := line, lo := lo, hi := hi, pinned := false, used := s.clk })).lineWants
            core q.asid line true m.want
        | some st => (s.lineWants core q.asid line false m.want).lineFails core q.asid line st m.failAt)
      s.sendMisses core
    | _, _ =>
      s.onCore core (fun c => { c with icMiss := c.icMiss.map (fun x => if x.asid == q.asid && x.va == line then m else x) })

/-- Whether a block answer is a page or permission fault. -/
def BlkAns.faulted (a : BlkAns) : Bool := match a.status with | .fault _ => true | _ => false

/-- ICACHE_FILL (R119). -/
def execIcacheFill (core : Nat) (s : State) : Out :=
  .next (match s.receive (.core core) (fun m => match m with
      | .data q a => if q.asker == .line && !a.faulted then some (q, a) else none
      | _ => none) with
    | none => s
    | some ((q, a), _, s) => s.lineBlock core q a)

/-- FETCH_BUFFER_FILL (R120): the first sheaf of a core whose requested line the cache holds has it in its buffer, in place of the
line there; the base word of an instruction whose extension word lies in the new line stays until it issues (R123). -/
def execFetchBufferFill (core : Nat) (s : State) : Out :=
  let ready (e : Nat × Sheaf) : Option IcLine :=
    if slotCore e.1 != core then none
    else match e.2.fetching, mapFind s.wgs e.2.wg with
      | some l, some w => s.icFind core w.asid (lineAt l)
      | _, _ => none
  .next (match s.sheaves.findSome? (fun e => (ready e).map (fun l => (e, l))) with
    | none => s
    | some (e, l) =>
      let va := match e.2.fetching with | some x => x | none => l.va
      let s := s.setSheaf e.1
        { e.2 with
          fbuf := (keepLines e.2.pc e.2.fbuf).filter (fun x => x.va != va) ++ [{ va := va, lo := l.lo, hi := l.hi }]
          fetching := none
          readyAt := s.clk }
      s.onCore core (fun c =>
        { c with ic := c.ic.map (fun x => if x.asid == l.asid && x.va == l.va then { x with used := s.clk } else x) }))

/-! The constant cache (R47). -/

/-- The sheaves of a core that wait for a constant block of an ASID. -/
def State.constWaiters (s : State) (core : Nat) (asid : BitVec 16) (va : DWord) : List Nat :=
  (s.sheaves.filter (fun e => slotCore e.1 == core && (match e.2.wait with | .const a _ => a == va | _ => false)
    && (match mapFind s.wgs e.2.wg with | some w => w.asid == asid | none => false))).map (fun e => e.1)

/-- The instruction at a sheaf's pc. -/
def Sheaf.instrAt (sh : Sheaf) : Instr :=
  match decodeBytes (fetchBytes sh.fbuf sh.pc) with
  | .ok (i, _) => i
  | .error _ => .unassignedOpcode 0

/-- The executing threads of the instruction at a sheaf's pc, as it issues. -/
def State.execAt (s : State) (sh : Sheaf) : TMask :=
  match sh.force, mapFind s.wgs sh.wg, fetchWord sh.fbuf sh.pc with
  | some f, _, _ => f
  | none, some g, some w => trapExec g.nReg sh (w.getLsbD 62) (w.extractLsb' 54 8)
  | _, _, _ => sh.m

/-- A constant fill's outcome for one waiting sheaf: it issues again; it parks; it owes a trap (R371, R373). -/
def State.constWake (s : State) (k : Nat) (st : MemStatus) : State :=
  match s.sheaf k with
  | none => s
  | some sh =>
    match sh.wait with
    | .const va m =>
      let npc := sh.pc + BitVec.ofNat 64 sh.instrAt.size
      (match st with
      | .ok => s.setSheaf k { sh with wait := .none }
      | .fault t => (s.setSheaf k { sh with wait := .none }).park k t (.const m npc)
      | .bad c =>
        let o : Owed := { cause := c, info := if c.toNat == causeDataError then 3 else 0, mask := m, pc := sh.pc, npc := npc, va := va, level := sh.level }
        s.setSheaf k { sh with wait := .none, owed := some o })
    | _ => s

/-- A constant fill returns (R47): the block is allocated in the constant cache, its 64 KiB full, in place of the victim; a stale
one is asked for again by the sheaves that still wait. -/
def State.constBlock (s : State) (core : Nat) (q : ReadReq) (a : BlkAns) (victim : Option Nat) : State :=
  let st := match a.status with
    | .ok => if a.poison == 0 then MemStatus.ok else .bad (BitVec.ofNat 8 causeDataError)
    | st => st
  let stale := (s.core core).ccMiss.any (fun m => m.asid == q.asid && m.va == q.va && m.stale)
  let a' := s.readAs q.asid a
  let s := s.readDone q.asid a
  let s := s.onCore core (fun c =>
    let cc := c.cc.filter (fun b => !(b.asid == q.asid && b.va == q.va))
    let cc := if cc.length < 1024 then cc else cc.eraseIdx ((victim.getD 0) % 1024)
    { c with ccMiss := c.ccMiss.filter (fun m => !(m.asid == q.asid && m.va == q.va))
             cc := if st == .ok && !stale then cc ++ [{ asid := q.asid, va := q.va, data := a'.blk }] else c.cc })
  if st == .ok && stale then s
  else (s.constWaiters core q.asid q.va).foldl (fun s k => s.constWake k st) s

/-- CONST_FILL_RETURN (R47): the block returns, or its fault parks the sheaves that wait for it. -/
def execConstFillReturn (core : Nat) (victim : Option Nat) (s : State) : Out :=
  .next (match s.receive (.core core) (fun m => match m with | .data q a => if q.asker == .const then some (q, a) else none | _ => none) with
    | none => s
    | some ((q, a), _, s) => s.constBlock core q a victim)

/-! The requests that sheaves have made without a message of their own (R47, R120). -/

/-- The request for a constant block: through the core's L1, then the slice; kept in neither. -/
def State.askConst (s : State) (core : Nat) (asid : BitVec 16) (va : DWord) : State :=
  if (s.core core).ccMiss.any (fun m => m.asid == asid && m.va == va) then s
  else
    let s := s.onCore core (fun c => { c with ccMiss := c.ccMiss ++ [{ asid := asid, va := va, stale := false }] })
    let q : ReadReq := { asid := asid, va := va, asker := .const, kind := .load, pol := 4, l1 := false, epoch := 0, ovl := 0,
                         overM := 0, overT := none, bulk := false, place := 0 }
    match s.l1Find core asid va with
    | some l => if l.perm.r && s.copyServes l .const core then s.deliver (.core core) (.data q l.ans)
                else s.send (.core core) (.slice (coreDie core) (sliceOf va)) 1 (s.partOf asid) (.read q)
    | none => s.send (.core core) (.slice (coreDie core) (sliceOf va)) 1 (s.partOf asid) (.read q)

/-- Whether a line is in a core's instruction cache, or has been asked for. -/
def State.lineKnown (s : State) (core : Nat) (asid : BitVec 16) (line : DWord) : Bool :=
  (s.icFind core asid line).isSome || (s.core core).icMiss.any (fun m => m.asid == asid && m.va == line)

/-- The sequential request of a sheaf (R120), which is made once. -/
def State.askNext (s : State) (core k : Nat) (w : Workgroup) (sh : Sheaf) : State :=
  match sh.seqLine with
  | none => s
  | some l =>
    let s := s.onSheaf k (fun sh => { sh with seqLine := none })
    if sh.ended || s.lineKnown core w.asid (lineAt l) then s else s.askLine core w.asid (lineAt l) []

/-- The requests of one sheaf: the line it needs to issue, the next line, the constant block it waits for. -/
def State.requestsOf (s : State) (k : Nat) (sh : Sheaf) : State :=
  match mapFind s.wgs sh.wg with
  | none => s
  | some w =>
    let core := slotCore k
    let s := (match sh.wait with
      | .const va _ => s.askConst core w.asid va
      | _ => s).askNext core k w sh
    if sh.ended || sh.owes || (sh.halted && sh.chain == 0) || sh.parks.any (fun p => p.kind == .fetch) || fetched sh.fbuf sh.pc then s
    else
      let line := neededLine sh.fbuf sh.pc
      let s := if sh.fetching == some line then s else s.onSheaf k (fun sh => { sh with fetching := some line })
      if s.lineKnown core w.asid (lineAt line) then s else s.askLine core w.asid (lineAt line) []

/-- Every sheaf's requests. -/
def State.requests (s : State) : State := s.sheaves.foldl (fun s e => s.requestsOf e.1 e.2) s

/-! CFETCH, CPIN, CUNPIN (R188). -/

/-- The address that a thread's operand names. -/
def Ctx.codeAddr (c : Ctx) (o : Ops) (f : Form) (t : Nat) : DWord :=
  let a := srcValue c.sh c.ext f.a o.a t
  if o.mod.getLsbD 0 then c.sh.pc + (((a.extractLsb' 0 32).signExtend 64) <<< 3) else a

/-- The executing threads whose address is outside space 0. -/
def Ctx.codeFault (c : Ctx) (o : Ops) (f : Form) : TMask := maskOf (fun t => c.e.getLsbD t && eaSpace (c.codeAddr o f t) != 0)

/-- The distinct lines named, in ascending thread order, with their threads. -/
def Ctx.codeLines (c : Ctx) (o : Ops) (f : Form) : List (DWord × TMask) :=
  (threadsOf c.e).foldl (fun acc t =>
    let l := lineAt (c.codeAddr o f t)
    if acc.any (fun x => x.1 == l) then acc.map (fun x => if x.1 == l then (x.1, x.2 ||| threadBit t) else x)
    else acc ++ [(l, threadBit t)]) []

/-- The lane occupancy of CFETCH, CPIN and CUNPIN (R189): one cycle with .pc or a U address. -/
def Ctx.codeOccupancy (c : Ctx) (o : Ops) (f : Form) : Nat :=
  if o.mod.getLsbD 0 || (srcClass c.sh c.ext f.a o.a).isUni then 1 else max 1 (countThreads c.e)

/-- CFETCH (R121, R188): one operation on CODE; it is over when every line is present or dropped. -/
def execCfetch (o : Ops) (s : State) : Out :=
  runGeneral s (.cfetch o) (fun c f =>
    let core := slotCore c.k
    if c.e == 0 then (c.s.setSheaf c.k (c.sh.advance (.cfetch o))).finish c.k o.hd 1
    else if c.codeFault o f != 0 then c.s.issueTrap c.k (.cfetch o) causeAddress 0 (c.codeFault o f) c.e
    else if 63 ≤ c.sh.cCode then c.s
    else
      let id := c.s.winNext
      let lines := (c.codeLines o f).filter (fun l => (c.s.icFind core c.w.asid l.1).isNone)
      let s := { c.s with winNext := id + 1 }.setSheaf c.k { (c.sh.advance (.cfetch o)) with cCode := c.sh.cCode + 1 }
      let s := s.onCore core (fun x => { x with code := x.code ++ [{ id := id, wg := c.sh.wg, idx := c.sh.idx, left := lines.length + 1 }] })
      let s := lines.foldl (fun s l => s.askLine core c.w.asid l.1 [.code id]) s
      (s.countedDone core true id).finish c.k o.hd (c.codeOccupancy o f))

/-- One line of a CPIN (R122, R188): a pinned line stays so; the limits refuse the pin at once; a line that is there is pinned at
once, a missing one when it comes. A refused line is still brought in. -/
def State.pinLine (s : State) (core wg idx : Nat) (asid : BitVec 16) (d : Option Nat) (line : DWord) (m : TMask) : State :=
  let pins := match s.icFind core asid line with
    | some l => l.pinned
    | none => (s.core core).icMiss.any (fun x => x.asid == asid && x.va == line && x.pins)
  if !pins && !(s.core core).pinRoom line then
    (if s.lineKnown core asid line then s else s.askLine core asid line []).pinResult core wg idx d m false
  else if (s.icFind core asid line).isSome then (s.pin core asid line).pinResult core wg idx d m true
  else
    (s.askLine core asid line [.pin wg idx d m]).onMember wg idx (fun sh => match d with | some d => sh.setPend [d] | none => sh)

/-- CPIN (R122, R188): the lines named are pinned in ascending thread order. -/
def execCpin (o : Ops) (s : State) : Out :=
  runGeneral s (.cpin o) (fun c f =>
    let rs := dstRegs o f.dst
    if c.e == 0 then (c.s.setSheaf c.k (c.sh.advance (.cpin o))).finish c.k o.hd 1
    else if c.codeFault o f != 0 then c.s.issueTrap c.k (.cpin o) causeAddress 0 (c.codeFault o f) c.e
    else
      let sh := ((c.sh.setClasses rs .var).advance (.cpin o)).setPend rs
      let lines := c.codeLines o f
      let s := lines.foldl (fun s l => s.pinLine (slotCore c.k) c.sh.wg c.sh.idx c.w.asid (if o.nw then none else some o.d.toNat) l.1 l.2)
        (c.s.setSheaf c.k sh)
      s.finish c.k o.hd (c.sh.occupied rs c.e (c.codeOccupancy o f)))

/-- CUNPIN (R122, R188). -/
def execCunpin (o : Ops) (s : State) : Out :=
  runGeneral s (.cunpin o) (fun c f =>
    let core := slotCore c.k
    if c.e == 0 then (c.s.setSheaf c.k (c.sh.advance (.cunpin o))).finish c.k o.hd 1
    else if c.codeFault o f != 0 then c.s.issueTrap c.k (.cunpin o) causeAddress 0 (c.codeFault o f) c.e
    else
      let named := (c.codeLines o f).map (fun l => l.1)
      let s := c.s.onCore core (fun x =>
        { x with ic := x.ic.map (fun l => if l.asid == c.w.asid && named.contains l.va then { l with pinned := false } else l) })
      (s.setSheaf c.k (c.sh.advance (.cunpin o))).finish c.k o.hd (c.codeOccupancy o f))

/-- DEBUG_PATCH_PINNED (R386): an instruction word written to memory and to the pinned line of a core together. -/
def execDebugPatchPinned (core : Nat) (asid : BitVec 16) (va : DWord) (word : DWord) (s : State) : Out :=
  .next (match s.icFind core asid (lineAt va), s.dpaOf asid va with
    | some l, some dpa =>
      if !l.pinned || va.toNat % 8 != 0 then s
      else
        let off := va.toNat % 128
        let m : BMask := BitVec.ofNat 64 (255 * 2 ^ (off % 64))
        let b : Blk := BitVec.ofNat 512 (word.toNat * 2 ^ (8 * (off % 64)))
        let s := s.storeBlk dpa asid b m none false
        s.onCore core (fun c =>
          { c with ic := c.ic.map (fun x => if x.asid == asid && x.va == l.va then
              (if off < 64 then { x with lo := blkMerge x.lo b m } else { x with hi := blkMerge x.hi b m }) else x) })
    | _, _ => s)

end Sys2Proof.Machine
end

