-- ==== Sys2Proof/Machine/Engine.lean ====
section
/-! DEFINITION. The instructions of the copy-and-gather engine at their issue (R266, R271 to R282), and how an operation is cut into
independent parts when it begins (R272 to R279). -/

namespace Sys2Proof.Machine

/-! Issue (R266). -/

/-- A record position at issue: the words of a window record, or none for a record in local store. -/
def Ctx.recordWords (c : Ctx) (o : Ops) (src : Src) : Option (List Word) :=
  match src with
  | .reg _ => none
  | _ => some (c.s.windowRecord c.k c.w o)
/-- The value that an operand gives the engine: the pointer of a record in local store, or the value of its position. -/
def Ctx.engValue (c : Ctx) (p : Pos) (src : Src) : DWord :=
  if p == .unused then 0
  else if p == .recd then (match src with | .reg r => c.sh.pair r.toNat c.lead | _ => 0)
  else srcValue c.sh c.ext p src c.lead

/-- The operations of COPY handed to an engine and not yet reported. -/
def State.engQueue (s : State) (core : Nat) : Nat := ((s.core core).eng.filter (fun x => !x.matrix)).length

/-- The offset of the barrier object that MOD[3] names (R273). -/
def boOffset (o : Ops) : Option Nat := if o.mod.getLsbD 3 then some o.attr.offset.toNat else none

/-- A copy-and-gather instruction (R266): nothing where no thread executes it; it starts with a free entry and COPY below 63;
`per` names a per-thread C. -/
def Ctx.engStart (c : Ctx) (i : Instr) (o : Ops) (f : Form) (per : Bool) (random : Bool) : State :=
  if c.e == 0 then (c.s.setSheaf c.k (c.sh.advance i)).finish c.k o.hd 1
  else if 64 ≤ c.s.engQueue (slotCore c.k) || 63 ≤ c.sh.cCopy || c.s.acquirePending c.k || c.s.releasePending c.k then c.s
  else if extRecord o f && !c.s.windowAligned c.w o then c.s.issueTrap c.k i causeMisaligned 0 c.e c.e
  else
    let op : EngOp :=
      { id := c.s.winNext, wg := c.sh.wg, idx := c.sh.idx, core := slotCore c.k, matrix := false, instr := i, asid := c.sh.ctxAsid,
        own := c.w.asid, level := c.sh.level, lead := c.lead, mask := c.e,
        a := c.engValue f.a o.a, b := c.engValue f.b o.b, c := if per then 0 else c.engValue f.c o.c,
        cs := if per then (threadsOf c.e).map (fun t => (t, (srcValue c.sh c.ext f.c o.c t).extractLsb' 0 32)) else [],
        recA := if f.a == .recd then c.recordWords o o.a else none
        recB := if f.b == .recd then c.recordWords o o.b else none
        words := [], begun := false, items := [], bo := boOffset o, boLeft := 0, span := none,
        key := c.genKey, stream := c.genStream, ctr := c.sh.conv, complete := false }
    let sh := { c.sh with cCopy := c.sh.cCopy + 1, conv := if random then c.sh.conv + 1 else c.sh.conv }
    let s := ({ c.s with winNext := c.s.winNext + 1 }.onCore (slotCore c.k) (fun x => { x with eng := x.eng ++ [op] })).setSheaf c.k
      (sh.advance i)
    s.finish c.k o.hd (if per && srcClass c.sh c.ext f.c o.c == .var then countThreads c.e else 1)

/-- CPY (R272). -/
def execCpy (o : Ops) (s : State) : Out := runGeneral s (.cpy o) (fun c f => c.engStart (.cpy o) o f false false)
/-- GATH (R276). -/
def execGath (o : Ops) (s : State) : Out :=
  runGeneral s (.gath o) (fun c f => c.engStart (.gath o) o f true (o.mod.extractLsb' 0 2 == 2))
/-- BAGS (R277). -/
def execBags (o : Ops) (s : State) : Out := runGeneral s (.bags o) (fun c f => c.engStart (.bags o) o f true false)
/-- SCAD (R278). -/
def execScad (o : Ops) (s : State) : Out := runGeneral s (.scad o) (fun c f => c.engStart (.scad o) o f true false)
/-- FILL (R279). -/
def execFill (o : Ops) (s : State) : Out := runGeneral s (.fill o) (fun c f => c.engStart (.fill o) o f false false)

/-- WAITC (R281): the sheaf waits until the counter is low enough; a cause latched for the class is then raised and cleared. -/
def execWaitc (o : Ops) (s : State) : Out :=
  runGeneral s (.waitc o) (fun c f =>
    let i : Instr := .waitc o
    let cls := o.mod.toNat % 4
    let n := (srcValue c.sh c.ext f.a o.a c.lead).toNat % 64
    let err : Option (BitVec 8) := match cls with
      | 0 => c.sh.errCopy
      | 1 => c.sh.errMatrix
      | _ => none
    if c.e == 0 then (c.s.setSheaf c.k (c.sh.advance i)).finish c.k o.hd 1
    else if n < c.sh.counter cls then c.s.setSheaf c.k { c.sh with wait := .counter cls n, force := some c.e }
    else
      match err with
      | some e =>
        (c.s.setSheaf c.k (if cls == 0 then { c.sh with errCopy := none } else { c.sh with errMatrix := none })).issueTrap c.k i
          causeEngineError (BitVec.ofNat 32 (e.toNat + 256 * cls)) c.e c.e
      | none => (c.s.setSheaf c.k (c.sh.advance i)).finish c.k o.hd 1)

/-- What CNTRD reads (R282). -/
def counterWord (sh : Sheaf) (err : Bool) : Word :=
  BitVec.ofNat 32 (if err then
      (match sh.errCopy with | some c => c.toNat | none => 0) + 256 * (match sh.errMatrix with | some c => c.toNat | none => 0)
    else sh.cCopy % 64 + 64 * (sh.cMatrix % 64) + 4096 * (sh.cCode % 64) + 262144 * (sh.cRemote % 64))

/-- CNTRD (R282). -/
def execCntrd (o : Ops) (s : State) : Out :=
  runGeneral s (.cntrd o) (fun c f =>
    let i : Instr := .cntrd o
    if c.e == 0 then (c.s.setSheaf c.k (c.sh.advance i)).finish c.k o.hd 1
    else c.endLate c.s i o f ((counterWord c.sh (o.mod.getLsbD 0)).setWidth 64))

/-! What an operation's part reads and writes. -/

/-- The stretches that a run of bytes makes in the 64-byte blocks it crosses: start and length of each. -/
def stretches (a len : Nat) : Nat → List (Nat × Nat)
  | 0 => []
  | fuel + 1 =>
    if len == 0 then []
    else
      let n := min len (64 - a % 64)
      (a, n) :: stretches (a + n) (len - n) fuel

/-- A stretch of bytes to be written within one block. -/
structure Put where
  addr   : DWord
  blk    : Blk
  mask   : BMask
  poison : BitVec 16
  deriving DecidableEq, Repr

/-- Some bytes of a block as a write. -/
def putOf (base : DWord) (off len v bad : Nat) : Put :=
  { addr := base, blk := BitVec.ofNat 512 (v % 2 ^ (8 * len) * 2 ^ (8 * off)), mask := BitVec.ofNat 64 ((2 ^ len - 1) * 2 ^ off)
    poison := BitVec.ofNat 16 ((List.range 16).foldl (fun m i =>
      if (bad % 2 ^ len * 2 ^ off) / 2 ^ (4 * i) % 16 != 0 then m + 2 ^ i else m) 0) }

/-- At most 64 bytes `v`, those of the mask `bad` poisoned, written at an address: one or two blocks. -/
def putsAt (d : DWord) (len v bad : Nat) : List Put :=
  let off := d.toNat % 64
  let base := d &&& ~~~(63#64)
  let n := min len (64 - off)
  putOf base off n v bad :: (if n < len then [putOf (base + 64) 0 (len - n) (v / 2 ^ (8 * n)) (bad / 2 ^ n)] else [])

/-- The bytes of poisoned words. -/
def poisonBytes (p : BitVec 16) : Nat := (List.range 16).foldl (fun m i => if p.getLsbD i then m + 15 * 2 ^ (4 * i) else m) 0

/-! Cutting an operation into parts. -/

/-- The parts of an operation, or the cause it latches before it accesses anything. -/
abbrev Parts := Except Nat (List EngItem)

/-- A part. -/
def engItem (thread index : Nat) (src : List (Option DWord)) (len : Nat) (dst : DWord) : EngItem :=
  { thread := thread, index := index, src := src, len := len, dst := dst, weights := [], asked := [], got := [], acks := 0,
    held := [], boCore := none, settled := false }

/-- The words of a record position, in a window or in the workgroup's region (R263), and whether they are poisoned. -/
def State.opRecord (s : State) (w : Workgroup) (ws : Option (List Word)) (a : DWord) : Except Nat (List Word) :=
  match ws with
  | some ws => .ok ws
  | none =>
    match s.localRecord w a with
    | .error e => .error e
    | .ok ws =>
      let off := a.toNat % 2 ^ 24
      if (s.lsPoisonMask w.core (off / 64 * 64)) &&& wordsOf (off % 64) 32 != 0 then .error causeDataError else .ok ws

/-- A well-formed record. -/
def State.goodRecord (s : State) (w : Workgroup) (ws : Option (List Word)) (a : DWord) : Except Nat BufRec :=
  match s.opRecord w ws a with
  | .error e => .error e
  | .ok ws => let r := bufRec ws; if r.bad then .error causeIllegalOperand else .ok r

/-- The kinds of CPY's destination. -/
inductive CopyTo where
  | rec_ (r : BufRec)
  | ptr
  | cores (mask : Nat)
  deriving DecidableEq, Repr

/-- The rows of a transfer: source address, destination address, bytes (R272). -/
def copyRows (b : BufRec) (to_ : CopyTo) (p : DWord) : List (DWord × DWord × Nat) :=
  let clip (n m : Nat) : Nat := match to_ with | .rec_ _ => min n m | _ => n
  let ra : BufRec := match to_ with | .rec_ r => r | _ => b
  (List.range (clip b.ext2 ra.ext2)).flatMap (fun z => (List.range (clip b.ext1 ra.ext1)).map (fun y =>
    (b.at 0 y z,
      (match to_ with | .rec_ r => r.at 0 y z | _ => p + BitVec.ofNat 64 ((z * b.ext1 + y) * b.ext0 * b.bits / 8)),
      b.bytes (clip b.ext0 ra.ext0))))

/-- Whether a record moves whole blocks (R264). -/
def BufRec.whole (r : BufRec) : Bool :=
  r.base.toNat % 64 == 0 && r.bytes r.ext0 % 64 == 0 && r.stride1 % 64 == 0 && r.stride2 % 64 == 0

/-- The checks of a transfer before anything is accessed (R264, R272). -/
def copyCheck (b : BufRec) (to_ : CopyTo) (p : DWord) : Option Nat :=
  let mode := match to_ with | .rec_ r => r.tagMode | _ => b.tagMode
  let bounds (r : BufRec) : Bool := r.bounds == 0 && (r.ext0 < b.ext0 || r.ext1 < b.ext1 || r.ext2 < b.ext2)
  match to_ with
  | .rec_ r =>
    if r.bits != b.bits then some causeFormat
    else if mode == 1 && !(b.whole && r.whole) then some causeMisaligned
    else if bounds r then some causeBounds
    else none
  | .ptr =>
    if eaSpace p != 1 && eaSpace p != 2 && eaSpace p != 3 then some causeAddress
    else if mode == 1 && !(b.whole && p.toNat % 64 == 0) then some causeMisaligned
    else none
  | .cores m =>
    if 2 ^ 16 ≤ m then some causeIllegalOperand
    else if mode == 1 && !(b.whole && p.toNat % 64 == 0) then some causeMisaligned
    else none

/-- The destination of a CPY. -/
def State.copyTo (s : State) (w : Workgroup) (op : EngOp) (o : Ops) : Except Nat CopyTo :=
  match o.mod.toNat % 8 with
  | 0 => (s.goodRecord w op.recA op.a).map CopyTo.rec_
  | 1 => .ok .ptr
  | _ => .ok (.cores (op.c.toNat % 2 ^ 32))

/-- The parts of a CPY: one for each source block of each row. -/
def State.copyParts (s : State) (w : Workgroup) (op : EngOp) (o : Ops) : Parts :=
  match s.copyTo w op o, s.goodRecord w op.recB op.b with
  | .error e, _ => .error e
  | _, .error e => .error e
  | .ok to_, .ok b =>
    let p : DWord := match to_ with | .cores _ => BitVec.ofNat 64 (op.a.toNat % 2 ^ 32) | _ => op.a
    if b.empty then .ok []
    else
      match copyCheck b to_ p with
      | some e => .error e
      | none =>
        if to_ == .cores 0 then .ok []
        else
          let xs := (copyRows b to_ p).flatMap (fun r =>
            (stretches r.1.toNat r.2.2 (r.2.2 + 1)).map (fun x =>
              ((BitVec.ofNat 64 x.1 : DWord), r.2.1 + BitVec.ofNat 64 (x.1 - r.1.toNat), x.2)))
          .ok ((xs.zipIdx).map (fun x => engItem op.lead x.2 [some x.1.1] x.1.2.2 x.1.2.1))

/-- The parts of a FILL: one for each destination block of each row (R279); BOUNDS 0 traps an empty extent (log 93). -/
def State.fillParts (s : State) (w : Workgroup) (op : EngOp) : Parts :=
  match s.goodRecord w op.recA op.a with
  | .error e => .error e
  | .ok r =>
    if r.tagMode == 1 then .error causeIllegalOperand
    else if r.empty then (if r.bounds == 0 then .error causeBounds else .ok [])
    else
      let xs := (List.range r.ext2).flatMap (fun z => (List.range r.ext1).flatMap (fun y =>
        let a := r.at 0 y z
        (stretches a.toNat (r.bytes r.ext0) (r.bytes r.ext0 + 1)).map (fun x => ((BitVec.ofNat 64 x.1 : DWord), x.1 - a.toNat, x.2))))
      .ok ((xs.zipIdx).map (fun x =>
        { engItem op.lead x.2 [] x.1.2.2 x.1.1 with weights := [BitVec.ofNat 32 x.1.2.1] }))

/-- The bytes of FILL's value from a position in its row. -/
def fillBytes (r : BufRec) (b : Word) (start len : Nat) : Nat :=
  let v := if r.bits == 4 then b.toNat % 16 * 17 else b.toNat
  let esz := if r.bits == 4 then 1 else r.bits / 8
  leNat ((List.range len).map (fun i => BitVec.ofNat 8 (v >>> (8 * ((start + i) % esz)))))

/-- Row j of a table under its BOUNDS (R275): its address, none for a row of zeros; or the cause it latches. -/
def tableRow (r : BufRec) (j : Nat) : Except Nat (Option DWord) :=
  let rows := r.ext1 * r.ext2
  if j < rows then .ok (some (r.row j))
  else match r.bounds with
    | 0 => .error causeBounds
    | 1 => .ok none
    | _ => .ok (some (r.row (rows - 1)))

/-- Whether a table's rows begin on blocks (R275). -/
def BufRec.tableAligned (r : BufRec) : Bool := r.base.toNat % 64 == 0 && r.stride1 % 64 == 0 && r.stride2 % 64 == 0

/-- The checks of a table and of the pointer beside it (R275 to R277, R286). -/
def tableCheck (r : BufRec) (p : DWord) (spaces : List Nat) : Option Nat :=
  if !spaces.contains (eaSpace p) || eaSpace r.base == 3 then some causeAddress
  else if p.toNat % 64 != 0 then some causeMisaligned
  else if !r.tableAligned then some causeMisaligned
  else none

/-- The distance between GATH's output rows (R276). -/
def gathPitch (r : BufRec) (ispec : Nat) : Nat :=
  let bits := match ispec with | 0 => r.bits | 1 => 32 | n => elemBits n
  (r.ext0 * bits + 511) / 512 * 64

/-- A part that latches its cause as soon as it begins. -/
inductive PartPlan where
  | part (i : EngItem)
  | fails (cause : Nat)

/-- The parts of a list of plans, and the first cause among those that fail. -/
def splitPlans (ps : List PartPlan) : List EngItem × Option Nat :=
  (ps.filterMap (fun p => match p with | .part i => some i | .fails _ => none),
    ps.findSome? (fun p => match p with | .fails c => some c | .part _ => none))

/-- The parts of a GATH: a row for each executing thread. -/
def State.gathParts (op : EngOp) (o : Ops) (r : BufRec) : List PartPlan :=
  op.cs.map (fun tc =>
    match tableRow r tc.2.toNat with
    | .error c => .fails c
    | .ok row => .part (engItem tc.1 tc.1 [row] 0 (op.a + BitVec.ofNat 64 (tc.1 * gathPitch r o.attr.ispec.toNat))))

/-- The bag of a thread (R277): its indices and weights, and whether any of its words is poisoned. -/
def State.bagOf (s : State) (w : Workgroup) (weighted : Bool) (off : Nat) : Except Nat (List Nat × List Word × Bool) :=
  let word (i : Nat) : Nat := leNat (s.lsRead w.core (off + 4 * i) 4)
  let last := w.lsBase + w.units * 65536
  if off % 4 != 0 || off < w.lsBase || last < off + 4 then .error causeAddress
  else
    let m := word 0
    let n := if weighted then 2 * m + 1 else m + 1
    if 65535 < m then .error causeIllegalOperand
    else if last < off + 4 * n then .error causeAddress
    else .ok ((List.range m).map (fun i => word (1 + i)),
      if weighted then (List.range m).map (fun i => BitVec.ofNat 32 (word (1 + m + i))) else List.replicate m 0x3F800000,
      (List.range n).any (fun i => mapGetD s.lsPoison (lsKey w.core (off + 4 * i) / 4) false))

/-- The rows of a bag under the table's BOUNDS. -/
def bagRows (r : BufRec) : List Nat → Except Nat (List (Option DWord))
  | [] => .ok []
  | j :: rest =>
    match tableRow r j, bagRows r rest with
    | .error c, _ => .error c
    | _, .error c => .error c
    | .ok x, .ok xs => .ok (x :: xs)

/-- The parts of a BAGS: a bag for each executing thread (R277). -/
def State.bagParts (s : State) (w : Workgroup) (op : EngOp) (o : Ops) (r : BufRec) : List PartPlan :=
  op.cs.map (fun tc =>
    match s.bagOf w (o.mod.getLsbD 0) tc.2.toNat with
    | .error c => .fails c
    | .ok (js, ws, bad) =>
      match bagRows r js with
      | .error c => .fails c
      | .ok rows =>
        .part { engItem tc.1 tc.1 rows 0 (op.a + BitVec.ofNat 64 (tc.1 * gathPitch r 1)) with weights := ws, bad := bad })

/-- The parts of a SCAD: a row for each executing thread (R278); `dst` is the table row, `src` the source row. -/
def scadParts (op : EngOp) (r : BufRec) : List PartPlan :=
  op.cs.filterMap (fun tc =>
    match tableRow r tc.2.toNat with
    | .error c => some (.fails c)
    | .ok none => none
    | .ok (some row) => some (.part (engItem tc.1 tc.1 [some (op.a + BitVec.ofNat 64 (tc.1 * gathPitch r 1))] 0 row)))

/-- Whether every source row of a SCAD lies in its workgroup's region (R278). -/
def State.scadInside (s : State) (w : Workgroup) (op : EngOp) (r : BufRec) : Bool :=
  op.cs.all (fun tc =>
    let off := op.a.toNat % 2 ^ 24 + tc.1 * gathPitch r 1
    w.lsBase ≤ off && off + 4 * r.ext0 ≤ w.lsBase + w.units * 65536 && off + 4 * r.ext0 ≤ s.lsCap)

/-- The parts of an operation that begins, the words of its table or source record, and the cause it latches (R272 to R279). -/
def State.engParts (s : State) (w : Workgroup) (op : EngOp) : List EngItem × List Word × Option Nat :=
  let whole (ws : List Word) (p : Parts) : List EngItem × List Word × Option Nat :=
    match p with
    | .ok xs => (xs, ws, none)
    | .error c => ([], [], some c)
  let table (p : BufRec → List PartPlan) (check : BufRec → Option Nat) : List EngItem × List Word × Option Nat :=
    match s.opRecord w op.recB op.b with
    | .error c => ([], [], some c)
    | .ok ws =>
      let r := bufRec ws
      if r.bad then ([], [], some causeIllegalOperand)
      else if r.empty then ([], [], none)
      else
        match check r with
        | some c => ([], [], some c)
        | none => let x := splitPlans (p r); (x.1, ws, x.2)
  match op.instr with
  | .cpy o => whole ((s.opRecord w op.recB op.b).toOption.getD []) (s.copyParts w op o)
  | .fill _ => whole ((s.opRecord w op.recA op.a).toOption.getD []) (s.fillParts w op)
  | .gath o => table (State.gathParts op o) (fun r => tableCheck r op.a [1, 2])
  | .bags o => table (s.bagParts w op o) (fun r => tableCheck r op.a [1, 2])
  | .scad _ => table (scadParts op) (fun r =>
      (if eaSpace op.a == 1 && !s.scadInside w op r then some causeAddress else tableCheck r op.a [1]).orElse (fun _ =>
        if r.fmt != 1 && r.fmt != 2 then some causeFormat else if eaSpace r.base != 0 then some causeAddress else none))
  | _ => ([], [], none)

end Sys2Proof.Machine
end

