-- ==== Sys2Proof/Machine/EngineSteps.lean ====
section
/-! DEFINITION. The steps of the copy-and-gather engines (R267 to R279, R408): beginning an operation, blocks that return, writes
performed, arrivals at barrier objects, completion. The memory side of a matrix drain (R309) is an operation of this kind. -/

namespace Sys2Proof.Machine

/-! Operations and their parts. -/

def State.findOp (s : State) (core id : Nat) : Option EngOp := (s.core core).eng.find? (fun x => x.id == id)
def State.onOp (s : State) (core id : Nat) (f : EngOp → EngOp) : State :=
  s.onCore core (fun c => { c with eng := c.eng.map (fun x => if x.id == id then f x else x) })
/-- A part of an operation changed. -/
def State.onItem (s : State) (core id item : Nat) (f : EngItem → EngItem) : State :=
  s.onOp core id (fun op => { op with items := op.items.map (fun x => if x.index == item then f x else x) })
def EngOp.item (op : EngOp) (i : Nat) : Option EngItem := op.items.find? (fun x => x.index == i)

/-- The first cause of an operation's class latched for its sheaf (R269, R298). -/
def State.latchEng (s : State) (op : EngOp) (cause : Nat) : State :=
  s.onMember op.wg op.idx (fun sh =>
    if op.matrix then { sh with errMatrix := sh.errMatrix.orElse (fun _ => some (BitVec.ofNat 8 cause)) }
    else { sh with errCopy := sh.errCopy.orElse (fun _ => some (BitVec.ofNat 8 cause)) })

/-- Where an address of an operation points. -/
def State.engLoc (s : State) (op : EngOp) (a : DWord) : Option Loc := (mapFind s.wgs op.wg).bind (fun w => s.locate w a)
/-- The core that an address of space 2 or 3 names. -/
def coreOfAddr (a : DWord) : Nat := a.toNat / 2 ^ 36 % 16 * 16 + a.toNat / 2 ^ 32 % 16
/-- The ASID of an operation's access to space 0 (R369, R388). -/
def State.engAsid (s : State) (op : EngOp) (a : DWord) : BitVec 16 :=
  if op.level != .user && eaSpace a == 0 && (s.frameAt (eaVa a)).isSome then 0xFFFF else op.asid
/-- The policy of an operation's accesses (R234, R309). -/
def EngOp.policy (op : EngOp) : Nat := effPolicy op.instr (bufRec op.words).policy

/-- The own-core offset of CPY.mc on each core of the issuing die that its mask names, as space-2 addresses (R272). -/
def EngOp.targets (op : EngOp) (d : DWord) : List DWord :=
  match op.instr with
  | .cpy o =>
    if o.mod.toNat % 8 == 2 then
      ((List.range 16).filter (fun c => op.c.getLsbD c)).map (fun c =>
        BitVec.ofNat 64 (2 * 2 ^ 60 + coreDie op.core * 2 ^ 36 + c * 2 ^ 32) + d)
    else [d]
  | _ => [d]
/-- The cores of a multicast transfer. -/
def EngOp.cores (op : EngOp) : List Nat :=
  match op.instr with
  | .cpy o => if o.mod.toNat % 8 == 2 then (List.range 16).filter (fun c => op.c.getLsbD c) else []
  | _ => []

/-! Accesses. -/

/-- A local-store or slot request of an operation. -/
def State.engLs (s : State) (op : EngOp) (core base : Nat) (a : DWord) (act : LsAct) (who : LsWho) : LsReq :=
  { core := core, base := base, va := a, act := act, who := who, asid := op.own, span := if eaSpace a == 3 then none else op.span,
    priv := op.level != .user, since := s.clk, lane := 256 }

/-- A block read sent on its path (R226, R237, R267): the block at `a`, to several cores at once for a multicast transfer. -/
def State.engRead (s : State) (op : EngOp) (item n : Nat) (a : DWord) : State :=
  let here : Agent := .core op.core
  let asid := s.engAsid op a
  let part := s.partOf asid
  let base := blkBase a
  match s.engLoc op a with
  | some (.dev _) =>
    let q : ReadReq := { asid := asid, va := base, asker := .engine op.id item n, kind := .load, pol := op.policy, l1 := false, epoch := 0,
                         ovl := 0, overM := 0, overT := none, bulk := true, place := 0 }
    let dst : Agent := .slice (coreDie op.core) (sliceOf base)
    if op.cores.isEmpty then s.send here dst 2 part (.read q) else s.send here dst 2 part (.multi q op.cores)
  | some (.own off) =>
    let q := s.engLs op op.core (off / 64 * 64) a .read (.engine op.core op.id item n)
    s.onCore op.core (fun c => { c with bankQ := c.bankQ ++ [{ q with span := none }] })
  | some (.peer c off) => s.send here (.core c) 2 part (.ls { s.engLs op c (off / 64 * 64) a .read (.engine op.core op.id item n) with span := none })
  | some (.engine c g tile x off) =>
    s.send here (.core c) 2 part (.ls (s.engLs op c (mxOff g tile x (off / 64 * 64)) a .read (.engine op.core op.id item n)))
  | some (.pod pkg _) =>
    let q : PodOut := { seq := s.winNext, port := 0, pkg := pkg, core := op.core, asker := .engine op.id item n, sheaf := 0,
                        write := false, base := base, mask := 0, bytes := 0 }
    ({ s with winNext := s.winNext + 1 } : State).podSend q
  | none => s

/-- The bytes of a mask. -/
def maskBytes (m : BMask) : Nat := ((List.range 64).filter (fun i => m.getLsbD i)).length

/-- A write that an operation owes, counted on its part, and its arrival at a barrier object. -/
def State.engOwe (s : State) (op : EngOp) (item n : Nat) : State :=
  (s.onItem op.core op.id item (fun x => { x with acks := x.acks + n })).onOp op.core op.id (fun x =>
    { x with boLeft := if x.bo.isSome then x.boLeft + n else x.boLeft })

/-- A block write sent on its path (R226, R236, R267, R335); where the address points nowhere its part fails with ADDRESS. -/
def State.engPut (s : State) (op : EngOp) (item : Nat) (p : Put) (tag : Option Tag) : State :=
  let here : Agent := .core op.core
  let asid := s.engAsid op p.addr
  let part := s.partOf asid
  let base := blkBase p.addr
  if p.mask == 0 then s
  else
    let owed := s.engOwe op item 1
    match s.engLoc op p.addr with
    | some (.dev _) =>
      let s := owed.dropL1 op.core asid base
      ({ s with winNext := s.winNext + 1 } : State).send here (.slice (coreDie op.core) (sliceOf base)) 2 part
        (.write { id := s.winNext, asid := asid, va := base, dpa := none, blk := p.blk, mask := p.mask, tag := tag, poison := p.poison,
                  writer := .engine op.core op.id item })
    | some (.own off) =>
      let q := owed.engLs op op.core (off / 64 * 64) p.addr (.write p.blk p.mask tag p.poison) (.put op.core op.id item (maskBytes p.mask))
      owed.onCore op.core (fun c => { c with bankQ := c.bankQ ++ [q] })
    | some (.peer c off) =>
      owed.send here (.core c) 2 part
        (.ls (owed.engLs op c (off / 64 * 64) p.addr (.write p.blk p.mask tag p.poison) (.put op.core op.id item (maskBytes p.mask))))
    | some (.engine c g tile x off) =>
      owed.send here (.core c) 2 part
        (.ls (owed.engLs op c (mxOff g tile x (off / 64 * 64)) p.addr (.write p.blk p.mask (if tile then none else tag) p.poison)
          (.put op.core op.id item (maskBytes p.mask))))
    | some (.pod pkg _) =>
      let q : PodOut := { seq := owed.winNext, port := 0, pkg := pkg, core := op.core, asker := .engine op.id item 0, sheaf := 0,
                          write := true, base := base, mask := 0, bytes := maskBytes p.mask }
      ({ owed with winNext := owed.winNext + 1 } : State).podSend q
    | none => s.latchEng op causeAddress

/-- A part that has written its result, or has failed with a cause. -/
def State.itemOver (s : State) (op : EngOp) (item : Nat) : State := s.onItem op.core op.id item (fun x => { x with settled := true })
def State.itemFails (s : State) (op : EngOp) (item cause : Nat) : State := (s.itemOver op item).latchEng op cause

/-! Rows of tables (R275). -/

/-- How far the elements of a row have come. -/
inductive RowRead where
  /-- a further block is needed -/
  | need (n : Nat)
  /-- a block is on its way -/
  | wait
  | fails (cause : Nat)
  /-- the elements' values, and which of them are poisoned -/
  | vals (xs : List (FVal × Bool))
  deriving DecidableEq, Repr

/-- The number of a read: row and block. -/
def readNo (row n : Nat) : Nat := row * 2 ^ 32 + n

/-- What keeps an engine from taking a block's elements (R65, R275). -/
def tagFault (tag : Tag) : Option Nat :=
  let code := tag.toNat / 256
  if code == 0xA0 then some causeAllowObject
  else if 8 < code then some causeFormat
  else none

/-- The elements of a row from its consecutive blocks: each gives the count of its own tag's format until `left` are taken. -/
def rowWalk (it : EngItem) (row : Nat) : Nat → Nat → Nat → List (FVal × Bool) → RowRead
  | 0, _, _, _ => .wait
  | fuel + 1, n, left, acc =>
    if left == 0 then .vals acc
    else
      match mapFind it.got (readNo row n) with
      | none => if it.asked.contains (readNo row n) then .wait else .need n
      | some b =>
        match b.status, tagFault b.tag with
        | .bad c, _ => .fails c.toNat
        | _, some c => .fails c
        | _, none =>
          let code := b.tag.toNat / 256
          if code == 0 then .fails causeFormat
          else
            let bits := elemBits code
            let k := min left (512 / bits)
            let xs := (List.range k).map (fun i =>
              (scaledValue code (b.tag.toNat % 256) ((b.blk.toNat >>> (i * bits)) % 2 ^ bits),
                b.poison &&& wordsOf (i * bits / 8) ((bits + 7) / 8) != 0))
            rowWalk it row fuel (n + 1) (left - k) (acc ++ xs)

/-- Row number `row` of a part: a row of zeros, or what has returned. -/
def EngItem.row (it : EngItem) (ext0 row : Nat) : RowRead :=
  match it.src.getD row none with
  | none => .vals (List.replicate ext0 (FVal.zero, false))
  | some _ => rowWalk it row (ext0 + 1) 0 ext0 []

/-- The blocks of a row requested first (R275). -/
def firstBlocks (r : BufRec) : Nat := if r.fmt == 0 then 1 else (r.ext0 * r.bits + 511) / 512
/-- The blocks of a row that GATH.raw copies (R276). -/
def rawBlocks (r : BufRec) : Nat := (r.ext0 * r.bits + 511) / 512

/-! Results. -/

/-- FP32 words as writes, 16 to a block; words beyond the last are not written. -/
def wordPuts (d : DWord) (ws : List (Word × Bool)) : List Put :=
  (List.range ((ws.length + 15) / 16)).map (fun b =>
    let xs := (ws.drop (16 * b)).take 16
    { addr := d + BitVec.ofNat 64 (64 * b)
      blk := BitVec.ofNat 512 (xs.foldr (fun x acc => x.1.toNat + 2 ^ 32 * acc) 0)
      mask := BitVec.ofNat 64 (2 ^ (4 * xs.length) - 1)
      poison := BitVec.ofNat 16 (xs.foldr (fun x acc => (if x.2 then 1 else 0) + 2 * acc) 0) })

/-- A whole block of element codes. -/
def codesBlk (bits : Nat) (cs : List Nat) : Blk := BitVec.ofNat 512 (cs.foldr (fun x acc => x % 2 ^ bits + 2 ^ bits * acc) 0)

/-- Stochastic rounding or a fixed mode for element idx of an operation (R79, R276). -/
def EngOp.rounding (op : EngOp) (o : Ops) (idx : Nat) : RMode :=
  narrowMode o.mod ((rand32 op.key op.stream op.ctr (BitVec.ofNat 32 idx)).extractLsb' 16 16)

/-- GATH's narrowed output blocks (R80, R276): writes with their tags. -/
def gathNarrow (op : EngOp) (o : Ops) (thread ext0 : Nat) (d : DWord) (xs : List (FVal × Bool)) : List (Put × Tag) :=
  let code := o.attr.ispec.toNat
  let bits := elemBits code
  let n := 512 / bits
  (List.range ((ext0 + n - 1) / n)).map (fun b =>
    let es := (xs.drop (n * b)).take n
    let full := es.map (fun x => x.1) ++ List.replicate (n - es.length) FVal.zero
    let r := narrowBlock code (o.mod.getLsbD 2) (fun i => op.rounding o (thread * ext0 + n * b + i)) full
    ({ addr := d + BitVec.ofNat 64 (64 * b), blk := codesBlk bits r.1, mask := BitVec.allOnes 64
       poison := if es.any (fun x => x.2) then 0xFFFF else 0 }, r.2))

/-- One step of a bag's sums: every element of a row, times its weight, added with one rounding (R82). -/
def bagAdd (w : Word) (acc : List (Word × Bool)) (xs : List (FVal × Bool)) : List (Word × Bool) :=
  (acc.zip xs).map (fun p =>
    (toFP32 .rne (FVal.add .rne (FVal.mul (ofFP32 w) (ofFP32 (toFP32 .rne p.2.1))) (ofFP32 p.1.1)), p.1.2 || p.2.2))

/-- The sums of a bag once all its rows have come; otherwise what it still needs, with the row. A row is added only when none of its reads
is out, held by a fault or not (R417). -/
def bagSums (it : EngItem) (ext0 : Nat) : List (Nat × Word) → List (Word × Bool) → Except (Nat × RowRead) (List (Word × Bool))
  | [], acc => .ok acc
  | (row, w) :: rest, acc =>
    match (if it.asked.any (fun n => n / 2 ^ 32 == row) then .wait else it.row ext0 row) with
    | .vals xs => bagSums it ext0 rest (bagAdd w acc xs)
    | x => .error (row, x)

/-! A part goes on. -/

/-- A block of a row requested. One of the first requests at an address that is not valid counts only where an element would be taken
from it (R275). -/
def State.askRow (s : State) (op : EngOp) (it : EngItem) (row n : Nat) (first : Bool) : State :=
  match it.src.getD row none with
  | none => s
  | some a =>
    let b := a + BitVec.ofNat 64 (64 * n)
    let there := match s.engLoc op b with
      | none => false
      | some (.engine _ _ _ _ _) => false
      | _ => true
    if !there then
      (if first then s.onItem op.core op.id it.index (fun x =>
          { x with got := mapInsert x.got (readNo row n) { blk := 0, tag := 0, poison := 0, status := .bad (BitVec.ofNat 8 causeAddress) } })
      else s.itemFails op it.index causeAddress)
    else (s.onItem op.core op.id it.index (fun x => { x with asked := x.asked ++ [readNo row n] })).engRead op it.index (readNo row n) b

/-- The results of a part written: its barrier object counts them; poisoned data is latched (R381). -/
def State.engWrites (s : State) (op : EngOp) (item : Nat) (ps : List (Put × Option Tag)) : State :=
  let s := ps.foldl (fun s p => s.engPut op item p.1 p.2) (s.itemOver op item)
  if ps.any (fun p => p.1.poison != 0) then s.latchEng op causeDataError else s

/-- The tag that a CPY or FILL gives its destination (R264). -/
def destTag (r : BufRec) (ispec : BitVec 8) (src : Tag) : Option Tag :=
  match r.tagMode with
  | 0 => none
  | 1 => some src
  | _ => some (if r.fmt == 0 then 0 else BitVec.ofNat 16 (r.fmt * 256) ||| ispec.setWidth 16)

/-- The block of a copy that has come, as writes of the stretch it gives (R272); none where its tag stops it. -/
def copyPuts (it : EngItem) (b : EngBlk) (d : DWord) : List Put :=
  let off := ((it.src.headD none).getD 0).toNat % 64
  putsAt d it.len ((b.blk.toNat >>> (8 * off)) % 2 ^ (8 * it.len)) ((poisonBytes b.poison >>> off) % 2 ^ it.len)

/-- A part of a CPY whose block has come. -/
def State.copyBlock (s : State) (op : EngOp) (o : Ops) (it : EngItem) (b : EngBlk) : State :=
  match b.status, tagFault b.tag with
  | .bad c, _ => s.itemFails op it.index c.toNat
  | _, some c => s.itemFails op it.index c
  | _, none =>
    let tag := destTag (op.tagRecord o) o.attr.ispec b.tag
    s.engWrites op it.index ((op.targets it.dst).flatMap (fun d => (copyPuts it b d).map (fun p => (p, tag))))

/-- A part of a GATH with what has come (R276). -/
def State.gathRow (s : State) (op : EngOp) (o : Ops) (it : EngItem) : State :=
  let r := bufRec op.words
  let raw := o.attr.ispec == 0
  if raw then
    (match it.src.headD none with
    | none =>
      s.engWrites op it.index ((List.range (rawBlocks r)).map (fun i =>
        ({ addr := it.dst + BitVec.ofNat 64 (64 * i), blk := 0, mask := BitVec.allOnes 64, poison := 0 }, some 0)))
    | some _ =>
      if it.asked != [] then s
      else
        let bs := (List.range (rawBlocks r)).filterMap (fun i => mapFind it.got (readNo 0 i))
        match bs.findSome? (fun b => match b.status with | .bad c => some c.toNat | _ => tagFault b.tag) with
        | some c => s.itemFails op it.index c
        | none =>
          s.engWrites op it.index ((bs.zipIdx).map (fun bi =>
            ({ addr := it.dst + BitVec.ofNat 64 (64 * bi.2), blk := bi.1.blk, mask := BitVec.allOnes 64, poison := bi.1.poison },
              some bi.1.tag))))
  else
    match it.row r.ext0 0 with
    | .wait => s
    | .need n => s.askRow op it 0 n false
    | .fails c => s.itemFails op it.index c
    | .vals xs =>
      if o.attr.ispec == 1 then
        s.engWrites op it.index ((wordPuts it.dst (xs.map (fun x => (toFP32 .rne x.1, x.2)))).map (fun p => (p, some 0x017F)))
      else s.engWrites op it.index ((gathNarrow op o it.thread r.ext0 it.dst xs).map (fun p => (p.1, some p.2)))

/-- A part of a BAGS with what has come (R277). -/
def State.bagRow (s : State) (op : EngOp) (it : EngItem) : State :=
  let r := bufRec op.words
  match bagSums it r.ext0 ((it.weights.zipIdx).map (fun x => (x.2, x.1))) (List.replicate r.ext0 (0, false)) with
  | .ok xs => s.engWrites op it.index ((wordPuts it.dst (xs.map (fun x => (x.1, x.2 || it.bad)))).map (fun p => (p, none)))
  | .error (row, .need n) => s.askRow op it row n false
  | .error (_, .fails c) => s.itemFails op it.index c
  | .error _ => s

/-- An addition packet sent (R278, R342, R418). -/
def State.sendAdd (s : State) (op : EngOp) (o : Ops) (item : Nat) (r : BufRec) (base : DWord) (items : List AtomItem) (poison : Bool) : State :=
  let asid := s.engAsid op base
  let kind := if o.attr.order == 2 then o.attr.scope.toNat else r.scope
  let repro := match mapFind s.wgs op.wg with | some w => w.repro | none => false
  let from_ : Contributor :=
    { id := s.winNext, die := coreDie op.core, core := op.core, asker := .engine op.id item 0, poison := poison, items := items }
  let q : AtomReq := { asid := asid, va := base, op := .scad r.fmt, order := 0, scope := max 3 kind, repro := repro, poison := poison,
                       items := items, from_ := [from_] }
  let s := { s with winNext := s.winNext + 1 }
  s.send (.core op.core) (.slice (coreDie op.core) (sliceOf base)) 2 (s.partOf asid) (.atom q)

/-- The addition packet of a target block (R278, R418). -/
def State.scadPacket (s : State) (op : EngOp) (o : Ops) (it : EngItem) (r : BufRec) (a : DWord) (xs : List (Word × Bool)) : State :=
  if (s.engLoc op a).isNone then s.latchEng op causeAddress
  else
    let asid := s.engAsid op a
    let items : List AtomItem := (xs.zipIdx).map (fun x => { thread := x.2, addr := a, b := x.1.1.setWidth 64, c := 0 })
    let base := blkBase a
    ((s.dropL1 op.core asid base).engOwe op it.index 1).sendAdd op o it.index r base items (xs.any (fun x => x.2))

/-- A row of a SCAD: its source read from the local store, one packet for each target block (R278). -/
def State.scadRow (s : State) (op : EngOp) (o : Ops) (it : EngItem) : State :=
  let r := bufRec op.words
  match mapFind s.wgs op.wg with
  | none => s.itemOver op it.index
  | some w =>
    let off := ((it.src.headD none).getD 0).toNat % 2 ^ 24
    if (s.engLoc op ((it.src.headD none).getD 0)).isNone || w.lsBase + w.units * 65536 < off + 4 * r.ext0 then
      s.itemFails op it.index causeAddress
    else
      let per := if r.fmt == 1 then 16 else 32
      let xs : List (Word × Bool) := (List.range r.ext0).map (fun i =>
        (BitVec.ofNat 32 (leNat (s.lsRead op.core (off + 4 * i) 4)), mapGetD s.lsPoison (lsKey op.core (off + 4 * i) / 4) false))
      let s := (List.range ((r.ext0 + per - 1) / per)).foldl (fun s b =>
        s.scadPacket op o it r (it.dst + BitVec.ofNat 64 (64 * b)) ((xs.drop (per * b)).take per)) (s.itemOver op it.index)
      if xs.any (fun x => x.2) then s.latchEng op causeDataError else s

/-- A part goes on with what it has. -/
def State.itemOn (s : State) (core id item : Nat) : State :=
  match s.findOp core id with
  | none => s
  | some op =>
    match op.item item with
    | none => s
    | some it =>
      if it.settled then s
      else
        match op.instr with
        | .cpy o => (match it.got with
          | (_, b) :: _ => s.copyBlock op o it b
          | [] => s)
        | .gath o => s.gathRow op o it
        | .bags _ => s.bagRow op it
        | _ => s

/-! Beginning (R267). -/

/-- The reads that a part makes first, or its writes where it needs none. -/
def State.startItem (s : State) (op : EngOp) (it : EngItem) : State :=
  let r := bufRec op.words
  let rows (s : State) (n : Nat) : State :=
    let s := (it.src.zipIdx).foldl (fun s x => (List.range (if x.1.isSome then n else 0)).foldl (fun s i =>
      match (s.findOp op.core op.id).bind (fun op => op.item it.index) with
      | some it => if it.settled then s else s.askRow op it x.2 i true
      | none => s) s) s
    s.itemOn op.core op.id it.index
  match op.instr with
  | .cpy _ =>
    (match it.src.headD none with
    | none => s
    | some a =>
      (match s.engLoc op a with
      | none => s.itemFails op it.index causeAddress
      | some (.engine _ _ true _ _) => s.itemFails op it.index causeAddress
      | some (.dev _) =>
        let s := s.onItem op.core op.id it.index (fun x => { x with asked := if op.cores.isEmpty then [0] else [] })
        let s := if op.cores.isEmpty then s
          else (s.itemOver op it.index).engOwe op it.index (op.cores.length * (putsAt it.dst it.len 0 0).length)
        s.engRead op it.index 0 a
      | some _ => (s.onItem op.core op.id it.index (fun x => { x with asked := [0] })).engRead op it.index 0 a))
  | .fill o =>
    let v := fillBytes r (op.b.extractLsb' 0 32) ((it.weights.headD 0).toNat) it.len
    if eaSpace it.dst == 3 then s.itemFails op it.index causeAddress
    else s.engWrites op it.index ((putsAt it.dst it.len v 0).map (fun p => (p, destTag r o.attr.ispec 0)))
  | .gath o => rows s (if o.attr.ispec == 0 then rawBlocks r else firstBlocks r)
  | .bags _ => rows s (firstBlocks r)
  | .scad o => s.scadRow op o it
  | _ => s

/-- The core whose local store holds the barrier object, unless several do (R272, R273, R279). -/
def EngOp.receiver (op : EngOp) (a : BufRec) : Option Nat :=
  let at_ (p : DWord) : Nat := if eaSpace p == 2 || eaSpace p == 3 then coreOfAddr p else op.core
  match op.instr with
  | .cpy o => (match o.mod.toNat % 8 with
    | 0 => some (if eaSpace a.base == 2 then coreOfAddr a.base else op.core)
    | 1 => some (at_ op.a)
    | _ => none)
  | .fill _ => some (if eaSpace a.base == 2 then coreOfAddr a.base else op.core)
  | _ => some (at_ op.a)

/-- The offsets of a local-store destination, first and last (R272). -/
def EngOp.extent (op : EngOp) (a b : BufRec) : Option (Nat × Nat) :=
  let n := b.bytes (b.ext0 * b.ext1 * b.ext2)
  let off (p : DWord) : Nat := p.toNat % 2 ^ 24
  match op.instr with
  | .cpy o => (match o.mod.toNat % 8 with
    | 0 => if eaSpace a.base == 1 || eaSpace a.base == 2 then
        some (off a.base, off a.base + (min b.ext2 a.ext2 - 1) * a.stride2 + (min b.ext1 a.ext1 - 1) * a.stride1 + a.bytes (min b.ext0 a.ext0) - 1)
      else none
    | 1 => if eaSpace op.a == 3 then none else some (off op.a, off op.a + n - 1)
    | _ => some (op.a.toNat % 2 ^ 32, op.a.toNat % 2 ^ 32 + n - 1))
  | _ => none

/-- Whether a destination in the own region fits it. -/
def State.extentOk (s : State) (w : Workgroup) (op : EngOp) (a : BufRec) (x : Option (Nat × Nat)) : Bool :=
  let own := match op.instr with
    | .cpy o => (match o.mod.toNat % 8 with | 0 => eaSpace a.base == 1 | 1 => eaSpace op.a == 1 | _ => false)
    | _ => false
  match x with
  | some (lo, hi) => !own || (w.lsBase ≤ lo && hi < w.lsBase + w.units * 65536 && hi < s.lsCap)
  | none => true

/-- Whether an operation's sheaf has an earlier store on its way: not yet performed at its bank or arrived at its slice (R267). -/
def State.storesOut (s : State) (op : EngOp) : Bool :=
  s.sheaves.any (fun e => e.2.wg == op.wg && e.2.idx == op.idx &&
    (s.win.any (fun x => x.2.sheaf == e.1 && x.1 < op.id && memClass x.2.instr != .load && !x.2.kept)
      || (s.sbOf op.core (slotLgrp e.1)).any (fun x => x.seq < op.id)))
  || s.net.any (fun f => match f.p.msg with
    | .write w => w.writer == .through op.core && w.made < op.id
    | _ => false)

/-- An operation begins: its record is read and its parts start (R263, R266, R267). -/
def State.beginOp (s : State) (op : EngOp) : State :=
  match mapFind s.wgs op.wg with
  | none => s.onOp op.core op.id (fun x => { x with begun := true })
  | some w =>
    let (items, words, err) := s.engParts w op
    let wa := (s.opRecord w op.recA op.a).toOption.getD []
    let ra := bufRec wa
    let span := op.extent ra (bufRec words)
    let fits := items.isEmpty || s.extentOk w op ra span
    let op' := { op with
      begun := true
      items := if fits then items.map (fun x => { x with boCore := op.receiver ra }) else []
      words := (match op.instr with | .cpy _ => words ++ wa | _ => words)
      span := span }
    let s := s.onOp op.core op.id (fun _ => op')
    let s := match err with
      | some c => s.latchEng op c
      | none => if fits then s else s.latchEng op causeAddress
    op'.items.foldl (fun s it => s.startItem op' it) s

/-- ENGINE_OP_BEGIN (R267): the first operation of a core's engine whose sheaf's earlier stores are performed. -/
def execEngineOpBegin (core : Nat) (s : State) : Out :=
  .next (match (s.core core).eng.find? (fun op => !op.begun && !s.storesOut op) with
    | none => s
    | some op => s.beginOp op)

/-! Blocks that return (R272, R274, R275). -/

/-- A block that a read of a part brings. -/
def State.gotBlock (s : State) (core op item n : Nat) (a : BlkAns) : State :=
  (s.onItem core op item (fun x =>
    { x with asked := x.asked.erase n
             got := mapInsert x.got n { blk := a.blk, tag := a.tag, poison := a.poison, status := a.status } })).itemOn core op item

/-- The core whose engine holds an operation. -/
def State.opCore (s : State) (op : Nat) : Option Nat :=
  (s.cores.find? (fun c => c.2.eng.any (fun x => x.id == op))).map (fun c => c.1)

/-- A block of a multicast transfer at one of its receivers (R274): written to its local store. -/
def State.castBlock (s : State) (here : Nat) (op : EngOp) (o : Ops) (it : EngItem) (a : BlkAns) : State :=
  let b : EngBlk := { blk := a.blk, tag := a.tag, poison := a.poison, status := a.status }
  let n := (putsAt it.dst it.len 0 0).length
  match tagFault b.tag with
  | some c =>
    ((s.onItem op.core op.id it.index (fun x => { x with acks := x.acks - n })).onOp op.core op.id (fun x =>
      { x with boLeft := if x.bo.isSome then x.boLeft - n else x.boLeft })).latchEng op c
  | none =>
    let tag := destTag (bufRec op.words) o.attr.ispec b.tag
    let s := if a.poison != 0 && (copyPuts it b it.dst).any (fun p => p.poison != 0) then s.latchEng op causeDataError else s
    (copyPuts it b it.dst).foldl (fun s p =>
      let q := s.engLs op here (p.addr.toNat % 2 ^ 24) (BitVec.ofNat 64 (2 * 2 ^ 60) + p.addr) (.write p.blk p.mask tag p.poison)
        (.put op.core op.id it.index (maskBytes p.mask))
      s.deliver (.core here) (.ls q)) s

/-- A block of a multicast transfer that did not come: its part has failed. -/
def State.castFails (s : State) (op : EngOp) (item cause : Nat) : State :=
  let n := match op.item item with | some it => it.acks | none => 0
  ((s.onItem op.core op.id item (fun x => { x with acks := 0 })).onOp op.core op.id (fun x =>
    { x with boLeft := if x.bo.isSome then x.boLeft - n else x.boLeft })).latchEng op cause

/-- ENGINE_BLOCK_READ_RETURN (R241, R272, R274, R275): the first block in a core's inbox that an engine asked for; one of a multicast
transfer that its issuer asked for alone, from another package, is written to each masked core from there. -/
def execEngineBlockReadReturn (core : Nat) (s : State) : Out :=
  .next (s.firstEnabled (fun s p =>
    if p.dst != .core core then none
    else match p.msg with
      | .data q a => (match q.asker, a.status with
        | .engine _ _ _, .fault _ => none
        | .engine id item n, st =>
          (match (s.opCore id).bind (fun c => s.findOp c id) with
          | none => some s
          | some op =>
            let b := s.readAs q.asid a
            let s := s.readDone q.asid a
            match op.instr, op.item item with
            | .cpy o, some it =>
              if op.cores.isEmpty || it.asked.contains n then some (s.gotBlock op.core id item n b)
              else (match st with
                | .bad c => some (s.castFails op item c.toNat)
                | _ => some (s.castBlock core op o it b))
            | _, _ => some (s.gotBlock op.core id item n b))
        | _, _ => none)
      | .lsAns a => (match a.who with
        | .engine c id item n => some (s.gotBlock c id item n a.blk)
        | _ => none)
      | _ => none))

/-! Writes performed (R268, R273). -/

/-- A write of a part performed, or failed: a copy that the core's L1 has taken since it was sent goes (R268); its bytes go on to the
barrier object of its receiver, unless its bank has counted them (R408). -/
def State.writeDone (s : State) (core id item bytes : Nat) (counted : Bool) (st : MemStatus) (wrote : Option (BitVec 16 × DWord)) : State :=
  match s.findOp core id with
  | none => s
  | some op =>
    let s := s.onItem core id item (fun x => { x with acks := x.acks - 1 })
    let s := match wrote with
      | some (asid, va) => s.dropL1 core asid va
      | none => s
    match st with
    | .bad c => (if op.bo.isSome then s.onOp core id (fun x => { x with boLeft := x.boLeft - 1 }) else s).latchEng op c.toNat
    | _ => if counted then s else s.boArrive op item bytes (.core core) core

/-- ENGINE_BLOCK_WRITE (R268): the first performed write of an engine in its core's inbox. -/
def execEngineBlockWrite (core : Nat) (s : State) : Out :=
  .next (s.firstEnabled (fun s p =>
    if p.dst != .core core then none
    else match p.msg with
      | .writeAck w a => (match w.writer, a.status with
        | .engine _ _ _, .fault _ => none
        | .engine c op item, st => some (s.writeDone c op item (maskBytes w.mask) false st (some (w.asid, w.va)))
        | _, _ => none)
      | .lsAns a => (match a.who with
        | .put c op item bytes =>
          some (s.writeDone c op item bytes (match p.src with | .core _ => true | _ => false) a.blk.status none)
        | _ => none)
      | .atomAns a => (match a.to_.asker, a.ans.status with
        | .engine _ _ _, .fault _ => none
        | .engine op item _, st => some (s.writeDone core op item 0 false st (some (a.asid, a.va)))
        | _, _ => none)
      | _ => none))

/-! Barrier objects (R273, R408). -/

/-- A counted arrival at a receiver: the ASID, the object, the bytes, the operation with its core. -/
structure BoArr where
  asid  : BitVec 16
  off   : Nat
  bytes : Nat
  core  : Nat
  op    : Nat
  deriving DecidableEq, Repr

/-- An arrival that has waited for the cycle after its bank's acceptance (R408). -/
def State.boDue (s : State) (core : Nat) (f : Flight) : Option BoArr :=
  if f.place == .inbox && f.p.dst == .core core && f.since < s.clk then
    (match f.p.msg with
    | .boArr asid off bytes c op _ => some ⟨asid, off, bytes, c, op⟩
    | _ => none)
  else none

/-- Whether an arrival counts: the object is aligned and lies in a region of the ASID (R273). -/
def State.boCounts (s : State) (core : Nat) (x : BoArr) : Bool := x.off % 16 == 0 && s.regionOk core x.off (x.off + 15) x.asid false none

/-- BO_ARRIVAL (R273, R331, R349, R408): the counted blocks that reached one object of a receiver in one earlier cycle, as one update; an object
outside the regions of the ASID, or misaligned, counts nothing. A flip's release at the completion scope covers the counted blocks, which are
performed: it has nothing to wait for. -/
def execBoArrival (core : Nat) (s : State) : Out :=
  .next (match s.net.findSome? (fun f => (s.boDue core f).map (fun x => (f.since, x.off))) with
    | none => s
    | some (t, off) =>
      let mine (f : Flight) : Option BoArr := if f.since == t then (s.boDue core f).filter (fun x => x.off == off) else none
      let xs := s.net.filterMap mine
      let good := xs.filter (fun x => s.boCounts core x)
      let u := { s with net := s.net.filter (fun f => (mine f).isNone) }
      let u := if good.isEmpty then u else u.boUpdate core off 0 (BitVec.ofNat 32 (good.foldl (fun n x => n + x.bytes) 0))
      xs.foldl (fun v x => v.send (.core core) (.core x.core) 0 (s.partOf x.asid) (.boAck x.op (!s.boCounts core x))) u)

/-! Completion (R268). -/

/-- Whether a part is done. -/
def EngItem.done (it : EngItem) : Bool := it.settled && it.asked == [] && it.acks == 0 && it.held == []
/-- Whether an operation is complete. -/
def EngOp.finished (op : EngOp) : Bool := op.complete || (op.begun && op.boLeft == 0 && op.items.all EngItem.done)

/-- The operations reported, oldest first, and those that stay: none is reported before its elders of the class (R268). -/
def reportEng : List EngOp → List (Nat × Nat × Bool) → List EngOp × List EngOp
  | [], _ => ([], [])
  | op :: rest, behind =>
    let key := (op.wg, op.idx, op.matrix)
    if op.finished && !behind.contains key then
      let r := reportEng rest behind
      (op :: r.1, r.2)
    else
      let r := reportEng rest (key :: behind)
      (r.1, op :: r.2)

/-- ENGINE_COMPLETE (R268): the acknowledged arrivals are taken, complete operations leave, counters drop. -/
def execEngineComplete (core : Nat) (s : State) : Out :=
  let acks := s.net.filterMap (fun f => if f.place == .inbox && f.p.dst == .core core then
    (match f.p.msg with | .boAck op fail => some (op, fail) | _ => none) else none)
  let s := { s with net := s.net.filter (fun f => !(f.place == .inbox && f.p.dst == .core core
    && (match f.p.msg with | .boAck _ _ => true | _ => false))) }
  let s := acks.foldl (fun s x =>
    match s.findOp core x.1 with
    | none => s
    | some op =>
      let s := s.onOp core x.1 (fun y => { y with boLeft := y.boLeft - 1 })
      if x.2 then s.latchEng op causeAddress else s) s
  let r := reportEng (s.core core).eng []
  let s := if r.1.isEmpty then s else s.onCore core (fun c => { c with eng := r.2 })
  .next (r.1.foldl (fun s op => s.onMember op.wg op.idx (fun sh => sh.drop (if op.matrix then 1 else 0))) s)

end Sys2Proof.Machine
end

