-- ==== Sys2Proof/Machine/Hub.lean ====
section
/-! DEFINITION. The graph store and the hub scheduler: slots, arming, decrements, readiness, completion (R90 to R106, R392). -/

namespace Sys2Proof.Machine

/-! Slots (R90, R91, R94, R95). -/

def SlotStatus.reset : SlotStatus := { state := .free, reason := 0, pending := 0, skipped := false, extra := false, dropped := false }
def State.slot (s : State) (n : Nat) : SlotStatus := mapGetD s.status n SlotStatus.reset
def State.setSlot (s : State) (n : Nat) (x : SlotStatus) : State := { s with status := mapPutD s.status n x SlotStatus.reset }
def State.onSlot (s : State) (n : Nat) (f : SlotStatus → SlotStatus) : State := s.setSlot n (f (s.slot n))

/-- Whether a slot is busy (R96). -/
def SlotState.busy (x : SlotState) : Bool := x == .waiting || x == .ready || x == .running

/-- NODE_STATUS (R95). -/
def SlotStatus.word (x : SlotStatus) : Word :=
  BitVec.ofNat 32 (x.pending % 65536 * 65536 + x.reason.toNat * 256 + (if x.skipped then 64 else 0) + (if x.extra then 32 else 0)
    + (if x.dropped then 16 else 0) + x.state.code)

/-- The partition that owns a slot (R90): in early service partition 0. -/
def State.slotPartition (s : State) (n : Nat) : Nat := slotPart s.modeNow n
/-- The owner of a slot (R91). -/
def State.owner (s : State) (n : Nat) : BitVec 16 := mapGetD s.slotOwner n 0
/-- Whether a program of a context may name a slot (R91, R363, R389). -/
def State.slotAllowed (s : State) (part : Nat) (asid : BitVec 16) (n : Nat) : Bool :=
  n < 65536 && s.slotPartition n == part && (s.owner n == asid || s.owner n == 0xFFFF)

/-- The 64 bytes of a slot. -/
def State.slotBlk (s : State) (n : Nat) : Blk := blkOfBytes ((List.range 64).map (fun i => mapGetD s.slotBytes (64 * n + i) 0))

/-! Reads by the hub at arm (R93, R104). -/

/-- Bytes that the hub reads in a context; none where the read faults or meets uncorrectable data. DESIGN CHOICE: poison, and heap 14
while it is lost, count as a failed read of the window table too (log 100); a block tagged as an allowance object is read as it lies in
memory (log 101). -/
def State.hubByte (s : State) (asid : BitVec 16) (a : Nat) : Option Byte :=
  let va : DWord := BitVec.ofNat 64 a
  let part := match s.ctx asid with | some c => c.partition | none => 0
  if eaSpace va != 0 || !s.heapOnline part (eaHeap va) || (s.pendingPage asid (eaVa va)).isSome || (eaHeap va == 14 && s.heap14Lost) then none
  else
    match s.settle asid (eaVa va) .load (.user, none) with
    | .error _ => none
    | .ok t => let d := leafDpa t.entry t.size (eaVa va); if s.memPoisonAt d then none else some (s.memByte d)
def State.hubRead (s : State) (asid : BitVec 16) (a n : Nat) : Option (List Byte) :=
  (List.range n).foldr (fun i acc => match s.hubByte asid (a + i), acc with
    | some b, some bs => some (b :: bs)
    | _, _ => none) (some [])

/-- What such a read does at the homes: the walks' reads of table entries, and each block read through its memory-side cache (R247, R404). -/
def State.hubTouch (s : State) (asid : BitVec 16) (a n : Nat) : State :=
  (List.range (n / 64 + 2)).foldl (fun s k =>
    let va : DWord := BitVec.ofNat 64 (max a (a / 64 * 64 + 64 * k))
    let part := match s.ctx asid with | some c => c.partition | none => 0
    if a + n ≤ a / 64 * 64 + 64 * k || eaSpace va != 0 || !s.heapOnline part (eaHeap va) || (s.pendingPage asid (eaVa va)).isSome then s
    else
      let s := if (s.cached asid (eaVa va) .load).isSome then s else s.tableReads asid (eaVa va)
      match s.settle asid (eaVa va) .load (.user, none) with
      | .error _ => s
      | .ok t => s.tagAccess asid (eaVa va) (leafDpa t.entry t.size (eaVa va))) s

/-- The window table of a record (R46); none where it is refused. DESIGN CHOICE (log 113): entries 6 and 7, which R46 ignores, are not read, so a
fault of their bytes alone refuses nothing. -/
def State.windowTable (s : State) (asid : BitVec 16) (a : Nat) : Option (List Window) :=
  let part := match s.ctx asid with | some c => c.partition | none => 0
  match (if a % 16 == 0 then s.hubRead asid a 96 else none) with
  | none => none
  | some bs =>
    let ws : List (Nat × Nat × Nat) := (List.range 6).map (fun i =>
      (leNat ((bs.drop (16 * i)).take 8), leNat ((bs.drop (16 * i + 8)).take 4), leNat ((bs.drop (16 * i + 12)).take 4)))
    let bad (w : Nat × Nat × Nat) : Bool :=
      let base : DWord := BitVec.ofNat 64 w.1
      2 ≤ w.2.2 || (w.2.2 == 1 && (eaSpace base != 0 || w.1 % 64 != 0 || 15 ≤ eaHeap base || !s.heapOnline part (eaHeap base)
        || w.2.1 % 64 != 0 || w.2.1 < 64 || 524288 < w.2.1))
    if ws.any bad then none
    else some (ws.map (fun w => { base := eaVa (BitVec.ofNat 64 w.1), size := w.2.1, valid := w.2.2 % 2 == 1 }))

/-- The successor list of a record; none where its read fails. -/
def State.succList (s : State) (asid : BitVec 16) (a n : Nat) : Option (List Nat) :=
  (s.hubRead asid a (2 * n)).map (fun bs => (List.range n).map (fun i => leNat ((bs.drop (2 * i)).take 2)))

/-! Room (R108 to R111, R114). -/

/-- Registers per thread of the sheaf in a slot. -/
def State.slotRegs (s : State) (k : Nat) : Nat :=
  match (s.sheaf k).bind (fun sh => mapFind s.wgs sh.wg) with
  | some w => w.nReg
  | none => 0
/-- The sheaves of a lane. -/
def State.laneSheaves (s : State) (core lane : Nat) : List Nat :=
  ((List.range 4).map (fun j => core * 1024 + lane * 4 + j)).filter (fun k => mapHas s.sheaves k)
/-- Whether a lane has room for a sheaf of n registers (R108, R109). -/
def State.laneRoom (s : State) (core lane n : Nat) : Bool :=
  let xs := s.laneSheaves core lane
  let pairHeld := lane % 2 == 1 && (s.laneSheaves core (lane - 1)).any (fun k => 128 < s.slotRegs k)
  if n ≤ 128 then
    xs.length < 4 && !pairHeld && !xs.any (fun k => 128 < s.slotRegs k)
      && xs.foldl (fun m k => m + s.slotRegs k / 8) 0 + n / 8 ≤ 16
  else lane % 2 == 0 && xs.isEmpty && (s.laneSheaves core (lane + 1)).isEmpty

/-- The resident sheaves of a core, and of one of its lane groups. -/
def State.coreSheaves (s : State) (core : Nat) : Nat := (s.sheaves.filter (fun e => slotCore e.1 == core)).length
def State.groupSheaves (s : State) (core g : Nat) : Nat :=
  (s.sheaves.filter (fun e => slotCore e.1 == core && slotLgrp e.1 == g)).length

/-- The base lane of a part of j sheaves in a lane group (R111). -/
def State.partBase (s : State) (core g j n : Nat) : Option Nat :=
  let step := if n ≤ 128 then 1 else 2
  [0, 16, 32, 48].find? (fun b => b + step * j ≤ 64 && (List.range j).all (fun i => s.laneRoom core (64 * g + b + step * i) n))

/-- The lane groups in the order in which a part is offered to them (R111). -/
def State.groupOrder (s : State) (core : Nat) (laid : List Part) : List Nat :=
  let count (g : Nat) : Nat := s.groupSheaves core g + (laid.filter (fun p => p.lgrp == g)).foldl (fun n p => n + p.count) 0
  [0, 1, 2, 3].foldl (fun acc g => let r := acc.span (fun x => count x ≤ count g); r.1 ++ [g] ++ r.2) []

/-- The parts of a workgroup laid down in order; `sizes` gives the sheaves of each, `ok` what else a lane group must meet. -/
def State.layParts (s : State) (core n : Nat) (ok : Nat → Nat → Bool) : List Nat → Nat → List Part → Option (List Part)
  | [], _, laid => some laid
  | j :: rest, k, laid =>
    let fits (g : Nat) : Option Nat := if laid.any (fun p => p.lgrp == g) || !ok k g then none else s.partBase core g j n
    match (s.groupOrder core laid).findSome? (fun g => (fits g).map (fun b => (g, b))) with
    | none => none
    | some (g, b) =>
      s.layParts core n ok rest (k + 1)
        (laid ++ [{ lgrp := g, base := b, count := j, first := laid.foldl (fun m p => m + p.count) 0 }])

/-- The sizes of a workgroup's parts (R110). -/
def partSizes (nSheaf n : Nat) : List Nat :=
  let p := if n ≤ 128 then 64 else 32
  (List.range ((nSheaf + p - 1) / p)).map (fun k => min p (nSheaf - k * p))

/-- The allocatable units of a core, the free ones (R114). -/
def State.unitCount (s : State) : Nat := s.lsCap / 65536 - 16
def State.freeUnits (s : State) (core : Nat) : Nat := ((List.range s.unitCount).filter (fun x => !s.unitHeld core x)).length
/-- The lowest run of u free units; 0 where none is needed. -/
def State.unitRun (s : State) (core u : Nat) : Option Nat :=
  if u == 0 then some 0
  else (List.range s.unitCount).find? (fun b => b + u ≤ s.unitCount && (List.range u).all (fun i => !s.unitHeld core (b + i)))

/-- A place on a core: the parts, and the first unit. -/
structure Place1 where
  core  : Nat
  parts : List Part
  first : Nat
  deriving DecidableEq, Repr

def State.room (s : State) (core n u : Nat) (sizes : List Nat) (ok : Nat → Nat → Bool) : Option Place1 :=
  match s.layParts core n ok sizes 0 [], s.unitRun core u with
  | some ps, some f => if sizes.length ≤ 4 then some { core := core, parts := ps, first := f } else none
  | _, _ => none

/-! Readiness (R98, R123). -/

/-- A node becomes READY: its arm time, and the flash invalidation of its ASID's unpinned code lines (R123); constant blocks are
read anew (R47), and what fills on their way bring of them is not kept. -/
def State.makeReady (s : State) (n : Nat) : State :=
  match mapFind s.nodes n with
  | none => s
  | some nd =>
    let dies := s.scopeDies (s.slotPartition n)
    let s := (s.onSlot n (fun x => { x with state := .ready })).onNode n (fun x => { x with armTime := s.clk, waiting := s.clk, blocked := none })
    { s with cores := mapMap (fun c k => if dies.contains (coreDie c) then
        { k with ic := k.ic.filter (fun l => l.pinned || l.asid != nd.asid), cc := k.cc.filter (fun b => b.asid != nd.asid),
                 ccMiss := k.ccMiss.map (fun m => if m.asid == nd.asid then { m with stale := true } else m),
                 icMiss := k.icMiss.map (fun m => if m.asid == nd.asid && m.sent then { m with stale := true } else m) } else k) s.cores }

/-! Arming (R93, R96). -/

/-- Fields of a record (R92). -/
def recTotal (r : Blk) : Nat := recNat r 8 4 * recNat r 12 2 * recNat r 14 2
def recDies (allowed : List Nat) (r : Blk) : List Nat :=
  let aff := recNat r 56 2
  if aff == 0 then allowed else allowed.filter (fun d => aff.testBit d)

/-- The workgroups that an empty core holds at once, counted up to a bound (R51). -/
def State.capacity (s : State) (core n u nSheaf : Nat) : Nat → Nat
  | 0 => 0
  | fuel + 1 =>
    match s.room core n u (partSizes nSheaf n) (fun _ _ => true) with
    | none => 0
    | some p =>
      let g := mapFresh s.wgs
      let w : Workgroup := { probeWorkgroup with nSheaf := nSheaf, nReg := n, units := u, core := core, parts := p.parts, lsBase := p.first * 65536 }
      let step := if n ≤ 128 then 1 else 2
      let keys := p.parts.flatMap (fun x => (List.range x.count).map (fun i => 64 * x.lgrp + x.base + step * i))
      let s := keys.foldl (fun (s : State) lane =>
        match (List.range 4).find? (fun j => !mapHas s.sheaves (core * 1024 + lane * 4 + j)) with
        | some j => s.setSheaf (core * 1024 + lane * 4 + j) (Sheaf.placed g 0 0 0 .user 0)
        | none => s) { s with wgs := mapInsert s.wgs g w }
      1 + s.capacity core n u nSheaf fuel

/-- The dies that limit a CORESIDENT record (R51): in early service the early die alone, unless the record's mask excludes it and the
node waits for full service (R26). -/
def State.limitDies (s : State) (allowed : List Nat) (r : Blk) : List Nat :=
  let all := recDies allowed r
  if s.dev.phase == 4 && all.contains s.dev.earlyDie then [s.dev.earlyDie] else all

/-- Whether the workgroups of a record fit empty cores (R40, R51, R93). -/
def State.fits (s : State) (r : Blk) (dies : List Nat) : Bool :=
  let n := 8 * recNat r 18 1
  let cap := ({ s with wgs := [], sheaves := [] } : State).capacity 0 n (recNat r 20 1) (recNat r 16 2) 1024
  recNat r 20 1 * 65536 ≤ s.lsCap - 2 ^ 20 && 0 < cap
    && ((recNat r 19 1).testBit 3 == false || recTotal r ≤ cap * 16 * dies.length)

/-- The checks of R93 in their order: the refusal code, or the window table and the successor list. -/
def State.armCheck (s : State) (n : Nat) (r : Blk) : Except Nat (List Window × List Nat) :=
  let f (o k : Nat) : Nat := recNat r o k
  let asid := s.owner n
  let part := s.slotPartition n
  let ctxPart := match s.ctx asid with | some c => c.partition | none => part
  let allowed := partDies s.modeNow part
  let aff := f 56 2
  let space0 (a align : Nat) : Bool := a / 2 ^ 60 == 0 && a % align == 0
  if asid == 0 then .error 1
  else if f 21 3 != 0 || f 58 2 / 512 != 0 || aff / 512 != 0 || f 63 1 != 1 then .error 2
  else if f 58 2 % 4 != part || ctxPart != part then .error 3
  else if !space0 (f 0 8) 8 then .error 4
  else if f 8 4 == 0 || f 12 2 == 0 || f 14 2 == 0 || f 16 2 == 0 || 256 < f 16 2 || f 18 1 == 0 || 32 < f 18 1 then .error 5
  else if f 19 1 / 32 < 4 then .error 6
  else if aff.testBit 4 || (List.range 9).any (fun d => aff.testBit d && !allowed.contains d) then .error 7
  else
    match s.windowTable asid (f 24 8) with
    | none => .error 8
    | some ws =>
      let succ := if f 34 2 == 0 then some [] else if 4096 < f 34 2 || !space0 (f 36 8) 8 then none else s.succList asid (f 36 8) (f 34 2)
      match succ with
      | none => .error 9
      | some xs =>
        if f 44 8 != 0 && !space0 (f 44 8) 4 then .error 9
        else if (match s.ctx asid with | some c => decide (c.saveAreas.length ≤ f 60 3) | none => true) then .error 10
        else if !s.fits r (s.limitDies allowed r) then .error 11
        else .ok (ws, xs)

/-- A slot refused (R93). -/
def State.refuse (s : State) (n code : Nat) : State := s.onSlot n (fun x => { x with state := .refused, reason := BitVec.ofNat 8 code })

/-- The reads that an arm makes of the window table and of the successor list, as far as the checks come: a refusal before them makes none. -/
def State.armReads (s : State) (n : Nat) (r : Blk) (refused : Option Nat) : State :=
  let code := refused.getD 12
  let asid := s.owner n
  if code < 8 || recNat r 24 8 % 16 != 0 then s
  else
    let s := s.hubTouch asid (recNat r 24 8) 96
    if code == 8 || recNat r 34 2 == 0 || 4096 < recNat r 34 2 || recNat r 36 8 / 2 ^ 60 != 0 || recNat r 36 8 % 8 != 0 then s
    else s.hubTouch asid (recNat r 36 8) (2 * recNat r 34 2)

/-- A slot armed with a record (R93, R96): refused, WAITING or READY. -/
def State.arm (s : State) (n : Nat) (r : Blk) : State :=
  let pending := (s.slot n).pending
  let s := s.onSlot n (fun x => { x with pending := 0 })
  match s.armCheck n r with
  | .error c => (s.armReads n r (some c)).refuse n c
  | .ok (ws, succ) =>
    let s := s.armReads n r none
    if recNat r 32 2 < pending then s.refuse n 12
    else
      let live := recNat r 32 2 - pending
      let nd : Node :=
        { record := r, asid := s.owner n, windows := ws, succ := succ, live := live, armTime := s.clk, next := 0, retired := 0, dies := [],
          blocked := none, waiting := s.clk, prio := recNat r 19 1 % 8, claimant := false, errored := false, held := false, key := Config.freeWord s.free, compl := .none }
      let s := { s with nodes := mapInsert s.nodes n nd, free := s.free + 1 }.onSlot n (fun x => { x with state := .waiting, reason := 0 })
      if live == 0 then s.makeReady n else s

/-- NODE_ARM (R93): the host's arm of an idle slot; a busy one discards it (R96); in recovery there is no graph store (R18), and without its link
the host sees no device (R23). -/
def execNodeArm (slot : Nat) (record : Blk) (s : State) : Out :=
  .next (if 65536 ≤ slot || !s.hostLink || s.dev.phase == 2 then s
    else if (s.slot slot).state.busy then s.onSlot slot (fun x => { x with dropped := true })
    else s.arm slot record)

/-- A write of bytes to a slot (R94, R96): one that covers byte 63 with a nonzero ARM arms it. -/
def State.writeSlot (s : State) (n first : Nat) (bs : List Byte) : State :=
  if (s.slot n).state.busy then s.onSlot n (fun x => { x with dropped := true })
  else
    let bs := bs.take (64 - first)
    let s := { s with slotBytes := (bs.zipIdx).foldl (fun m b => mapPutD m (64 * n + first + b.2) b.1 0) s.slotBytes }
    if first + bs.length == 64 && bs.length != 0 && bs.getD (63 - first) 0 != 0 then s.arm n (s.slotBlk n) else s

/-- The status a LAUNCH returns (R364). -/
def SlotStatus.launched (x : SlotStatus) (discarded : Bool) : Word :=
  BitVec.ofNat 32 (x.reason.toNat * 256 + (if discarded then 16 else 0) + x.state.code)

/-- Whether a request for a slot has arrived at the hub: it comes before what comes later (R97). -/
def State.hubHolds (s : State) (n : Nat) : Bool := s.net.any (fun f => f.place == .inbox && f.p.dst == .hub && f.p.msg.slotNamed == some n)

/-- SLOT_WRITE (R94, R96, R97, R364): a LAUNCH whose record it is is answered with a status; a slot it may not name fails. Every other
write of a slot is the host's, which sees no device without its link (R23) and no graph store in recovery (R18). -/
def execSlotWrite (slot first : Nat) (bytes : List Byte) (s : State) : Out :=
  .next (match s.receive .hub (fun m => match m with
      | .hub f (.launch n r) => if n == slot && first == 0 && blkBytes r == bytes then some f else none
      | _ => none) with
    | none => if 65536 ≤ slot || 64 ≤ first || !s.hostLink || s.dev.phase == 2 || s.hubHolds slot then s else s.writeSlot slot first bytes
    | some (f, _, s) =>
      let back (s : State) (v : Word) (fail : Bool) : State := s.send .hub (.core f.core) 1 (some f.part) (.status f v fail)
      if !s.slotAllowed f.part f.asid slot then back s 0 true
      else
        let busy := (s.slot slot).state.busy
        let s := s.writeSlot slot 0 bytes
        back s ((s.slot slot).launched busy) false)

/-! Decrements (R97). -/

/-- One decrement of a slot. -/
def State.decrement (s : State) (n : Nat) : State :=
  let x := s.slot n
  match x.state, mapFind s.nodes n with
  | .waiting, some nd => if nd.live ≤ 1 then (s.onNode n (fun y => { y with live := 0 })).makeReady n else s.onNode n (fun y => { y with live := y.live - 1 })
  | .ready, _ => s.setSlot n { x with extra := true }
  | .running, _ => s.setSlot n { x with extra := true }
  | .waiting, none => s
  | _, _ => s.setSlot n { x with pending := min 65535 (x.pending + 1) }

/-- DECREMENT (R97, R365): an NDEC of the slot that has reached the hub, or another decrement behind what has arrived for the slot; a slot an
NDEC may not name fails. -/
def execDecrement (slot : Nat) (s : State) : Out :=
  .next (match s.receive .hub (fun m => match m with | .hub f (.ndec n) => if n == slot then some f else none | _ => none) with
    | none => if 65536 ≤ slot || s.hubHolds slot then s else s.decrement slot
    | some (f, _, s) =>
      if s.slotAllowed f.part f.asid slot then s.decrement slot
      else s.send .hub (.core f.core) 1 (some f.part) (.status f 0 true))

/-! Completion (R103, R104, R106, R392). -/

/-- The workgroups of a node, resident or saved. -/
def State.wgsOf (s : State) (n : Nat) : List (Nat × Workgroup) := s.wgs.filter (fun g => g.2.node == n)

/-- The end of a node: its state, the decrements of its successors and its interrupt (R103 steps 3 to 5, R106). -/
def State.endNode (s : State) (n : Nat) (ok : Bool) : State :=
  match mapFind s.nodes n with
  | none => s
  | some nd =>
    let s := { s.onSlot n (fun x => { x with state := if ok then .complete else .error }) with nodes := mapErase s.nodes n }
    let s := if ok then
        nd.succ.foldl (fun s x =>
          if s.slotPartition x == s.slotPartition n && (s.owner x == nd.asid || s.owner x == 0xFFFF) then s.decrement x
          else s.onSlot n (fun y => { y with skipped := true })) s
      else s
    let w := recNat nd.record 58 2
    if w.testBit 2 then s.raiseMsi (w / 8 % 64) else s

/-- The store of the completion word sent to its home (R103 step 2, R392). DESIGN CHOICE (log 103): no check of the heap comes before it;
its home answers. -/
def State.sendCword (s : State) (n : Nat) (nd : Node) : State :=
  let a : DWord := eaVa (BitVec.ofNat 64 (recNat nd.record 44 8))
  let off := a.toNat % 64
  ({ s.onNode n (fun x => { x with compl := .storing }) with winNext := s.winNext + 1 } : State).send .hub (.home (eaHeap a)) 1 (s.partOf nd.asid)
    (.homeWrite { id := s.winNext, asid := nd.asid, va := a &&& ~~~(63#64), dpa := none,
                  blk := BitVec.ofNat 512 (recNat nd.record 52 4 * 2 ^ (8 * off)), mask := BitVec.ofNat 64 (15 * 2 ^ off), tag := none, poison := 0,
                  writer := .cword n })

/-- Step 1 over: the completion word, or the end where the node has none. -/
def State.afterStep1 (s : State) (n : Nat) : State :=
  match mapFind s.nodes n with
  | none => s
  | some nd => if recNat nd.record 44 8 == 0 then s.endNode n true else s.sendCword n nd

/-- A node whose last workgroup has retired (R103, R106): step 1 sends its markers (R392). -/
def State.nodeRetired (s : State) (n : Nat) : State :=
  match mapFind s.nodes n with
  | none => s
  | some nd =>
    if nd.errored then (if (s.wgsOf n).isEmpty then s.endNode n false else s)
    else if nd.retired < recTotal nd.record then s
    else
      let kind := actsAs (recNat nd.record 19 1 / 32)
      let f : MarkFor := .complete n
      let part := s.partOf nd.asid
      let s := (s.onNode n (fun x => { x with compl := .releasing }))
      let s := nd.dies.foldl (fun s d => (List.range 16).foldl (fun s i => s.send .hub (.slice d i) 0 part (.mark f 5)) s) s
      let s := if 6 ≤ kind then s.sendPodMarkers .hub f else s
      let s := if 7 ≤ kind then s.send .hub .hostPort 0 part (.mark f 7) else s
      { s with hubMarks := s.hubMarks ++ [{ who := f, left := 16 * nd.dies.length + (if 6 ≤ kind then 12 else 0) + (if 7 ≤ kind then 1 else 0) }] }

/-- The answers to one set of the hub's markers taken in; whether all have come. -/
def State.takeHubMarks (s : State) (f : MarkFor) : State × Bool :=
  let mine (x : Flight) : Bool := x.place == .inbox && x.p.dst == .hub && x.p.msg == .marked f
  let n := (s.net.filter mine).length
  let s := { s with net := s.net.filter (fun x => !mine x)
                    hubMarks := s.hubMarks.map (fun (m : HubMark) => if m.who == f then { m with left := m.left - n } else m) }
  match s.hubMarks.find? (fun (m : HubMark) => m.who == f) with
  | some m => if m.left == 0 then ({ s with hubMarks := s.hubMarks.filter (fun (m : HubMark) => m.who != f) }, true) else (s, false)
  | none => (s, false)

/-- COMPLETION_RELEASE_DONE (R103, R392): the markers of step 1 are answered. -/
def execCompletionReleaseDone (slot : Nat) (s : State) : Out :=
  let r := s.takeHubMarks (.complete slot)
  .next (if r.2 then r.1.afterStep1 slot else r.1)

/-- What follows the release of the page that a completion word waits for (R104): the store again, or the end of its node in error. -/
def State.cwordReleased (s : State) (n : Nat) (fail : Bool) : State :=
  match mapFind s.nodes n with
  | none => s
  | some nd => if fail then s.endNode n false else s.sendCword n nd

/-- COMPLETION_WORD_DONE (R103, R104): the store of the completion word is acknowledged, faults, or fails; its page may have been
released while the fault was on its way. -/
def execCompletionWordDone (slot : Nat) (s : State) : Out :=
  .next (match s.receive .hub (fun m => match m with | .writeAck w a => if w.writer == .cword slot then some (w, a) else none | _ => none) with
    | none => s
    | some ((w, a), _, s) =>
      match a.status with
      | .ok => s.endNode slot true
      | .fault t =>
        let s := s.onNode slot (fun x => { x with compl := .held t })
        (match mapFind s.released t.toNat with
        | some fail => s.cwordReleased slot fail
        | none => s)
      | .bad c =>
        let s := s.endNode slot false
        if c.toNat == causeDataError then s.fqRecord { errorRec s 0x10 w.wordVa w.asid 0x02 0 with node := slot, place := 0x40, lane := 0xFF }
        else if c.toNat == causeExpanderLost then
          s.fqRecord { errorRec s 0x12 (BitVec.ofNat 64 (a.dpa + w.wordVa.toNat % 64)) w.asid 0x82 0 with node := slot, place := 0x40, lane := 0xFF }
        else s)

end Sys2Proof.Machine
end

