-- ==== Sys2Proof/Machine/Place.lean ====
section
/-! DEFINITION. The distributor (R99 to R102, R105, R108 to R117): the order of nodes, placement, the reclaim, the choice of
victims; restoring saved workgroups (R379); retirement (R391). -/

namespace Sys2Proof.Machine

/-! Priorities (R99, R100). -/

/-- The base priority of a node. -/
def Node.base (nd : Node) : Nat := recNat nd.record 19 1 % 8
/-- CORESIDENT (R51). -/
def Node.coresident (nd : Node) : Bool := (recNat nd.record 19 1).testBit 3

/-- Effective priority after a wait, for a QUANTUM (R99). -/
def effPriority (b wait quantum : Nat) : Nat := if b == 7 then 7 else if quantum == 0 then b else min 6 (b + wait / quantum)

/-- The effective priority of a node now. -/
def State.effNow (s : State) (n : Nat) (nd : Node) : Nat :=
  effPriority nd.base (s.clk - nd.waiting) ((s.quantum.getD (s.slotPartition n) 0).toNat)

/-- PRIORITY_AGEING (R99): the effective priority of a node as it ages, noted with the node. What the distributor decides, it decides by the
priority of that moment. -/
def execPriorityAgeing (slot : Nat) (s : State) : Out :=
  .next (match mapFind s.nodes slot with
    | none => s
    | some nd => if nd.prio == s.effNow slot nd then s else s.onNode slot (fun x => { x with prio := s.effNow slot nd }))

/-- The wait of PREEMPT_WAIT for a level; none where the level never pre-empts (R100). -/
def preemptWait (w : Word) (level : Nat) : Option Nat :=
  match w.toNat / 16 ^ level % 16 with
  | 0 => some 0
  | 15 => none
  | c => some (2 ^ (c + 9))

/-! What a node has to place (R50, R102, R106). -/

/-- A workgroup to place: a saved one by its number, or a fresh one by its linear index. -/
inductive Work where
  | saved (g : Nat)
  | fresh (lin : Nat)
  deriving DecidableEq, Repr

/-- The saved workgroups of a node in linear order. -/
def State.savedOf (s : State) (n : Nat) : List Nat :=
  ((s.wgsOf n).filter (fun g => g.2.stage == .saved)).foldl (fun acc g =>
    let r := acc.span (fun h => match mapFind s.wgs h with | some w => w.lin ≤ g.2.lin | none => true)
    r.1 ++ [g.1] ++ r.2) []

/-- The work of a node in the order of R50 and R102, at most `most` pieces: saved workgroups unless held, then fresh ones unless the node is in
error. -/
def State.works (s : State) (n : Nat) (nd : Node) (most : Nat) : List Work :=
  let old := if nd.held then [] else (s.savedOf n).map Work.saved
  let left := if nd.errored then 0 else recTotal nd.record - nd.next
  (old ++ (List.range (min left most)).map (fun i => Work.fresh (nd.next + i))).take most

/-- Whether a stage has a workgroup on its way out of its core, or out of it. -/
def WgStage.leaving (x : WgStage) : Bool := match x with | .vacating _ => true | .saving _ => true | .saved => true | _ => false
/-- Whether a workgroup has been asked to vacate, or vacates, and still holds its room. -/
def Workgroup.vacates (w : Workgroup) : Bool := w.stage != .saved && (w.asked || w.stage.leaving)

/-- What must be placed in one step: one workgroup, or all of a CORESIDENT node's, once the last of those that leave has left (R51). -/
def State.nextWorks (s : State) (n : Nat) (nd : Node) : List Work :=
  if !nd.coresident then s.works n nd 1
  else if (s.wgsOf n).any (fun g => g.2.vacates) then []
  else s.works n nd (recTotal nd.record)

/-- Whether the phase lets a node's workgroups be placed (R26, R27). -/
def State.nodeMay (s : State) (nd : Node) : Bool :=
  s.dev.phase == 6 || (s.dev.phase == 4 && (recNat nd.record 19 1).testBit 4)

/-- The dies that may receive the workgroups of a node (R26, R112). -/
def State.nodeDies (s : State) (n : Nat) (nd : Node) : List Nat :=
  if s.dev.phase == 6 then recDies (partDies s.modeNow (s.slotPartition n)) nd.record else recDies [s.dev.earlyDie] nd.record

/-! Choosing the core (R112). -/

/-- The registers, units and parts that a piece of work needs, and what else its lane groups must meet (R288). -/
def State.needs (s : State) (nd : Node) (w : Work) (core : Nat) : Nat × Nat × List Nat × (Nat → Nat → Bool) :=
  match w with
  | .fresh _ =>
    (8 * recNat nd.record 18 1, recNat nd.record 20 1, partSizes (recNat nd.record 16 2) (8 * recNat nd.record 18 1), fun _ _ => true)
  | .saved g =>
    match mapFind s.wgs g with
    | none => (0, 0, [], fun _ _ => false)
    | some x =>
      let free (lgrp : Nat) (tile : Bool) (mask : Nat) : Bool :=
        (List.range 32).all (fun j => !mask.testBit j || !mapHas (s.core core).claims (mxEntry lgrp tile j))
      (x.nReg, x.units, x.parts.map (fun p => p.count), fun k lgrp =>
        let c := x.claims.getD k (0, 0)
        free lgrp false c.1 && free lgrp true c.2)

/-- Where a piece of work has room on a core. -/
def State.roomFor (s : State) (nd : Node) (w : Work) (core : Nat) : Option Place1 :=
  let x := s.needs nd w core
  s.room core x.1 x.2.1 x.2.2.1 x.2.2.2

/-- Whether one place comes before another: fewer sheaves, more free units, lower die, lower core. -/
def State.placeBefore (s : State) (a b : Place1) : Bool :=
  let na := s.coreSheaves a.core
  let nb := s.coreSheaves b.core
  if na != nb then na < nb
  else if s.freeUnits a.core != s.freeUnits b.core then s.freeUnits b.core < s.freeUnits a.core
  else a.core < b.core

/-- The cores of some dies. -/
def coresOf (dies : List Nat) : List Nat := dies.flatMap (fun d => (List.range 16).map (fun i => 16 * d + i))

/-- The places on which a piece of work of a node has room. -/
def State.placesFor (s : State) (n : Nat) (nd : Node) (w : Work) : List Place1 :=
  (coresOf (s.nodeDies n nd)).filterMap (fun c => s.roomFor nd w c)
/-- The place among some that R112 chooses. -/
def State.bestPlace (s : State) (ps : List Place1) : Option Place1 :=
  ps.foldl (fun acc p =>
    match acc with
    | none => some p
    | some b => if s.placeBefore p b then some p else acc) none
/-- The place that R112 chooses. -/
def State.choosePlace (s : State) (n : Nat) (nd : Node) (w : Work) : Option Place1 := s.bestPlace (s.placesFor n nd w)

/-- The size of a workgroup's save record (R377). -/
def recSize (nSheaf n u : Nat) : Nat := 4096 + nSheaf * (128 * n + 16384) + u * 65536

/-! Placement (R37, R105, R109, R114, R116, R117). -/

/-- The keys of a region's offsets on a core. -/
def inRegion (core base units : Nat) (key : Nat) : Bool := lsKey core base ≤ key && key < lsKey core (base + 65536 * units)

/-- A region cleared (R116). -/
def State.clearRegion (s : State) (core base units : Nat) : State :=
  let keep {α : Type} (div : Nat) (m : Map α) : Map α := mapFilter (fun k _ => !inRegion core base units (k * div)) m
  { s with ls := keep 1 s.ls, lsTag := keep 64 s.lsTag, lsPoison := keep 4 s.lsPoison, bos := keep 16 s.bos }

/-- The lines of some units invalidated and the units cleared (R116). -/
def State.reclaim (s : State) (core base units : Nat) : State :=
  (s.onCore core (fun c => { c with
    l1 := c.l1.filter (fun l => !(base / 65536 < l.place && l.place ≤ base / 65536 + units)) })).clearRegion core base units

/-- Sheaf slots for the sheaves of a workgroup at its parts, the lane's lowest free slot each. -/
def State.seat (s : State) (g core nReg : Nat) (parts : List Part) (sheaf : Nat → Option Sheaf) : State :=
  let step := if nReg ≤ 128 then 1 else 2
  parts.foldl (fun s p => (List.range p.count).foldl (fun s i =>
    let lane := 64 * p.lgrp + p.base + step * i
    match sheaf (p.first + i), (List.range 4).find? (fun j => !mapHas s.sheaves (core * 1024 + lane * 4 + j)) with
    | some sh, some j => s.setSheaf (core * 1024 + lane * 4 + j) { sh with wg := g }
    | _, _ => s) s) s

/-- A fresh workgroup placed; the first makes its slot RUNNING (R95, R102). -/
def State.placeFresh (s : State) (n : Nat) (nd : Node) (lin : Nat) (p : Place1) : State :=
  let f (o k : Nat) : Nat := recNat nd.record o k
  let g := s.winNext
  let nSheaf := f 16 2
  let units := f 20 1
  let ctx := s.ctx nd.asid
  let level : Level := match ctx with | some c => if c.sys then .system else .user | none => .user
  let w : Workgroup :=
    { node := n, lin := lin, tag := BitVec.ofNat 32 g, asid := nd.asid, nSheaf := nSheaf, nReg := 8 * f 18 1, units := units,
      core := p.core, parts := p.parts, lsBase := p.first * 65536,
      bars := List.replicate 16 { expected := nSheaf, arrived := 0, phase := false, byLive := true },
      repro := (match ctx with | some c => c.repro | none => false), seed := (match ctx with | some c => c.seed | none => 0),
      stage := .reclaiming (s.clk + units), placedAt := s.clk, placeNo := g, suspDie := none, asked := false, claims := [], saved := [],
      kept := Saved.empty }
  let s := { s with wgs := mapInsert s.wgs g w, winNext := g + 1 }
  let s := s.seat g p.core w.nReg p.parts (fun i => some (Sheaf.placed g i (BitVec.ofNat 64 (f 0 8)) nd.asid level s.clk))
  let s := s.reclaim p.core w.lsBase units
  (s.onNode n (fun x => { x with next := lin + 1, claimant := false, blocked := none })).onSlot n (fun x => { x with state := .running })

/-- A saved workgroup placed again (R379): its claims are retaken; the markers to its suspension die go out where it comes to
another die. -/
def State.placeSaved (s : State) (n g : Nat) (p : Place1) : State :=
  match mapFind s.wgs g with
  | none => s
  | some w =>
    let claims := (p.parts.zipIdx).flatMap (fun x =>
      let c := w.claims.getD x.2 (0, 0)
      ((List.range 32).filter (fun j => c.1.testBit j)).map (fun j => mxEntry x.1.lgrp false j)
        ++ ((List.range 16).filter (fun j => c.2.testBit j)).map (fun j => mxEntry x.1.lgrp true j))
    let w' : Workgroup := { w with core := p.core, parts := p.parts, lsBase := p.first * 65536, stage := .restoring (s.clk + w.units),
                                   placedAt := s.clk, placeNo := s.winNext, saved := [] }
    let s := { s with wgs := mapInsert s.wgs g w', winNext := s.winNext + 1 }
    let s := s.seat g p.core w.nReg p.parts (fun i => w.saved.find? (fun sh => sh.idx == i))
    let s := s.onCore p.core (fun c => { c with claims := claims.foldl (fun m x => mapInsert m x g) c.claims })
    let s := s.reclaim p.core w'.lsBase w.units
    let s := s.onNode n (fun x => { x with claimant := false, blocked := none })
    match w.suspDie with
    | some d =>
      if d == coreDie p.core then s
      else
        let s := (List.range 16).foldl (fun s i => s.send .hub (.slice d i) 0 (s.partOf w.asid) (.mark (.restore g) 5)) s
        { s with hubMarks := s.hubMarks ++ [{ who := .restore g, left := 16 }] }
    | none => s

/-- A piece of work placed at a place. -/
def State.placeAt (s : State) (n : Nat) (nd : Node) (w : Work) (p : Place1) : State :=
  match w with | .fresh lin => s.placeFresh n nd lin p | .saved g => s.placeSaved n g p

/-- A piece of work placed where R112 chooses among the places that leave a state of a kind. -/
def State.placeWork (s : State) (n : Nat) (ok : State → Bool) (w : Work) : Option State :=
  match mapFind s.nodes n with
  | none => none
  | some nd => (s.bestPlace ((s.placesFor n nd w).filter (fun p => ok (s.placeAt n nd w p)))).map (fun p => s.placeAt n nd w p)

/-- All of some work placed, or none of it. -/
def State.placeAll (s : State) (n : Nat) (ok : State → Bool) : List Work → Option State
  | [] => some s
  | w :: rest => (s.placeWork n ok w).bind (fun s => s.placeAll n ok rest)

/-! Room kept for a candidate (R101). -/

/-- The state with some workgroups out of their rooms, to see what they leave. -/
def State.without (s : State) (gs : List Nat) : State :=
  { s with wgs := mapMap (fun g w => if gs.contains g then { w with stage := .saved } else w) s.wgs
           sheaves := s.sheaves.filter (fun x => !gs.contains x.2.wg)
           cores := mapMap (fun _ c => { c with claims := c.claims.filter (fun x => !gs.contains x.2) }) s.cores }

/-- The workgroups that leave their rooms. -/
def State.leavers (s : State) : List Nat := (s.wgs.filter (fun g => g.2.vacates)).map (fun g => g.1)
/-- Whether a node can place its next work once they have left. -/
def State.wouldFit (s : State) (n : Nat) : Bool :=
  match mapFind s.nodes n with
  | none => false
  | some nd => ((s.without s.leavers).placeAll n (fun _ => true) (s.nextWorks n nd)).isSome
/-- Whether a placement for a node leaves the candidates that others vacate for the room that they would have (R101 rule 5). -/
def State.sparesClaims (s : State) (n : Nat) (s' : State) : Bool :=
  s.nodes.all (fun c => c.1 == n || !c.2.claimant || !s.wouldFit c.1 || s'.wouldFit c.1)

/-! The order of ready nodes (R99). -/

/-- The nodes of a partition with work to place, in the order in which the distributor serves them: descending effective priority, then
ascending arm time, then ascending slot. -/
def State.servedNodes (s : State) (part : Nat) : List Nat :=
  let ready (e : Nat × Node) : Bool :=
    s.slotPartition e.1 == part && ((s.slot e.1).state == .ready || (s.slot e.1).state == .running) && s.nodeMay e.2
      && !(s.nextWorks e.1 e.2).isEmpty
  let before (a b : Nat × Node) : Bool :=
    if s.effNow a.1 a.2 != s.effNow b.1 b.2 then s.effNow b.1 b.2 < s.effNow a.1 a.2
    else if a.2.armTime != b.2.armTime then a.2.armTime < b.2.armTime
    else a.1 < b.1
  ((s.nodes.filter ready).foldl (fun acc x => let r := acc.span (fun y => before y x); r.1 ++ [x] ++ r.2) []).map (fun x => x.1)

/-- The first node of the order that can place, with the state after it; and the first that cannot. -/
def State.serve1 (s : State) : List Nat → Option Nat → Option Nat × Option (List Work × State)
  | [], blocked => (blocked, none)
  | n :: rest, blocked =>
    match mapFind s.nodes n with
    | none => s.serve1 rest blocked
    | some nd =>
      let ws := s.nextWorks n nd
      match s.placeAll n (s.sparesClaims n) ws with
      | some s' => (blocked, some (ws, s'))
      | none => s.serve1 rest (blocked.orElse (fun _ => some n))

/-- The mark of the first node that cannot place, kept over its whole wait (R101). -/
def State.markBlocked (s : State) (part : Nat) (first : Option Nat) : State :=
  { s with nodes := mapMap (fun n nd =>
      if s.slotPartition n != part then nd
      else if some n == first then { nd with blocked := some (nd.blocked.getD s.clk) }
      else { nd with blocked := none }) s.nodes }

/-- Whether work restores saved workgroups. -/
def Work.isSaved (w : Work) : Bool := match w with | .saved _ => true | .fresh _ => false

/-- PLACE_WORKGROUP (R99, R108 to R117): the first node that can place its next work places it; the first that cannot is marked. -/
def execPlaceWorkgroup (partition : Nat) (s : State) : Out :=
  let r := s.serve1 (s.servedNodes partition) none
  .next (match r.2 with
    | none => s.markBlocked partition r.1
    | some (ws, s') => if ws.any Work.isSaved then s.markBlocked partition r.1 else s'.markBlocked partition r.1)

/-- WORKGROUP_RESTORE (R102, R379): a saved workgroup, with its whole node where it is CORESIDENT, is placed when its turn has
come. -/
def execWorkgroupRestore (wg : Nat) (s : State) : Out :=
  .next (match mapFind s.wgs wg with
    | none => s
    | some w =>
      match (s.serve1 (s.servedNodes (s.slotPartition w.node)) none).2 with
      | some (ws, s') => if ws.contains (.saved wg) then s' else s
      | none => s)

/-! The start of a placed workgroup (R105, R116, R117). -/

/-- Whether a fill into some units of a core's L1 is still on its way (R116). -/
def State.fillsOut (s : State) (core base units : Nat) : Bool :=
  let old (q : ReadReq) : Bool := q.l1 && base / 65536 < q.place && q.place ≤ base / 65536 + units
  s.net.any (fun f => match f.p.msg with
    | .read q => f.p.src == .core core && old q
    | .data q _ => f.p.dst == .core core && old q
    | _ => false)
    || s.slices.any (fun x => x.2.merge.any (fun m => m.recs.any (fun r => r.1 == .core core && old r.2.2)))

/-- The DEVICE acquire of R105, after which every sheaf of a workgroup is ready; constant blocks of its context are read anew on the
core, where they could be older than what it has read elsewhere (R47). -/
def State.startWg (s : State) (g : Nat) (w : Workgroup) : State :=
  let s := (s.acquire w.core 5).onWg g (fun x => { x with stage := .running })
  let s := s.onCore w.core (fun c => { c with
    cc := c.cc.filter (fun b => b.asid != w.asid)
    ccMiss := c.ccMiss.map (fun m => if m.asid == w.asid then { m with stale := true } else m) })
  { s with sheaves := mapMap (fun _ sh => if sh.wg == g then { sh with readyAt := s.clk, halted := false } else sh) s.sheaves }

/-- RECLAIM_DONE (R105, R116, R117). -/
def execReclaimDone (wg : Nat) (s : State) : Out :=
  .next (match mapFind s.wgs wg with
    | none => s
    | some w => match w.stage with
      | .reclaiming till => if till ≤ s.clk && !s.fillsOut w.core w.lsBase w.units then s.startWg wg w else s
      | _ => s)

/-! The saved state put back (R379). -/

/-- The numbers of kept entries made anew, in their order. -/
def renumber (base : Nat) (xs : List Nat) (id : Nat) : Nat := base + (xs.takeWhile (fun x => x < id)).length

/-- A sheaf whose kept entries have new numbers. -/
def Sheaf.renumbered (sh : Sheaf) (r : Nat → Nat) : Sheaf :=
  { sh with
    parks := sh.parks.map (fun p => match p.kind with | .entry id => { p with kind := .entry (r id) } | _ => p)
    replays := sh.replays.map (fun x => (r x.1, x.2))
    respTraps := sh.respTraps.map (fun t => { t with entry := t.entry.map r })
    handler := sh.handler.map (fun h => { h with entry := h.entry.map r }) }

/-- The kept entries of a workgroup back in the windows of its new lanes, with the releases they wait for begun anew. -/
def State.restoreEntries (s : State) (g : Nat) (w : Workgroup) : State :=
  let ids := (w.kept.win.map (fun e => (e.1, ())) |> fun m => w.kept.hub.foldl (fun m h => mapInsert m h.1 ()) m).map (fun x => x.1)
  let base := s.winNext
  let r := renumber base ids
  let s := { s with winNext := base + ids.length
                    sheaves := mapMap (fun _ sh => if sh.wg == g then sh.renumbered r else sh) s.sheaves }
  let s := w.kept.hub.foldl (fun s h =>
    match s.slotOf g h.2.2.1.idx with
    | none => s
    | some k => s.beginRelease (r h.1) k h.2.1 (r h.1) (r h.1) none (.hub { h.2.2.1 with core := w.core } h.2.2.2)) s
  w.kept.win.foldl (fun s e =>
    match s.slotOf g e.2.sheaf with
    | none => s
    | some k =>
      let id := r e.1
      let s := { s with win := mapInsert s.win id { e.2 with sheaf := k, order := e.2.order.map (fun _ => id) } }
      let s := if w.kept.remote.contains e.1 then
          s.onCore w.core (fun c => { c with remote := c.remote ++ [{ id := id, wg := g, idx := e.2.sheaf, left := 1 }] })
        else s
      if e.2.order.isSome then s.beginRelease id k e.2.instr.scopeOf id id (some id) (.entry id) else s) s

/-- The parts of a save record in use (R378): offsets and lengths, for the sheaves of some indexes with a frame copy and with kept entries. -/
def recordParts (nSheaf n units : Nat) (sheaves : List (Nat × Bool × Nat)) : List (Nat × Nat) :=
  (0, 4096) :: sheaves.flatMap (fun x =>
    let o := 4096 + x.1 * (128 * n + 16384)
    [(o, 2048), (o + 2048, if x.2.1 then 1024 else 0), (o + 3072, 832 * x.2.2), (o + 16384, 128 * n)])
    ++ [(4096 + nSheaf * (128 * n + 16384), units * 65536)]

/-- The blocks of a save record read from their media (R247, R404). -/
def State.readRecord (s : State) (w : Workgroup) : State :=
  match mapFind s.nodes w.node, s.ctx w.asid with
  | some nd, some c =>
    (match c.saveAreas[recNat nd.record 60 3]? with
    | none => s
    | some (base, size) =>
      let slots := size.toNat / recSize w.nSheaf w.nReg w.units
      let at_ := base.toNat + w.lin % slots * recSize w.nSheaf w.nReg w.units
      let sheaves := (List.range w.nSheaf).map (fun i => (i, mapHas w.kept.frames i, (w.kept.win.filter (fun x => x.2.sheaf == i)).length))
      (recordParts w.nSheaf w.nReg w.units sheaves).foldl (fun s p => (List.range ((p.2 + 63) / 64)).foldl (fun s j =>
        s.mediaAccess (at_ + p.1 + 64 * j) false) s) s)
  | _, _ => s

/-- The region and the frames of a saved workgroup back at its new place. -/
def State.restoreRegion (s : State) (g : Nat) (w : Workgroup) : State :=
  let at_ {α : Type} (div : Nat) (m new : Map α) : Map α := new.foldl (fun m x => mapInsert m (lsKey w.core w.lsBase / div + x.1) x.2) m
  let s := { s with ls := w.kept.bytes.foldl (fun m x => mapPutD m (lsKey w.core w.lsBase + x.1) x.2 0) s.ls
                    lsTag := at_ 64 s.lsTag w.kept.tags
                    lsPoison := at_ 4 s.lsPoison w.kept.poison
                    bos := at_ 16 s.bos w.kept.bos }
  w.kept.frames.foldl (fun s f => match s.slotOf g f.1 with | some k => s.putFrame k f.2 | none => s) s

/-- WORKGROUP_RESTORE_DONE (R379): once the reclaim is over and the markers are answered, the saved parts are written back, the
DEVICE acquire is made and the kept entries replay. -/
def execWorkgroupRestoreDone (wg : Nat) (s : State) : Out :=
  .next (match mapFind s.wgs wg with
    | none => s
    | some w => match w.stage with
      | .restoring till =>
        let owed := s.hubMarks.any (fun m => m.who == .restore wg)
        let r := if owed then s.takeHubMarks (.restore wg) else (s, true)
        if !r.2 then r.1
        else if s.clk < till || s.fillsOut w.core w.lsBase w.units then (if owed then r.1 else s)
        else
          let s := (((r.1.readRecord w).restoreRegion wg w).restoreEntries wg w).onWg wg (fun x => { x with kept := Saved.empty, suspDie := none })
          let s := s.startWg wg w
          (s.sheaves.filter (fun e => e.2.wg == wg)).foldl (fun s e => s.pump e.1) s
      | _ => s)

/-! Retirement (R288, R391). -/

/-- Pins of an ASID on a core released once its last workgroup has left it (R122). -/
def State.releasePins (s : State) (core : Nat) (asid : BitVec 16) : State :=
  if s.wgs.any (fun g => g.2.core == core && g.2.asid == asid && g.2.stage != .saved) then s
  else s.onCore core (fun c => { c with ic := c.ic.map (fun l => if l.asid == asid then { l with pinned := false } else l) })

/-- Whether operations of a workgroup are outstanding on any counter, on any core. -/
def State.opsOut (s : State) (g : Nat) : Bool :=
  s.cores.any (fun c => c.2.eng.any (fun x => x.wg == g) || c.2.code.any (fun x => x.wg == g) || c.2.remote.any (fun x => x.wg == g)
    || c.2.rows.any (fun x => x.wg == g) || c.2.mq.any (fun q => q.2.any (fun x => x.wg == g)))

/-- A release made for a workgroup by its core (R318, R377, R391). -/
def State.wgRelease (s : State) (w : Workgroup) (t : RelThen) : Nat × State :=
  let id := s.winNext
  let r : Release := { sheaf := none, core := w.core, lgrps := w.parts.map (fun p => p.lgrp), scope := 3, stage := 0, own := none,
                       before := id, mark := id, left := 0, then_ := t }
  (id, { s with winNext := id + 1, rels := mapInsert s.rels id r })

/-- The room of a workgroup freed and its retirement reported (R391 steps 2 to 5). -/
def State.retireWg (s : State) (g : Nat) (w : Workgroup) : State :=
  let s := { s with
    cores := mapMap (fun _ c => Core.dropOwner (Core.dropClaims c g) w.ident) s.cores
    bos := mapFilter (fun k _ => !inRegion w.core w.lsBase w.units (k * 16)) s.bos
    wgs := mapErase s.wgs g }
  let s := s.releasePins w.core w.asid
  let d := coreDie w.core
  let s := s.onNode w.node (fun x => { x with retired := x.retired + 1, dies := if x.dies.contains d then x.dies else x.dies ++ [d] })
  s.nodeRetired w.node

/-- WORKGROUP_RETIRE (R391): with every sheaf ended and every counted operation complete, the DIE release; with that done, the
workgroup is gone. -/
def execWorkgroupRetire (wg : Nat) (s : State) : Out :=
  .next (match mapFind s.wgs wg with
    | none => s
    | some w =>
      let ovl := s.sheaves.all (fun e => e.2.wg != wg) && !s.opsOut wg
      let start : State := let r := s.wgRelease w (.retire wg); r.2.onWg wg (fun x => { x with stage := .retiring r.1 })
      match w.stage with
      | .running => if ovl then start else s
      | .vacating _ => if ovl then start else s
      | .retiring id =>
        let s := s.runRelease 7 id
        if mapHas s.rels id then s else s.retireWg wg w
      | _ => s)

end Sys2Proof.Machine
end

