-- ==== Sys2Proof/Machine/Preempt.lean ====
section
/-! DEFINITION. Pre-emption: the choice of victims (R101), the vacate and its end states (R374 to R376, R297), the save record (R377,
R378), CTXSV and CTXLD at the hub (R389). -/

namespace Sys2Proof.Machine

/-! Save records (R377, R378). -/

/-- The record slot of a workgroup: its number and its address; none where the area holds no record. -/
def State.recordSlot (s : State) (w : Workgroup) : Option (Nat × Nat) :=
  match mapFind s.nodes w.node, s.ctx w.asid with
  | some nd, some c =>
    (match c.saveAreas[recNat nd.record 60 3]? with
    | none => none
    | some (base, size) =>
      let r := recSize w.nSheaf w.nReg w.units
      let slots := size.toNat / r
      if slots == 0 then none else some (w.lin % slots, base.toNat + w.lin % slots * r))
  | _, _ => none

/-- Whether a workgroup may be vacated (R377): its record slot holds no other workgroup of its node. -/
def State.savable (s : State) (g : Nat) (w : Workgroup) : Bool :=
  match s.recordSlot w with
  | none => false
  | some (i, _) =>
    (s.wgsOf w.node).all (fun x => x.1 == g || !(x.2.asked || x.2.stage.leaving)
      || (match s.recordSlot x.2 with | some (j, _) => j != i | none => true))

/-- A workgroup that a vacate may name now. -/
def State.vacatable (s : State) (g : Nat) (w : Workgroup) : Bool :=
  !w.asked && !w.stage.leaving && (match w.stage with | .retiring _ => false | _ => true) && s.savable g w

/-! Victims (R101). -/

/-- The workgroups that leave with one: itself, or all of a CORESIDENT node's that do not retire (R51). -/
def State.together (s : State) (g : Nat) (w : Workgroup) : List Nat :=
  match mapFind s.nodes w.node with
  | some nd =>
    if nd.coresident then
      ((s.wgsOf w.node).filter (fun x => match x.2.stage with | .retiring _ => false | _ => true)).map (fun x => x.1)
    else [g]
  | none => [g]

/-- Some workgroups asked to vacate, all of them or none: each must have a record slot beside those asked before it (R377). -/
def State.askAll (s : State) : List Nat → Option State
  | [] => some s
  | g :: rest =>
    match mapFind s.wgs g with
    | none => none
    | some w => if s.vacatable g w then (s.onWg g (fun x => { x with asked := true })).askAll rest else none

/-- The possible victims of a level on a core, lowest priority first, then latest placement first. -/
def State.victims (s : State) (n core level : Nat) : List Nat :=
  let prio (w : Workgroup) : Nat := match mapFind s.nodes w.node with | some nd => nd.base | none => 7
  let ok (x : Nat × Workgroup) : Bool :=
    x.2.core == core && x.2.node != n && prio x.2 < level && (s.askAll (s.together x.1 x.2)).isSome
  let before (a b : Nat × Workgroup) : Bool :=
    if prio a.2 != prio b.2 then prio a.2 < prio b.2
    else if a.2.placedAt != b.2.placedAt then b.2.placedAt < a.2.placedAt
    else b.2.placeNo < a.2.placeNo
  ((s.wgs.filter ok).foldl (fun acc x => let r := acc.span (fun y => !before x y); r.1 ++ [x] ++ r.2) []).map (fun x => x.1)

/-- The fewest victims of a list, taken in order, that make room for some work on a core: they, and the state without them. One that
cannot be saved beside those taken is passed over (R377). -/
def State.enough (s : State) (nd : Node) (w : Work) (core : Nat) : List Nat → List Nat → Option (List Nat × State)
  | [], _ => none
  | v :: rest, taken =>
    let more := match mapFind s.wgs v with | some x => s.together v x | none => [v]
    if (s.askAll more).isNone then s.enough nd w core rest taken
    else
      let s' := s.without more
      if (s'.roomFor nd w core).isSome then some (taken ++ more, s') else s'.enough nd w core rest (taken ++ more)

/-- The victims for some work on the first core of the node's mask on which they free enough room. -/
def State.victimsFor (s : State) (n : Nat) (nd : Node) (w : Work) : Option (List Nat × State) :=
  (coresOf (s.nodeDies n nd)).findSome? (fun c => s.enough nd w c (s.victims n c (s.effNow n nd)) [])

/-- The victims for all the work that a candidate must place in one step. -/
def State.victimsAll (s : State) (n : Nat) (nd : Node) : List Work → List Nat → Option (List Nat)
  | [], taken => some taken
  | w :: rest, taken =>
    match s.placeWork n (fun _ => true) w with
    | some s' => s'.victimsAll n nd rest taken
    | none =>
      match s.victimsFor n nd w with
      | none => none
      | some (gs, s') => (s'.placeWork n (fun _ => true) w).bind (fun s' => s'.victimsAll n nd rest (taken ++ gs))

/-- PREEMPT_CANDIDATE (R101): the node that has stood first among those without room for its level's PREEMPT_WAIT has victims
chosen; the hub asks them to vacate. A candidate chooses again where it would have no room even with all gone that leave. -/
def execPreemptCandidate (partition : Nat) (s : State) : Out :=
  let due (e : Nat × Node) : Bool :=
    s.slotPartition e.1 == partition && (!e.2.claimant || !s.wouldFit e.1)
      && (match e.2.blocked, preemptWait (s.preWait.getD partition 0) (s.effNow e.1 e.2) with
      | some t, some w => t + w ≤ s.clk
      | _, _ => false)
  .next (match s.nodes.find? due with
    | none => s
    | some (n, nd) =>
      match s.victimsAll n nd (s.nextWorks n nd) [] with
      | none => s
      | some [] => s
      | some gs =>
        { s.onNode n (fun x => { x with claimant := true }) with
          wgs := mapMap (fun g w => if gs.contains g then { w with asked := true } else w) s.wgs })

/-! The vacate (R374, R375). -/

/-- VACATE_REQUEST (R374, R186): the sheaves of a workgroup that was asked to vacate start no new chain; a sleep ends. With its last sheaf
ended the request is dropped: the workgroup retires, and its room stays the candidate's (R394). -/
def execVacateRequest (wg : Nat) (s : State) : Out :=
  .next (match mapFind s.wgs wg with
    | none => s
    | some w =>
      if !w.asked || w.stage != .running || s.sheaves.all (fun e => e.2.wg != wg || e.2.ended) then s
      else
        let s := s.onWg wg (fun x => { x with stage := .vacating s.clk })
        { s with sheaves := mapMap (fun _ sh => if sh.wg == wg then
            { sh with halted := true, wait := (match sh.wait with | .sleep _ => .none | x => x) } else sh) s.sheaves })

/-- Whether an outstanding access is abandoned (R375): loads, stores awaiting their confirmation, ALTAKE. -/
def WinEntry.abandonable (e : WinEntry) : Bool :=
  match memClass e.instr with
  | .load => true
  | .store => e.blks.all (fun b => b.stage != .sent || eaSpace b.base == 0)
  | .allow => (match e.instr with | .altake _ => true | _ => false)
  | .atomic => false

/-- Whether an entry still has a request on its way. -/
def WinEntry.sent (e : WinEntry) : Bool := e.blks.any (fun b => b.stage == .sent)

/-- Whether an entry brings nothing once its sheaf has ended: a load, a take. -/
def WinEntry.barren (e : WinEntry) : Bool :=
  match memClass e.instr with
  | .load => true
  | .allow => (match e.instr with | .altake _ => true | _ => false)
  | _ => false

/-- The window entries of a workgroup that meet a condition, out of the windows and kept with it: what was sent is to be sent
again. Of an ended sheaf a load and a take are dropped (R394). -/
def State.keepEntries (s : State) (g : Nat) (p : WinEntry → Bool) : State :=
  s.win.foldl (fun s e =>
    match s.sheaf e.2.sheaf with
    | none => s
    | some sh =>
      if sh.wg != g || !p e.2 then s
      else
        let core := slotCore e.2.sheaf
        let s := if memClass e.2.instr == .allow then
            e.2.blks.foldl (fun s b => s.alForget core { asid := e.2.asid, va := b.base } e.1) s
          else s
        let counted := (s.core core).remote.any (fun x => x.id == e.1)
        let s := { s with win := mapErase s.win e.1 }.onCore core (fun c => { c with remote := c.remote.filter (fun x => x.id != e.1) })
        if sh.ended && e.2.barren then s.onSheaf e.2.sheaf (fun sh => sh.clearPend e.2.instr.dstOf)
        else
        let kept : WinEntry := { e.2 with sheaf := sh.idx, blks := e.2.blks.map (fun b => if b.stage == .sent then { b with stage := .held } else b) }
        s.onWg g (fun w => { w with kept := { w.kept with win := mapInsert w.kept.win e.1 kept
                                                          remote := if counted then w.kept.remote ++ [e.1] else w.kept.remote } })) s

/-- Whether a sheaf waits for a constant block or for the words of its instruction (R375). -/
def Sheaf.awaitsWords (sh : Sheaf) : Bool :=
  (match sh.wait with | .const _ _ => true | _ => false) || (sh.fetching.isSome && !fetched sh.fbuf sh.pc)

/-- The ended sheaves of a workgroup with nothing outstanding leave their slots. -/
def State.reapAll (s : State) (g : Nat) : State :=
  (s.sheaves.filter (fun e => e.2.wg == g && e.2.ended)).foldl (fun s e => s.reap e.1) s

/-- VACATE_ABANDON_TIMER (R375): 1,500 cycles after the request, what is abandoned or dropped; an instruction that waits inside a
chain for a constant or for its words issues again as the head of a new chain. A store of an ended sheaf, which would have no sheaf to replay
it, goes on (log 114). -/
def execVacateAbandonTimer (wg : Nat) (s : State) : Out :=
  .next (match mapFind s.wgs wg with
    | none => s
    | some w => match w.stage with
      | .vacating since =>
        if s.clk < since + 1500 then s
        else
          let gone (k : Nat) : Bool := match s.sheaf k with | some sh => sh.ended | none => false
          let s := (s.keepEntries wg (fun e => e.sent && e.abandonable && (!gone e.sheaf || e.barren))).reapAll wg
          { s with sheaves := mapMap (fun _ sh => if sh.wg == wg && sh.awaitsWords then
              { sh.closeChain with fetching := none, wait := (match sh.wait with | .const _ _ => .none | x => x) } else sh) s.sheaves }
      | _ => s)

/-- Whether the vacate waits for an operation: one of a matrix engine (R297), or one that reads or writes the region of its workgroup, or may
still turn out to (R376). -/
def EngOp.touchesOwn (op : EngOp) : Bool :=
  op.matrix || !(op.begun && op.bo.isNone && op.items.all (fun it => eaSpace it.dst == 0 && it.src.all (fun a => match a with | some x => eaSpace x == 0 | none => true)))

/-- Whether a status of LAUNCH, CTXSV or CTXLD is still to reach a sheaf of a workgroup (R414). -/
def State.statusOut (s : State) (g : Nat) : Bool :=
  s.net.any (fun f => match f.p.msg with
    | .hub x (.launch _ _) => x.wg == g
    | .hub x (.ctxsv _ _ _) => x.wg == g
    | .hub x (.ctxld _) => x.wg == g
    | .status x _ _ => x.wg == g
    | _ => false)

/-- Whether the vacate of a workgroup may go on to the save (R297, R375, R376, R414). -/
def State.halting (s : State) (g : Nat) (since : Nat) : Bool :=
  let late := since + 1500 ≤ s.clk
  !s.statusOut g && s.sheaves.all (fun e => e.2.wg != g || e.2.ended || e.2.chain == 0)
    && s.win.all (fun e => match s.sheaf e.2.sheaf with
      | some sh => sh.wg != g || e.2.kept || (if late then !e.2.sent else !e.2.blks.any BlkReq.open_)
      | none => true)
    && s.cores.all (fun c =>
      c.2.icMiss.all (fun m => m.want.all (fun x => match x with | .pin h _ _ _ => h != g | _ => true))
        && c.2.eng.all (fun op => op.wg != g || !op.touchesOwn)
        && c.2.rows.all (fun r => r.wg != g)
        && c.2.mq.all (fun q => q.2.all (fun op => op.wg != g || op.stage == .wanting)))

/-! The save (R377, R378). -/

/-- Bytes whose content the spec does not lay out: free values, n words from the state's counter (log 14). -/
def State.openBytes (s : State) (at_ n : Nat) : List Byte := (List.range n).flatMap (fun i => leBytes 4 (Config.freeWord (s.free + at_ + i)).toNat)

/-- The code of a register's class, and a register's entry in the U/A store. -/
def RegClass.code (c : RegClass) : Nat := match c with | .placed => 0 | .uni _ => 0 | .aff _ _ => 1 | .var => 2

/-- The bytes of a list made up to a length with zeros. -/
def padTo (n : Nat) (bs : List Byte) : List Byte := bs ++ List.replicate (n - bs.length) 0

/-- The first 2,048 bytes of a sheaf's record. -/
def State.sheafRecord (s : State) (i : Nat) (sh : Sheaf) : List Byte :=
  let stored := sh.cls.filterMap (fun c => match c.2.pair with
    | some (b, st) => if c.2.stored then some (leBytes 4 c.1 ++ leBytes 4 b.toNat ++ leBytes 4 st.toNat ++ leBytes 4 0) else none
    | none => none)
  padTo 512 (sh.stack.flatMap StackEntry.bytes)
    ++ leBytes 64 ((List.range 256).foldl (fun n r => n + (sh.classOf r).code * 4 ^ r) 0)
    ++ padTo 512 stored.flatten ++ s.openBytes (240 * i) 240

/-- The header of a workgroup's record. -/
def State.recordHeader (s : State) (w : Workgroup) : List Byte :=
  let held := match mapFind s.nodes w.node with | some nd => nd.held | none => false
  let part (k : Nat) : List Byte := match w.parts[k]? with
    | some p => leBytes 1 (64 * p.lgrp + p.base) ++ leBytes 1 p.count
    | none => leBytes 2 0
  let claim (k : Nat) : Nat × Nat := w.claims.getD k (0, 0)
  padTo 4096 (leBytes 2 w.node ++ leBytes 2 w.nSheaf ++ leBytes 1 w.nReg ++ leBytes 1 w.units
    ++ leBytes 2 ((if held then 1 else 0) + 2 + 4 * coreDie w.core) ++ leBytes 8 w.lin ++ leBytes 4 (Config.wgTag w.tag.toNat).toNat
    ++ leBytes 4 w.asid.toNat ++ part 0 ++ part 1 ++ part 2 ++ part 3
    ++ [0, 1, 2, 3].flatMap (fun k => leBytes 4 (claim k).1) ++ [0, 1, 2, 3].flatMap (fun k => leBytes 2 (claim k).2) ++ leBytes 8 0
    ++ w.bars.flatMap (fun b => leBytes 2 b.expected ++ leBytes 2 b.arrived ++ leBytes 1 (if b.phase then 1 else 0) ++ leBytes 3 0)
    ++ leBytes 4 (if w.repro then 1 else 0) ++ leBytes 4 w.seed.toNat)

/-- The claims that a workgroup holds, by part (R378). -/
def State.claimsOf (s : State) (g : Nat) (w : Workgroup) : List (Nat × Nat) :=
  w.parts.map (fun p =>
    let mask (tile : Bool) : Nat := (List.range (if tile then 16 else 32)).foldl (fun n j =>
      if mapFind (s.core w.core).claims (mxEntry p.lgrp tile j) == some g then n + 2 ^ j else n) 0
    (mask false, mask true))

/-- The record written at its place: the header, each sheaf's parts, kept entries and the region. A sheaf that has ended and left its slot is
saved with live mask 0 (R394), which lies in the bytes that R378 does not lay out; its registers are gone, and free values stand for them. -/
def State.writeRecord (s : State) (g : Nat) (w : Workgroup) : State :=
  match s.recordSlot w with
  | none => s
  | some (_, at_) =>
    let put (s : State) (off : Nat) (bs : List Byte) : State := s.storeBytes (at_ + off) w.asid bs
    let s := put s 0 (s.recordHeader w)
    let s := (s.sheaves.filter (fun e => e.2.wg == g)).foldl (fun s e =>
      let sh := e.2
      let o := 4096 + sh.idx * (128 * w.nReg + 16384)
      let kept := (s.win.filter (fun x => x.2.sheaf == e.1)).length + (w.kept.win.filter (fun x => x.2.sheaf == sh.idx)).length
      let bytes := s.sheafRecord 0 sh
      let entries := s.openBytes 240 (208 * kept)
      let s := { put s o bytes with free := s.free + 240 + 208 * kept }
      let s := if sh.level != .user then put s (o + 2048) ((s.frameBlks e.1).flatMap (fun b => blkBytes b.1)) else s
      let s := put s (o + 3072) entries
      put s (o + 16384) ((List.range w.nReg).flatMap (fun r => (List.range 32).flatMap (fun t => leBytes 4 (sh.reg r t).toNat)))) s
    let gone := (List.range w.nSheaf).filter (fun i => s.sheaves.all (fun e => e.2.wg != g || e.2.idx != i))
    let s := gone.foldl (fun s i =>
      let o := 4096 + i * (128 * w.nReg + 16384)
      let s := { put s o (padTo 512 [] ++ s.openBytes 0 384) with free := s.free + 384 }
      { put s (o + 16384) (s.openBytes 0 (32 * w.nReg)) with free := s.free + 32 * w.nReg }) s
    put s (4096 + w.nSheaf * (128 * w.nReg + 16384)) (s.lsRead w.core w.lsBase (w.units * 65536))

/-- WORKGROUP_SAVE (R377): with halting complete, the record is written and the DIE release begins. -/
def execWorkgroupSave (wg : Nat) (s : State) : Out :=
  .next (match mapFind s.wgs wg with
    | none => s
    | some w => match w.stage with
      | .vacating since =>
        if !s.halting wg since || s.sheaves.all (fun e => e.2.wg != wg || e.2.ended) then s
        else
          let w := { w with claims := s.claimsOf wg w }
          let r := (({ s with wgs := mapInsert s.wgs wg w }).writeRecord wg w).wgRelease w (.save wg)
          r.2.onWg wg (fun x => { x with stage := .saving r.1 })
      | _ => s)

/-- A sheaf as it is saved: what it waits for at its slot is asked for again at resumption. -/
def Sheaf.forSave (sh : Sheaf) : Sheaf :=
  { sh.closeChain with
    fbuf := []
    fetching := none
    wait := (match sh.wait with
      | .const _ _ => .none
      | .frame _ => .none
      | .order _ => .none
      | x => x) }

/-- The offsets of a region kept, by key within it. -/
def keptOf {α : Type} (core base units div : Nat) (m : Map α) : Map α :=
  (mapFilter (fun k _ => inRegion core base units (k * div)) m).map (fun x => (x.1 - lsKey core base / div, x.2))

/-- The room of a workgroup freed (R288, R376, R377): its sheaves, entries, region and frames are kept with it; an ended sheaf is kept only for a
store of its that a fault holds (log 114). DESIGN CHOICE (log 102): a
node that had no unplaced workgroup begins to wait, and to age, at this cycle. -/
def State.freeSaved (s : State) (g : Nat) (w : Workgroup) : State :=
  let mine (k : Nat) : Bool := match s.sheaf k with | some sh => sh.wg == g | none => false
  let hub : List (Nat × Nat × HubFrom × HubReq) := s.rels.filterMap (fun r => match r.2.sheaf, r.2.then_ with
    | some k, .hub f q => if mine k then some (r.1, r.2.scope, f, q) else none
    | _, _ => none)
  let s := { s with
    rels := s.rels.filter (fun r => match r.2.sheaf with | some k => !mine k | none => true)
    cores := mapMap (fun _ c => { c with mq := mapMap (fun _ q => q.filter (fun op => op.wg != g)) c.mq }) s.cores }
  let s := s.keepEntries g (fun _ => true)
  let owes (sh : Sheaf) : Bool := match mapFind s.wgs g with | some x => x.kept.win.any (fun e => e.2.sheaf == sh.idx) | none => false
  let sheaves := s.sheaves.filter (fun e => e.2.wg == g)
  let kept (x : Saved) : Saved := { x with
    bytes := keptOf w.core w.lsBase w.units 1 s.ls
    tags := keptOf w.core w.lsBase w.units 64 s.lsTag
    poison := keptOf w.core w.lsBase w.units 4 s.lsPoison
    bos := keptOf w.core w.lsBase w.units 16 s.bos
    frames := (sheaves.filter (fun e => e.2.level != .user)).foldl (fun m e => mapInsert m e.2.idx (s.frameBlks e.1)) []
    hub := hub }
  let s := s.onWg g (fun x => { x with stage := .saved, asked := false, saved := (sheaves.filter (fun e => !e.2.ended || owes e.2)).map (fun e => e.2.forSave), kept := kept x.kept,
                                       suspDie := some (coreDie w.core) })
  let s := { s with sheaves := s.sheaves.filter (fun e => e.2.wg != g)
                    cores := mapMap (fun _ c => Core.dropClaims c g) s.cores
                    bos := mapFilter (fun k _ => !inRegion w.core w.lsBase w.units (k * 16)) s.bos }
  let s := s.releasePins w.core w.asid
  s.onNode w.node (fun x =>
    if x.next == recTotal x.record && (s.savedOf w.node).length ≤ 1 then { x with waiting := s.clk, prio := x.base } else x)

/-- VACATE_DONE (R377): with the release done and the matrix engine quiet, the room is freed. -/
def execVacateDone (wg : Nat) (s : State) : Out :=
  .next (match mapFind s.wgs wg with
    | none => s
    | some w => match w.stage with
      | .saving id =>
        let s := s.runRelease 7 id
        if mapHas s.rels id || !s.halting wg 0 then s else s.freeSaved wg w
      | _ => s)

/-! CTXSV and CTXLD at the hub (R389). -/

/-- CTXSV_REQUEST (R389, R51): the workgroups that the hub accepts are asked to vacate, those of a CORESIDENT node only together. -/
def execCtxsvRequest (s : State) : Out :=
  .next (match s.receive .hub (fun m => match m with | .hub f (.ctxsv n b h) => some (f, n, b, h) | _ => none) with
    | none => s
    | some ((f, n, b, h), _, s) =>
      let back (s : State) (v : Nat) (fail : Bool) : State := s.send .hub (.core f.core) 1 (some f.part) (.status f (BitVec.ofNat 32 v) fail)
      if !s.slotAllowed f.part f.asid n then back s 0 true
      else if (s.slot n).state != .running then back s 0x10000 false
      else
        let s := if h then s.onNode n (fun x => { x with held := true }) else s
        let named := (s.wgsOf n).filter (fun g => b == 0xFFFFFFFF || g.2.lin == b)
        let r := named.foldl (fun (acc : State × Nat) g =>
          let gs := acc.1.together g.1 g.2
          match acc.1.askAll gs with
          | some s => (s, acc.2 + gs.length)
          | none => acc) (s, 0)
        back r.1 (r.2 % 65536) false)

/-- CTXLD_REQUEST (R389): the hold of a slot is cleared. -/
def execCtxldRequest (s : State) : Out :=
  .next (match s.receive .hub (fun m => match m with | .hub f (.ctxld n) => some (f, n) | _ => none) with
    | none => s
    | some ((f, n), _, s) =>
      let back (s : State) (v : Nat) (fail : Bool) : State := s.send .hub (.core f.core) 1 (some f.part) (.status f (BitVec.ofNat 32 v) fail)
      if !s.slotAllowed f.part f.asid n then back s 0 true
      else if (s.slot n).state != .running then back s 0x10000 false
      else
        let held := match mapFind s.nodes n with | some nd => nd.held | none => false
        back (s.onNode n (fun x => { x with held := false })) (if held then 0 else 0x20000) false)

end Sys2Proof.Machine
end

