-- ==== Sys2Proof/Machine/Units.lean ====
section
/-! DEFINITION. Memory and power units on their own account: stacks (R382, R403, R404), errors of storage (R360, R380, R381), hot-page
migration (R247 to R249), power (R406). -/

namespace Sys2Proof.Machine

/-! HBM4 stacks (R382, R403, R404). -/

/-- The channels of a stack. -/
def channels : List Nat := List.range 32

/-- A rate change begun: every channel that runs at another rate switches (R403). -/
def Stack.toRate (x : Stack) (r : BitVec 2) : Stack :=
  { x with rate := r, switching := channels.filter (fun c => mapGetD x.chanRate c 0 != r.toNat) }

/-- A write of RATE (R404): ignored outside full service, and 3. -/
def State.setRate (s : State) (k : Nat) (r : BitVec 2) : State :=
  if s.dev.phase != 6 || r == 3 then s else { s with hbm := mapInsert s.hbm k ((mapGetD s.hbm k Stack.reset).toRate r) }

/-- HBM_RATE_CHANGE (R403, R404). -/
def execHbmRateChange (stack : Nat) (rate : BitVec 2) (s : State) : Out := .next (if stack < 12 then s.setRate stack rate else s)

/-- HBM_CHANNEL_RATE_SWITCHED (R403): a switching channel takes the new rate; with the last the rate is in force. -/
def execHbmChannelRateSwitched (stack channel : Nat) (s : State) : Out :=
  let x := mapGetD s.hbm stack Stack.reset
  .next (if !x.switching.contains channel then s
    else
      let left := x.switching.erase channel
      let x := { x with switching := left, chanRate := mapPutD x.chanRate channel x.rate.toNat 0 }
      { s with hbm := mapInsert s.hbm stack (if left.isEmpty then { x with rateCur := x.rate } else x) })

/-- Whether a pseudo-channel has been idle for some cycles. -/
def State.idleFor (s : State) (stack pc n : Nat) : Bool := mapGetD (mapGetD s.hbm stack Stack.reset).pcUsed pc 0 + n ≤ s.clk

/-- HBM_POWER_DOWN_ENTRY (R404). -/
def execHbmPowerDownEntry (stack pc : Nat) (s : State) : Out :=
  let x := mapGetD s.hbm stack Stack.reset
  .next (if stack < 12 && pc < 64 && x.pdIdle != 0 && mapGetD x.pcState pc 0 == 0 && s.idleFor stack pc x.pdIdle.toNat then
      { s with hbm := mapInsert s.hbm stack { x with pcState := mapInsert x.pcState pc 1 } }
    else s)

/-- HBM_SELF_REFRESH_ENTRY (R404). -/
def execHbmSelfRefreshEntry (stack pc : Nat) (s : State) : Out :=
  let x := mapGetD s.hbm stack Stack.reset
  .next (if stack < 12 && pc < 64 && x.srIdle != 0 && mapGetD x.pcState pc 0 != 2 && s.idleFor stack pc (1024 * x.srIdle.toNat) then
      { s with hbm := mapInsert s.hbm stack { x with pcState := mapInsert x.pcState pc 2 } }
    else s)

/-- A counter one higher, saturating (R382). -/
def satUp (x : Word) : Word := if x == 0xFFFFFFFF then x else x + 1

/-- HBM_CRC_FAILURE (R381, R382): replayed and counted; the eighth in a row retrains the channel, with a record. -/
def execHbmCrcFailure (stack channel : Nat) (s : State) : Out :=
  let x := mapGetD s.hbm stack Stack.reset
  let run := mapGetD x.crcRun channel 0 + 1
  let x := { x with linkReplay := satUp x.linkReplay }
  .next (if 12 ≤ stack || 32 ≤ channel then s
    else if run < 8 then { s with hbm := mapInsert s.hbm stack { x with crcRun := mapInsert x.crcRun channel run } }
    else
      ({ s with hbm := mapInsert s.hbm stack { x with linkDown := satUp x.linkDown, crcRun := mapErase x.crcRun channel } } : State).fqRecord
        (errorRec s 0x13 (BitVec.ofNat 64 (stack + 16 * channel)) 0 0 0))

/-! Errors of storage (R360, R380 to R382). -/

/-- An error of a die's registers, local store, slots, tiles and caches counted. -/
def State.sramError (s : State) (die : Nat) (bad : Bool) : State :=
  if bad then { s with sramUe := mapPutD s.sramUe die (satUp (mapGetD s.sramUe die 0)) 0 }
  else { s with sramCe := mapPutD s.sramCe die (satUp (mapGetD s.sramCe die 0)) 0 }

/-- A block of memory that is lost: an allowance counter's becomes POISONED at its home (R360), every other is poisoned (R380). -/
def State.loseBlock (s : State) (dpa : Nat) : State :=
  if s.memTagAt dpa == 0xA000 then
    s.storeBlk dpa 0xFFFF (ctrSetState (s.memBlk dpa) (ctrRecalling (s.memBlk dpa)) 2) (BitVec.allOnes 64) none false
  else { s with memPoison := mapPutD s.memPoison (dpaBlock dpa) true false }

/-- A dirty block whose write-back met an uncorrectable error: lost in memory, charged to an ASID in a record (R381). -/
def State.poisonBlock (s : State) (dpa : Nat) (asid : BitVec 16) : State :=
  (s.loseBlock dpa).fqRecord (errorRec s 0x11 (BitVec.ofNat 64 dpa) asid 0x80 0)

/-- An allowance level of a die that finds its count uncorrectable sends POISON to the home (R360). -/
def State.sendPoison (s : State) (die : Nat) (src : Agent) (k : AlKey) : State :=
  if k.remote then s.sendUp die k (.poison k) else s.sendAl src (alHomeOf k) (.poison k) k.asid

/-- What an uncorrectable error does where it is found. -/
def State.uncorrectable (s : State) (loc : EccLoc) : State :=
  match loc with
  | .register k r t => s.onSheaf k (fun sh => if sh.rpoison.contains (r * 32 + t) then sh else { sh with rpoison := sh.rpoison ++ [r * 32 + t] })
  | .localStore a => { s with lsPoison := mapPutD s.lsPoison (a / 4) true false }
  | .slotWord a => { s with slotPoison := mapPutD s.slotPoison (a / 4) true false }
  | .tileWord a => { s with slotPoison := mapPutD s.slotPoison ((a + 2 ^ 18) / 4) true false }
  | .l1Line c i =>
    (match (s.core c).l1[i]? with
    | none => s
    | some l =>
      let s := s.onCore c (fun x => { x with l1 := x.l1.eraseIdx i })
      if l.atomic then s.poisonBlock l.dpa l.asid else s)
  | .sliceLine d i =>
    { s with slices := mapModify s.slices (16 * d + i / 65536) (fun x => { x with lines := x.lines.eraseIdx (i % 65536) }) }
  | .icLine c i => s.onCore c (fun x => { x with ic := x.ic.eraseIdx i })
  | .ccBlock c i => s.onCore c (fun x => { x with cc := x.cc.eraseIdx i })
  | .mscBlock b =>
    (match mapFind s.msc b with
    | none => s
    | some l =>
      let s := { s with msc := mapErase s.msc b }
      if l.dirty then s.poisonBlock (64 * b) l.asid else s)
  | .memBlock b => s.loseBlock (64 * b)
  | .coreAllowance c i =>
    (match (s.core c).al[i]? with
    | none => s
    | some e => (s.onCore c (fun x => { x with al := x.al.set i { e with poison := true } })).sendPoison (coreDie c) (.core c) e.key)
  | .dieAllowance d i =>
    (match (mapGetD s.alDie d [])[i]? with
    | none => s
    | some e => (s.putAlDie d { e with poison := true }).sendPoison d (alSlice d e.key) e.key)

/-- The die whose counters an error of a place belongs to; none for the memories of stacks, capacity tier and expanders. -/
def eccDie : EccLoc → Option Nat
  | .register k _ _ => some (slotDie k)
  | .localStore a => some (coreDie (a / 2 ^ 24))
  | .slotWord a => some (coreDie (a / 2 ^ 21))
  | .tileWord a => some (coreDie (a / 2 ^ 21))
  | .l1Line c _ => some (coreDie c)
  | .sliceLine d _ => some d
  | .icLine c _ => some (coreDie c)
  | .ccBlock c _ => some (coreDie c)
  | .mscBlock b => some (if dpaTarget (64 * b) < 12 then heapDie (dpaTarget (64 * b)) else hubDie)
  | .memBlock _ => none
  | .coreAllowance c _ => some (coreDie c)
  | .dieAllowance d _ => some d

/-- An error counted where R382 says. -/
def State.countError (s : State) (loc : EccLoc) (bad : Bool) : State :=
  match eccDie loc, loc with
  | some d, _ => s.sramError d bad
  | none, .memBlock b =>
    let k := dpaTarget (64 * b)
    if 12 ≤ k then s
    else
      let x := mapGetD s.hbm k Stack.reset
      { s with hbm := mapInsert s.hbm k (if bad then { x with arrayUe := satUp x.arrayUe } else { x with arrayCe := satUp x.arrayCe }) }
  | none, _ => s

/-- ECC_ERROR_DETECTED (R360, R380 to R382): counted; corrected, or what the table of R380 gives. -/
def execEccErrorDetected (loc : EccLoc) (uncorrectable : Bool) (s : State) : Out :=
  let s := s.countError loc uncorrectable
  .next (if uncorrectable then s.uncorrectable loc else s)

/-- REGISTER_SCRUB (R380): single-bit errors are corrected in place, which changes no register's value. -/
def execRegisterScrub (core : Nat) (s : State) : Out :=
  .next (if core < 144 then { s with scrubbed := mapInsert s.scrubbed core s.clk } else s)

/-! Hot-page migration (R247 to R249). -/

/-- The page with the lowest count, the lowest address first. -/
def coldest (counts : Map Nat) : List Nat → Option Nat
  | [] => none
  | p :: rest => match coldest counts rest with
    | none => some p
    | some q => if mapGetD counts q 0 < mapGetD counts p 0 then some q else some p

/-- The pages outside the pool with accesses in the period, in rank order. -/
def Tracker.ranked (k : Tracker) : List Nat :=
  let out := k.counts.filter (fun c => c.2 != 0 && !mapHas k.pool c.1 && !k.moves.any (fun m => m.page == c.1))
  (out.foldl (fun (acc : List (Nat × Nat)) c =>
    let r := acc.span (fun x => c.2 < x.2 || (x.2 == c.2 && x.1 < c.1))
    r.1 ++ [c] ++ r.2) []).map (fun c => c.1)

/-- The moves that one page of the ranking starts; none where promotion stops for the period. -/
def Tracker.promote (k : Tracker) (page : Nat) : Option Tracker :=
  let used : List Nat := k.pool.map (fun p => p.2) ++ (k.moves.filter (fun m => m.promote)).map (fun m => m.frame)
  let free := (List.range k.poolPages).find? (fun f => !used.contains f)
  let start (k : Tracker) (p : Nat) (up : Bool) (f : Nat) : Tracker :=
    { k with moves := k.moves ++ [{ page := p, promote := up, frame := f, phases := 1, marked := [] }] }
  match free with
  | some f => some (start k page true f)
  | none =>
    let staying := (k.pool.map (fun p => p.1)).filter (fun p => !k.moves.any (fun m => m.page == p))
    match coldest k.counts staying with
    | none => none
    | some c =>
      if mapGetD k.counts c 0 < mapGetD k.counts page 0 then
        (mapFind k.pool c).map (fun f => start (start k c false f) page true f)
      else none

/-- The pages of the ranking taken in order, up to a budget. -/
def Tracker.promoteAll (k : Tracker) : List Nat → Nat → Tracker
  | [], _ => k
  | _, 0 => k
  | p :: rest, n + 1 => match k.promote p with
    | none => k
    | some k' => k'.promoteAll rest n

/-- TRACKING_PERIOD_END (R247, R249): moves start, counts restart, a write of the register takes effect. -/
def execTrackingPeriodEnd (s : State) : Out :=
  let k := s.trk
  .next (if k.period != 0 && s.clk < k.since + 1200 * k.period then s
    else
      let k' := if k.period == 0 then k else k.promoteAll k.ranked k.budget
      { s with trk := { k' with counts := [], budget := k.nextBudget, period := k.nextPeriod, since := s.clk } })

/-- MIGRATION_COPY_PHASE_DONE (R248): with more than 32 marked blocks the copy runs again, a fourth time never; otherwise the
indirection switches. A page promoted into another's frame waits for that page's move. -/
def execMigrationCopyPhaseDone (page : Nat) (s : State) : Out :=
  let k := s.trk
  let drop (k : Tracker) : Tracker := { k with moves := k.moves.filter (fun m => m.page != page) }
  .next (match k.moves.find? (fun m => m.page == page) with
    | none => s
    | some m =>
      if 32 < m.marked.length then
        (if 3 ≤ m.phases then { s with trk := drop k }
        else { s with trk := { k with moves := k.moves.map (fun x => if x.page == page then { x with phases := x.phases + 1, marked := [] } else x) } })
      else if !m.promote then { s with trk := { drop k with pool := mapErase k.pool page } }
      else if k.pool.any (fun p => p.2 == m.frame) then
        (if k.moves.any (fun x => !x.promote && x.frame == m.frame) then s else { s with trk := drop k })
      else { s with trk := { drop k with pool := mapInsert k.pool page m.frame } })

/-! Power (R406). -/

/-- Whether any die exceeds 105 °C. -/
def Power.hot (p : Power) : Bool := p.temps.any (fun t => 1680 < t.2.toNat)

/-- THROTTLE for the average, the limit and the temperatures: 4 while a die is too hot, 16 within the limit; above the limit a value of
4 to 16 that the spec does not state. -/
def State.adjustThrottle (s : State) : State :=
  let p := s.power
  let t := if p.hot then 4 else if p.limitW.toNat * 1000 < p.powerMw.toNat then 4 + (Config.freeWord s.free).toNat % 13 else 16
  { s with power := { p with throttle := t }, free := s.free + 1 }

/-- POWER_AVERAGE_UPDATE (R406): the average of a millisecond, its energy, THROTTLE. -/
def execPowerAverageUpdate (mw : Word) (s : State) : Out :=
  .next ({ s with power := { s.power with powerMw := mw, energyUj := s.power.energyUj + mw.toNat } } : State).adjustThrottle

/-- DIE_OVER_TEMPERATURE (R406): a die's temperature above 105 °C. -/
def execDieOverTemperature (die : Nat) (temp : BitVec 16) (s : State) : Out :=
  .next (if 9 ≤ die || temp.toNat ≤ 1680 then s
    else ({ s with power := { s.power with temps := mapPutD s.power.temps die temp 0 } } : State).adjustThrottle)

/-- DIE_TEMPERATURE_BELOW_LIMIT (R406): a die's temperature at or below 105 °C. -/
def execDieTemperatureBelowLimit (die : Nat) (temp : BitVec 16) (s : State) : Out :=
  .next (if 9 ≤ die || 1680 < temp.toNat then s
    else ({ s with power := { s.power with temps := mapPutD s.power.temps die temp 0 } } : State).adjustThrottle)

end Sys2Proof.Machine
end

