-- ==== Sys2Proof/Machine/Boot.lean ====
section
/-! DEFINITION. From package reset to full service (R14 to R18, R22 to R27, R31): the manifest check, recovery, training, early
service, transition. -/

namespace Sys2Proof.Machine

/-! Package reset (R14, R18). -/

/-- What package reset leaves: what fuses, flash, media sizes, host memory and the outside world hold; all else at reset. -/
def State.resetPackage (s : State) : State :=
  let outside (dpa : Nat) : Bool := dpaTarget dpa == 13
  { State.reset with
    variantL := s.variantL
    fuses := s.fuses
    flash := s.flash
    flashExtent := s.flashExtent
    podSize := s.podSize
    pkg := s.pkg
    expMedia := s.expMedia
    lpddrModules := s.lpddrModules
    mem := mapFilter (fun k _ => outside k) s.mem
    msiSent := s.msiSent
    hostReads := s.hostReads
    attested := s.attested
    free := s.free }

/-- PACKAGE_RESET (R14). -/
def execPackageReset (s : State) : Out := .next s.resetPackage

/-! The manifest and its images (R16, R17). -/

/-- The first condition of R16 and R17 that a set fails, by REASON (R18); 0 where all hold. -/
def Fuses.check (f : Fuses) (extent : Nat) (set : List Byte) : Nat :=
  let digest := Config.sha384 (Config.setBody set)
  if Config.sha384 (Config.setKeyEd set) != f.digestEd || Config.sha384 (Config.setKeyMl set) != f.digestMl then 1
  else if !Config.verifyEd (Config.setKeyEd set) (Config.setSigEd set) digest then 2
  else if !Config.verifyMl (Config.setKeyMl set) (Config.setSigMl set) digest then 3
  else if Config.setVersion set < f.minSvn then 4
  else
    ((Config.setImages set).findSome? (fun (i : Nat × List Byte × Option (List Byte)) => match i.2.2 with
      | none => some 6
      | some bs => if extent < i.1 then some 6 else if Config.sha384 bs != i.2.1 then some 5 else none)).getD 0

/-- MANIFEST_CHECK (R14, R16, R17): phase 1 once power and clocks are stable; then training, or recovery. DESIGN CHOICE (log 97): bit 4 of
DIES_UP, the hub die's, becomes 1 on entry to training; the spec gives its reset value and no moment (R15). -/
def execManifestCheck (s : State) : Out :=
  .next (if s.dev.phase == 0 then { s with dev := { s.dev with phase := 1 } }
    else if s.dev.phase != 1 then s
    else if s.fuses.check s.flashExtent s.flash != 0 then { s with dev := { s.dev with phase := 2 } }
    else
      { s with
        dev := { s.dev with phase := 3, diesUp := 16 }
        running := some (Config.sha384 (Config.setBody s.flash), Config.setVersion s.flash, (Config.setImages s.flash).map (fun i => i.2.1)) })

/-- One byte of host memory at a bus address; beyond the 2^52 bytes of heap 13 the spec states no value (log 106). -/
def State.hostByte (s : State) (addr : Nat) : Byte :=
  if addr < 2 ^ 52 then s.memByte (13 * 2 ^ 52 + addr) else (Config.freeWord (s.free + addr % 2 ^ 52)).setWidth 8

/-- RECOVERY_CHECK_AND_STORE (R18): CMD 1 makes the root of trust read the host's set through the host port. DESIGN CHOICE (log 110): a SET_ADDR
that is not 4 KiB aligned, for which R18 states no outcome, is used as it stands. -/
def execRecoveryCheckAndStore (s : State) : Out :=
  .next (if s.dev.phase == 2 && s.hostLink && s.mbox.cmd == 1 && s.mbox.status != 1 then
      { s with mbox := { s.mbox with status := 1, set := (List.range s.mbox.setLen.toNat).map (fun i => s.hostByte (s.mbox.setAddr.toNat + i)) }
               free := s.free + s.mbox.setLen.toNat }
    else s)

/-- RECOVERY_SET_CHECKED (R18): ACCEPTED with the set in the flash, or REJECTED with REASON and the flash unchanged. DESIGN CHOICE (log 98):
a SET_LEN beyond the boot flash extent, which R18 only forbids, is REJECTED with REASON 6; the extent is tested against the SET_LEN that the
mailbox holds when the check ends, a rewrite during BUSY included (log 110). -/
def execRecoverySetChecked (s : State) : Out :=
  .next (if s.dev.phase == 2 && s.mbox.status == 1 then
      let r := if s.flashExtent < s.mbox.setLen.toNat then 6 else s.fuses.check s.flashExtent s.mbox.set
      if r == 0 then { s with flash := s.mbox.set, mbox := { s.mbox with status := 2, reason := 0, cmd := 0, set := [] } }
      else { s with mbox := { s.mbox with status := 3, reason := r, cmd := 0, set := [] } }
    else s)

/-- RECOVERY_RESET_REQUEST (R18): CMD 2. -/
def execRecoveryResetRequest (s : State) : Out := .next (if s.dev.phase == 2 && s.mbox.cmd == 2 then s.resetPackage else s)

/-- HOST_PORT_LINK_UP (R14, R18, R23): in recovery and from training on. -/
def execHostPortLinkUp (s : State) : Out := .next (if 2 ≤ s.dev.phase then { s with hostLink := true } else s)

/-! Training (R22 to R26). -/

/-- The core dies in their order of training (R22). -/
def trainDies : List Nat := [1, 3, 5, 7, 0, 2, 6, 8]
/-- The links that a core die is reached by: the hub for a middle die, the middle dies for a corner die. -/
def dieReach (p : Nat) : List Nat := if linked p hubDie then [hubDie] else [1, 3, 5, 7].filter (fun m => linked p m)
/-- The stacks of a die. -/
def dieStacks (p : Nat) : List Nat := (List.range 12).filter (fun h => heapDie h == p)

/-- The units of training in their order, those of one list side by side (R22); the LPDDR 6 ports go beside the core dies. -/
def trainOrder : List (List TrainUnit) :=
  [(List.range 12).map (fun k => TrainUnit.troxia k) ++ [.expander 0, .expander 1]]
    ++ trainDies.flatMap (fun p =>
      [[TrainUnit.coreDie p], (dieReach p).map (fun m => TrainUnit.link p m), [.storeDie p]] ++ (dieStacks p).map (fun k => [.stack k]))

/-- The LPDDR 6 ports. -/
def lpddrPorts : List TrainUnit := (List.range 16).map (fun k => TrainUnit.lpddr k)

/-- The record of a unit's training. -/
def State.trained (s : State) (u : TrainUnit) : Trained := (s.train.find? (fun t => t.unit == u)).getD { unit := u, attempts := 0, passed := false }
def State.passed (s : State) (u : TrainUnit) : Bool := (s.trained u).passed
/-- Whether a unit has trained or exhausted its three attempts (R23). -/
def State.settled (s : State) (u : TrainUnit) : Bool := s.passed u || 3 ≤ (s.trained u).attempts

/-- Whether a unit's turn has come (R22): it has not settled, and everything before it has; the host port, which trains without limit, comes
before every core die. -/
def State.mayTrain (s : State) (u : TrainUnit) : Bool :=
  let before := trainOrder.takeWhile (fun us => !us.contains u)
  let first := trainOrder.take 1
  !s.settled u && (s.hostLink || first.any (fun us => us.contains u)) && (if lpddrPorts.contains u then first.all (fun us => us.all (fun x => s.settled x))
    else trainOrder.any (fun us => us.contains u) && before.all (fun us => us.all (fun x => s.settled x)))

/-- Whether a core die is up: it and a path to the hub have trained (R23). DESIGN CHOICE (log 111): a corner die's path through a middle die
whose two links passed counts as good although that middle die itself failed; R23 does not say when such a path has failed. -/
def State.dieUp (s : State) (p : Nat) : Bool :=
  s.passed (.coreDie p) && (dieReach p).any (fun m => s.passed (.link p m) && (m == hubDie || s.passed (.link m hubDie)))

/-- Whether a core die qualifies as the early die (R26). DESIGN CHOICE (log 96): the store die's unit is asked for on every variant, the FX940-L
among them, whose store dies are absent or fused off: there the unit's attempt stands for the test that finds nothing to test. -/
def State.qualifies (s : State) (p : Nat) : Bool := s.dieUp p && s.passed (.storeDie p) && (dieStacks p).all (fun k => s.passed (.stack k))

/-- Whether a failed unit sets TRAIN_FAIL (R23). -/
def failsTraining : TrainUnit → Bool
  | .coreDie _ => true
  | .link _ _ => true
  | .stack _ => true
  | _ => false

/-- The bits of a list of units that are up. -/
def bitsOf (n : Nat) (f : Nat → Bool) : Nat := (List.range n).foldl (fun a k => if f k then a + 2 ^ k else a) 0

/-- A stack at the rate of early service (R26). -/
def Stack.early (x : Stack) : Stack := { x with rateCur := 2, chanRate := channels.map (fun c => (c, 2)) }

/-- DEV_STATE and the phase after a unit has settled (R15, R23 to R27). DESIGN CHOICE (log 108): where every core die, link and stack has trained
and every store die has failed, no early die exists and both the first and the last row of R24's table fit; the model takes the first, as R27
does, and enters transition. -/
def State.trainState (s : State) (u : TrainUnit) : State :=
  let failed := s.settled u && !s.passed u
  let d := s.dev
  let d := { d with
    trainFail := d.trainFail || (failed && failsTraining u)
    storeDeg := d.storeDeg || (failed && (match u with | .storeDie _ => true | _ => false))
    capUp := lpddrPorts.all (fun x => s.passed x)
    diesUp := BitVec.ofNat 9 (16 + bitsOf 9 (fun p => p != hubDie && s.dieUp p))
    stacksUp := BitVec.ofNat 12 (bitsOf 12 (fun k => s.passed (.stack k))) }
  let s := { s with dev := d }
  let s := match u with
    | .troxia k => if s.passed u then { s with ports := mapInsert s.ports k { Port.reset with up := true } } else s
    | _ => s
  let s := match (if s.dev.phase == 3 then trainDies.find? (fun p => s.qualifies p) else none) with
    | some p =>
      { s with dev := { s.dev with phase := 4, earlyDie := p }
               discVersion := 1
               hbm := (dieStacks p).foldl (fun m k => mapInsert m k ((mapGetD m k Stack.reset).early)) s.hbm }
    | none => s
  let done := trainOrder.all (fun us => us.all (fun x => s.settled x)) && lpddrPorts.all (fun x => s.settled x)
  if !done then s
  else
    let s := { s with dev := { s.dev with trainDone := true } }
    if !s.dev.trainFail && coreDies.all (fun p => s.dieUp p) then
      { s with dev := { s.dev with phase := 5 }, transAt := some s.clk }
    else s

/-- TRAINING_ATTEMPT_DONE (R22 to R27): an attempt of the unit whose turn it is passes or fails. -/
def execTrainingAttemptDone (u : TrainUnit) (pass : Bool) (s : State) : Out :=
  .next (if !(s.dev.phase == 3 || s.dev.phase == 4) || !s.mayTrain u then s
    else
      let t := s.trained u
      let t := { t with attempts := t.attempts + 1, passed := pass }
      ({ s with train := s.train.filter (fun x => x.unit != u) ++ [t] } : State).trainState u)

/-! Transition (R27, R31). -/

/-- TRANSITION_GRACE_EXPIRY (R27 step 3): the workgroups still resident are asked to vacate. -/
def execTransitionGraceExpiry (s : State) : Out :=
  .next (match s.transAt with
    | none => s
    | some t =>
      if s.dev.phase != 5 || s.clk < t + 12000000 then s
      else s.wgs.foldl (fun s g => (s.askAll (s.together g.1 g.2)).getD s) s)

/-- The capacity of the local store in full service (R31). -/
def State.fullLsCap (s : State) : Nat := if s.variantL || s.dev.storeDeg then 0x800000 else 0x1000000

/-- Step 4 of transition at one core: its atomic lines are written through and its allowances go back to its die. -/
def State.settleCore (s : State) (core : Nat) : State :=
  let s := s.writeAtomicLines core
  ((s.core core).al.filter (fun e => e.queue.isEmpty)).foldl (fun s e => s.evictCore core e) s

/-- TRANSITION_FINISH (R27 steps 4 to 8): no workgroup is resident, and no node's completion release runs, so that each such release ends under
the early membership (R27's example). -/
def execTransitionFinish (s : State) : Out :=
  .next (if s.dev.phase != 5 || s.wgs.any (fun g => g.2.stage != .saved) || s.nodes.any (fun n => n.2.compl == .releasing) then s
    else
      let s := s.cores.foldl (fun s c => s.settleCore c.1) s
      { s with
        lsCap := s.fullLsCap
        hbm := (List.range 12).foldl (fun m k => mapInsert m k ((mapGetD m k Stack.reset).toRate 0)) s.hbm
        heap12 := s.dev.capUp
        heap14 := s.passed (.expander 0) || s.passed (.expander 1)
        discVersion := s.discVersion + 1
        dev := { s.dev with phase := 6 } })

end Sys2Proof.Machine
end

