-- ==== Sys2Proof/Machine/Compare.lean ====
section
/-! DEFINITION. Meanings of comparisons and moves (R198 to R201). -/

namespace Sys2Proof.Machine

/-- The grid coordinates of a workgroup from its linear index, x fastest (R43, R50). -/
def gridCoord (nd : Node) (lin axis : Nat) : Nat :=
  let gx := recNat nd.record 8 4
  let gy := recNat nd.record 12 2
  match axis with
  | 0 => lin % gx
  | 1 => lin / gx % gy
  | _ => lin / gx / gy

/-- The value of special register n for the i-th executing thread t (R43 to R45). DESIGN CHOICE (log 99): one clock counts for every core, so
that sr.clk read on two cores in one cycle differs by 0. -/
def Ctx.special (c : Ctx) (n i t : Nat) : DWord :=
  let grid (off len : Nat) : Nat := match mapFind c.s.nodes c.w.node with | some nd => recNat nd.record off len | none => 0
  let coord (axis : Nat) : Nat := match mapFind c.s.nodes c.w.node with | some nd => gridCoord nd c.w.lin axis | none => 0
  BitVec.ofNat 64 (match n with
    | 0x00 => t
    | 0x01 => c.sh.idx
    | 0x02 => c.w.nSheaf
    | 0x03 => coord 0
    | 0x04 => coord 1
    | 0x05 => coord 2
    | 0x06 => grid 8 4
    | 0x07 => grid 12 2
    | 0x08 => grid 14 2
    | 0x09 => slotLane c.k
    | 0x0A => slotLgrp c.k
    | 0x0B => slotCore c.k % 16
    | 0x0C => slotDie c.k
    | 0x0D => c.s.pkg
    | 0x0E => c.s.clk + i
    | 0x0F => c.sh.m.toNat
    | 0x10 => c.w.asid.toNat
    | _ => c.w.node)

/-- How many executing threads come before thread t (R45, R154). -/
def threadRank (e : TMask) (t : Nat) : Nat := ((threadsOf e).filter (fun u => u < t)).length

/-- The number of the special register a MOVS names. -/
def movsNumber (o : Ops) : Nat :=
  match o.a with
  | .imm v => v.toNat
  | _ => 0

/-- ICMP (R198): 32-bit integer compare to a predicate. -/
def execIcmp (o : Ops) (s : State) : Out :=
  laneOp s (.icmp o) o (aluIcmp o.mod)

/-- FCMP (R199): FP32 compare to a predicate. -/
def execFcmp (o : Ops) (s : State) : Out :=
  laneOp s (.fcmp o) o (aluFcmp o.mod)

/-- SEL (R200): Select a or b by c. -/
def execSel (o : Ops) (s : State) : Out :=
  laneOp s (.sel o) o aluSel

/-- MOV (R200): Move a 32-bit value. -/
def execMov (o : Ops) (s : State) : Out :=
  laneOp s (.mov o) o aluMov

/-- MOVI (R200): Replace one halfword of the destination. -/
def execMovi (o : Ops) (s : State) : Out :=
  laneOp s (.movi o) o (aluMovi o.mod)

/-- MOVS (R201): Read a special register. -/
def execMovs (o : Ops) (s : State) : Out :=
  runGeneral s (.movs o) (fun c f => c.endLane (.movs o) o f (fun t => c.special (movsNumber o) (threadRank c.e t) t))

/-- MOV64 (R200): Move a 64-bit value. -/
def execMov64 (o : Ops) (s : State) : Out :=
  laneOp s (.mov64 o) o aluMov64

/-- ICMP64 (R198): 64-bit integer compare to a predicate. -/
def execIcmp64 (o : Ops) (s : State) : Out :=
  laneOp s (.icmp64 o) o (aluIcmp64 o.mod)

end Sys2Proof.Machine
end

