-- ==== Sys2Proof/Machine/Convert.lean ====
section
/-! DEFINITION. Meanings of the conversions (R207 to R213). -/

namespace Sys2Proof.Machine

/-- F2I (R207): FP32 to integer. -/
def execF2i (o : Ops) (s : State) : Out :=
  laneOp s (.f2i o) o (aluF2i o.mod)

/-- I2F (R208): Integer to FP32. -/
def execI2f (o : Ops) (s : State) : Out :=
  laneOp s (.i2f o) o (aluI2f o.mod)

/-- F2F (R210): Narrow FP32 to a smaller format. -/
def execF2f (o : Ops) (s : State) : Out :=
  laneOp s (.f2f o) o (aluF2f o.mod (match o.b with | .imm v => v.toNat | _ => 2))

/-- CVPK (R211): Convert two values and pack them. -/
def execCvpk (o : Ops) (s : State) : Out :=
  laneOp s (.cvpk o) o (aluCvpk o.mod)

/-- CVUP (R212): Widen one packed element to FP32. -/
def execCvup (o : Ops) (s : State) : Out :=
  laneOp s (.cvup o) o (aluCvup o.mod)

/-- DSENC (R213): Encode FP32 to DS8 and shift it in. -/
def execDsenc (o : Ops) (s : State) : Out :=
  laneOp s (.dsenc o) o (aluDsenc o.mod)

/-- DSDEC (R213): Decode one DS8 byte to FP32. -/
def execDsdec (o : Ops) (s : State) : Out :=
  laneOp s (.dsdec o) o aluDsdec

end Sys2Proof.Machine
end

