-- ==== Sys2Proof/Machine/Cross.lean ====
section
/-! DEFINITION. Meanings of the cross-thread instructions (R214 to R218, R81). -/

namespace Sys2Proof.Machine

/-- The source thread of RELAY (R215), as an integer that may fall outside the sheaf. -/
def relaySource (m : BitVec 5) (b : Word) (t : Nat) : Int :=
  match lo2 m with
  | 0 => ((b.toNat % 32 : Nat) : Int)
  | 1 => (t : Int) + b.toInt
  | 2 => (((t + b.toNat) % 32 : Nat) : Int)
  | _ => ((t ^^^ (b.toNat % 32) : Nat) : Int)

/-- RELAY's result in thread t (R215). -/
def crossRelay (m : BitVec 5) (e : TMask) (v : Nat → LaneIn) (t : Nat) : DWord :=
  let src := relaySource m (low (v t).b) t
  if 0 ≤ src && src < 32 && e.getLsbD src.toNat then wide (low (v src.toNat).a) else wide (low (v t).a)

/-- POLL's result (R216). -/
def crossPoll (m : BitVec 5) (e : TMask) (v : Nat → LaneIn) (_ : Nat) : DWord :=
  let set := maskOf (fun u => e.getLsbD u && low (v u).a != 0)
  let first := low (v ((threadsOf e).headD 0)).a
  wide (match lo3 m with
    | 0 => truth (m.getLsbD 4) (set != 0)
    | 1 => truth (m.getLsbD 4) (set == e)
    | 2 => set
    | 3 => truth (m.getLsbD 4) ((threadsOf e).all (fun u => low (v u).a == first))
    | _ => BitVec.ofNat 32 (countThreads set))

/-- One step of a fold (R81, R217). -/
def foldStep (m : BitVec 5) (x y : Word) : Word :=
  if m.getLsbD 3 then
    match lo3 m with
    | 0 => toFP32 .rne (FVal.add .rne (ofFP32 x) (ofFP32 y))
    | 1 => toFP32 .rtz (FVal.add .rtz (ofFP32 x) (ofFP32 y))
    | 2 => toFP32 .rne (FVal.minmax false (ofFP32 x) (ofFP32 y))
    | _ => toFP32 .rne (FVal.minmax true (ofFP32 x) (ofFP32 y))
  else
    match lo3 m with
    | 0 => x + y
    | 1 => if y.toInt < x.toInt then y else x
    | 2 => if x.toInt < y.toInt then y else x
    | 3 => if y.toNat < x.toNat then y else x
    | 4 => if x.toNat < y.toNat then y else x
    | 5 => x &&& y
    | 6 => x ||| y
    | _ => x ^^^ y

/-- The fold over a list of threads in ascending order; the first value starts it unrounded (R81, R217). -/
def foldThreads (m : BitVec 5) (v : Nat → LaneIn) (ts : List Nat) : Word :=
  match ts with
  | [] => 0
  | t :: rest => rest.foldl (fun acc u => foldStep m acc (low (v u).a)) (low (v t).a)

def crossSred (m : BitVec 5) (e : TMask) (v : Nat → LaneIn) (_ : Nat) : DWord := wide (foldThreads m v (threadsOf e))
def crossSscan (m : BitVec 5) (e : TMask) (v : Nat → LaneIn) (t : Nat) : DWord :=
  wide (foldThreads m v ((threadsOf e).filter (fun u => u ≤ t)))

/-- MATCH's mask (R218). -/
def crossMatch (m : BitVec 5) (e : TMask) (v : Nat → LaneIn) (t : Nat) : DWord :=
  wide (maskOf (fun u => e.getLsbD u && (if m.getLsbD 0 then (v u).a == (v t).a else low (v u).a == low (v t).a)))

/-- FIRST's value or index (R218). -/
def crossFirst (m : BitVec 5) (e : TMask) (v : Nat → LaneIn) (_ : Nat) : DWord :=
  let f := (threadsOf e).headD 0
  if m.getLsbD 0 then BitVec.ofNat 64 f else wide (low (v f).a)

/-- RELAY (R215). -/
def execRelay (o : Ops) (s : State) : Out := crossOp s (.relay o) o (crossRelay o.mod)
/-- POLL (R216). -/
def execPoll (o : Ops) (s : State) : Out := crossOp s (.poll o) o (crossPoll o.mod)
/-- SRED (R217, R81). -/
def execSred (o : Ops) (s : State) : Out := crossOp s (.sred o) o (crossSred o.mod)
/-- SSCAN (R217, R81). -/
def execSscan (o : Ops) (s : State) : Out := crossOp s (.sscan o) o (crossSscan o.mod)
/-- MATCH (R218). -/
def execMatchv (o : Ops) (s : State) : Out := crossOp s (.matchv o) o (crossMatch o.mod)
/-- FIRST (R218). -/
def execFirstv (o : Ops) (s : State) : Out := crossOp s (.firstv o) o (crossFirst o.mod)

end Sys2Proof.Machine
end

