-- ==== Sys2Proof/Machine/FaultSteps.lean ====
section
/-! DEFINITION. Page and permission faults after their homes have confirmed them: responses, records, releases, replays, and
response-time traps (R47, R104, R124, R223, R243 to R246, R270, R371). -/

namespace Sys2Proof.Machine

/-! The response to a fault (R243, R270). -/

/-- The sheaf of an engine operation parks, resident or saved. -/
def State.parkMember (s : State) (op : EngOp) (t : Word) : State :=
  s.onMember op.wg op.idx (fun sh => sh.parkOn t (.engine op.id) s.released)

/-- MASK takes the threads of the first faulting operation until the record is written (R270). -/
def State.joinMask (s : State) (op : EngOp) (t : Word) (m : TMask) : State :=
  { s with pend := s.pend.map (fun p =>
      if p.token == t && p.op == some op.id then { p with recd := p.recd.map (fun r => { r with mask := r.mask ||| m }) } else p) }

/-- A held block of an engine operation performed; a write drops the core's L1 copy first, as when it was sent (R267, R335). -/
def State.resend (s : State) (op : EngOp) (it : EngItem) (h : HeldBlk) : State :=
  match h.read, h.write, h.atom with
  | some (n, va), _, _ =>
    s.engRead op it.index n va
  | none, some w, _ =>
    ({ s.dropL1 op.core w.asid w.va with winNext := s.winNext + 1 } : State).send (.core op.core) (.slice (coreDie op.core) (sliceOf w.va)) 2 (s.partOf w.asid)
      (.write { w with id := s.winNext })
  | none, none, some a =>
    (match op.instr with
    | .scad o => s.sendAdd op o it.index (bufRec op.words) a.va a.to_.items a.to_.poison
    | _ => s)
  | none, none, none => s

/-- A held block of an engine operation dropped with ADDRESS: a multicast part, a copy and a bag (R417) fail; the row of a GATH goes on without the
block, which it may not need (R275). -/
def State.dropHeld (s : State) (op : EngOp) (it : EngItem) (h : HeldBlk) : State :=
  match h.read with
  | some (n, _) =>
    if !op.cores.isEmpty && !it.asked.contains n then s.castFails op it.index causeAddress
    else
      (match op.instr with
      | .gath _ => (s.latchEng op causeAddress).gotBlock op.core op.id it.index n (BlkAns.failed (.bad (BitVec.ofNat 8 causeAddress)))
      | _ => (s.onItem op.core op.id it.index (fun x => { x with asked := x.asked.erase n })).itemFails op it.index causeAddress)
  | none =>
    ((s.onItem op.core op.id it.index (fun x => { x with acks := x.acks - 1 })).onOp op.core op.id (fun x =>
      { x with boLeft := if x.bo.isSome then x.boLeft - 1 else x.boLeft })).latchEng op causeAddress

/-- The blocks that engine operations hold for a page. -/
def State.releaseHeld (s : State) (t : Word) (fail : Bool) : State :=
  s.cores.foldl (fun s c => c.2.eng.foldl (fun s op => op.items.foldl (fun s it =>
    let mine := it.held.filter (fun h => h.token == t)
    let s := s.onItem op.core op.id it.index (fun x => { x with held := x.held.filter (fun h => h.token != t) })
    mine.foldl (fun s h => if fail then s.dropHeld op it h else s.resend op it h) s) s) s) s

/-- A block of an engine operation held by a fault: a read stays among those that its part waits for; where its page has been released by
now, the block goes on at once. -/
def State.holdBlk (s : State) (id item : Nat) (h : HeldBlk) : State :=
  match (s.opCore id).bind (fun c => s.findOp c id) with
  | none => s
  | some op =>
    let s := s.onItem op.core id item (fun x => { x with held := x.held ++ [h] })
    let m : TMask := match op.instr, op.item item with
      | .cpy _, _ => threadBit op.lead
      | .fill _, _ => threadBit op.lead
      | _, some it => threadBit it.thread
      | _, none => 0
    let s := (s.parkMember op h.token).joinMask op h.token m
    match mapFind s.released h.token.toNat with
    | some fail => s.releaseHeld h.token fail
    | none => s

/-- What a faulted message does at its core; none for messages that bring no fault. -/
def State.faultMsg (s : State) (core : Nat) (m : Msg) : Option State :=
  match m with
  | .data q a =>
    (match a.status, q.asker with
    | .fault t, .entry id =>
      (match mapFind s.win id with
      | none => some s
      | some e =>
        let s := s.faultBlk id q.va t
        some (if memClass e.instr == .allow then s.alForget core { asid := q.asid, va := q.va } id else s))
    | .fault _, .line => some (s.lineBlock core q a)
    | .fault _, .const => some (s.constBlock core q a none)
    | .fault _, .prefetch => some s
    | .fault t, .engine op item n => some (s.holdBlk op item { token := t, read := some (n, q.va), write := none, atom := none })
    | _, _ => none)
  | .writeAck w a =>
    (match a.status, w.writer with
    | .fault t, .engine _ op item => some (s.holdBlk op item { token := t, read := none, write := some w, atom := none })
    | _, _ => none)
  | .atomAns a =>
    (match a.ans.status, a.to_.asker with
    | .fault t, .entry id => some (s.faultBlk id a.va t)
    | .fault t, .engine op item _ => some (s.holdBlk op item { token := t, read := none, write := none, atom := some a })
    | _, _ => none)
  | _ => none

/-- FAULT_RESPONSE (R243, R270): the first fault in a core's inbox. -/
def execFaultResponse (core : Nat) (s : State) : Out :=
  .next (s.firstEnabled (fun s p => if p.dst == .core core then s.faultMsg core p.msg else none))

/-! Records (R244, R245). -/

/-- The sheaves parked on a token, resident and saved. -/
def State.parkedOn (s : State) (t : Word) : Nat :=
  let here (sh : Sheaf) : Bool := sh.parks.any (fun p => p.token == t)
  (s.sheaves.filter (fun e => here e.2)).length + s.wgs.foldl (fun n g => n + (g.2.saved.filter here).length) 0

/-- A page's record written, with the sheaves that are parked on the page by now (R244). -/
def State.writePage (s : State) (p : PendPage) (r : FaultRec) : State :=
  { s with pend := s.pend.map (fun (x : PendPage) => if x.token == p.token then { x with recd := none } else x) }.fqWrite
    { r with batch := s.parkedOn p.token }

/-- The kept record that was made first written to the ring, where that has room; a page's only once its 256 cycles are over (R244, R245). -/
def State.writeKept (s : State) : State :=
  if !s.fq.ringRoom || s.channelWaits s.fq.slot then s
  else match s.firstMade with
    | some (n, .inl r) => { s with fq := { s.fq with held := s.fq.held.filter (fun h => h.1 != n) } }.fqWrite r
    | some (_, .inr p) => (match p.recd with | some r => if s.ripe p then s.writePage p r else s | none => s)
    | none => s

/-- FAULT_RECORD_TIMER (R244): the first page whose record has been held for 256 cycles; it is written if the ring has room and no record
made before it waits, and waits with the others until then. -/
def execFaultRecordTimer (s : State) : Out :=
  .next (match s.pend.find? (fun p => s.ripe p) with
    | none => s
    | some _ => s.writeKept)

/-- FAULT_QUEUE_ROOM (R245): the first made of the kept records written to the ring once it has room. -/
def execFaultQueueRoom (s : State) : Out := .next s.writeKept

/-! Release (R104, R246, R270). -/

/-- The release of a page whose record has been made: its sheaves may replay or fail, engine blocks and completion words go on. -/
def State.releasePage (s : State) (t : Word) (fail : Bool) : State :=
  if !s.pend.any (fun p => p.token == t && p.recd.isNone) then s
  else
    let mark (sh : Sheaf) : Sheaf := { sh with parks := sh.parks.map (fun p => if p.token == t then { p with done := some fail } else p) }
    let s := { s with
      pend := s.pend.filter (fun p => p.token != t)
      released := mapInsert s.released t.toNat fail
      sheaves := mapMap (fun _ sh => mark sh) s.sheaves
      wgs := mapMap (fun _ w => { w with saved := w.saved.map mark }) s.wgs }
    let s := s.releaseHeld t fail
    s.nodes.foldl (fun s n => if n.2.compl == .held t then s.cwordReleased n.1 fail else s) s

/-- PARK_RELEASE_REPLAY (R245, R246): an unknown PARK_ID has no effect. -/
def execParkReleaseReplay (parkId : Word) (s : State) : Out := .next (s.releasePage parkId false)
/-- PARK_RELEASE_FAIL (R245, R246). -/
def execParkReleaseFail (parkId : Word) (s : State) : Out := .next (s.releasePage parkId true)

/-! Replay (R47, R124, R246, R372). -/

/-- The faulted blocks of an entry whose page has been released: to be sent again, or failed with ADDRESS. -/
def State.replayEntry (s : State) (id : Nat) (t : Word) (fail : Bool) : State :=
  match mapFind s.win id with
  | none => s
  | some e =>
    (e.blks.filter (fun b => b.stage == .faulted t)).foldl (fun s b =>
      if fail then
        (s.setBlk id b.base .sent).answerBlk id b.base [] ((threadsOf (b.mask &&& e.left)).map (fun x => (x, causeAddress)))
      else s.setBlk id b.base .held) s

/-- ADDRESS owed at the pc of a sheaf whose park of the instruction there was released with FAIL = 1 (R47, R124). -/
def Sheaf.owe (sh : Sheaf) (m : TMask) (npc : DWord) : Sheaf :=
  { sh with owed := some { cause := BitVec.ofNat 8 causeAddress, info := 0, mask := m, pc := sh.pc, npc := npc, va := 0, level := sh.level } }

/-- One released park of a sheaf. -/
def State.replayPark (s : State) (k : Nat) (p : Park) : State :=
  let fail := p.done == some true
  match p.kind, s.sheaf k with
  | .entry id, _ => s.replayEntry id p.token fail
  | .const m npc, some sh => if fail then s.setSheaf k (sh.owe m npc) else s.setSheaf k { sh with force := some m }
  | .fetch, some sh => if fail then s.setSheaf k (sh.owe sh.m sh.afterPc) else s.setSheaf k { sh with fbuf := [] }
  | _, _ => s

/-- A kept entry's threads asked again, its results pending (R156, R372). -/
def State.replayKept (s : State) (r : Nat × Bool) : State :=
  let s := match mapFind s.win r.1 with
    | some e => s.onSheaf e.sheaf (fun sh => (sh.setClasses e.instr.dstOf .var).setPend e.instr.dstOf)
    | none => s
  { s with win := mapModify s.win r.1 (fun e =>
      { e with kept := false, fails := [], blks := blkReqs (mapFilter (fun t _ => e.left.getLsbD t) e.thr) }) }

/-- Whether a sheaf may replay: every page it waits on is released, and nothing stops it. -/
def Sheaf.mayReplay (sh : Sheaf) : Bool :=
  !(sh.parks.isEmpty && sh.replays.isEmpty) && sh.parks.all (fun p => p.done.isSome) && !sh.halted && !sh.stopped
    && (match sh.wait with | .frame _ => false | _ => true)

/-- PARK_REPLAY (R246): the faulted instructions of a sheaf replay in issue order, and it goes on. -/
def execParkReplay (sheaf : Nat) (s : State) : Out :=
  .next (match s.sheaf sheaf with
    | none => s
    | some sh =>
      if !sh.mayReplay then s
      else
        let s := s.setSheaf sheaf { sh with parks := [], replays := [], readyAt := s.clk }
        let s := sh.parks.foldl (fun s p => s.replayPark sheaf p) s
        (sh.replays.foldl State.replayKept s).pump sheaf)

/-! Response-time traps (R371). -/

/-- Whether a response-time trap may be taken: at an instruction boundary of a sheaf that nothing holds; one that halts for a vacate
still has the boundaries of its open chain (R374). An instruction that waits for a constant block has not issued: it is reached again after TRET. -/
def Sheaf.mayTrap (sh : Sheaf) : Bool :=
  ({ sh with wait := (match sh.wait with | .const _ _ => .none | w => w) } : Sheaf).issues && sh.force.isNone
/-- The traps that are due: those of the level that runs, or of a higher one. -/
def Sheaf.dueTraps (sh : Sheaf) : List RespTrap := sh.respTraps.filter (fun r => sh.level.code ≤ r.level.code)

/-- The oldest trap held, in issue order. -/
def firstTrap : List RespTrap → Option RespTrap
  | [] => none
  | x :: rest => match firstTrap rest with
    | none => some x
    | some y => if y.seq < x.seq then some y else some x

/-- RESPONSE_TIME_TRAP (R371): the first response-time trap held for a sheaf. -/
def execResponseTimeTrap (sheaf : Nat) (s : State) : Out :=
  .next (match s.sheaf sheaf with
    | none => s
    | some sh =>
      match firstTrap sh.dueTraps with
      | none => s
      | some r =>
        if !sh.mayTrap then s
        else
          (s.setSheaf sheaf { sh with respTraps := sh.respTraps.erase r }).takeTrap sheaf
            { cause := r.cause.toNat, info := r.info, mask := r.mask, rmask := r.mask, pc := r.pc, npc := sh.pc, resp := true, entry := r.entry })

end Sys2Proof.Machine
end

