-- ==== Sys2Proof/Machine/Fp32.lean ====
section
/-! DEFINITION. Meanings of the FP32 instructions (R202 to R204). -/

namespace Sys2Proof.Machine

/-- FADD (R202): FP32 add. -/
def execFadd (o : Ops) (s : State) : Out :=
  laneOp s (.fadd o) o (aluFadd o.mod)

/-- FMUL (R202): FP32 multiply. -/
def execFmul (o : Ops) (s : State) : Out :=
  laneOp s (.fmul o) o (aluFmul o.mod)

/-- FFMA (R202): FP32 fused multiply-add. -/
def execFfma (o : Ops) (s : State) : Out :=
  laneOp s (.ffma o) o (aluFfma o.mod)

/-- FMIN (R202): FP32 minimum. -/
def execFmin (o : Ops) (s : State) : Out :=
  laneOp s (.fmin o) o (aluFmin o.mod)

/-- FMAX (R202): FP32 maximum. -/
def execFmax (o : Ops) (s : State) : Out :=
  laneOp s (.fmax o) o (aluFmax o.mod)

/-- FRND (R204): Round to an integral value. -/
def execFrnd (o : Ops) (s : State) : Out :=
  laneOp s (.frnd o) o (aluFrnd o.mod)

/-- FFRC (R204): Fractional part. -/
def execFfrc (o : Ops) (s : State) : Out :=
  laneOp s (.ffrc o) o (aluFfrc o.mod)

/-- FSCL (R204): Scale by a power of two. -/
def execFscl (o : Ops) (s : State) : Out :=
  laneOp s (.fscl o) o (aluFscl o.mod)

/-- FRCP (R202): Reciprocal. -/
def execFrcp (o : Ops) (s : State) : Out :=
  laneOp s (.frcp o) o (aluFrcp o.mod)

/-- FRSQ (R202): Reciprocal square root. -/
def execFrsq (o : Ops) (s : State) : Out :=
  laneOp s (.frsq o) o (aluFrsq o.mod)

/-- FSQRT (R202): Correctly rounded square root. -/
def execFsqrt (o : Ops) (s : State) : Out :=
  laneOp s (.fsqrt o) o (aluFsqrt o.mod)

/-- FDIV (R202): Correctly rounded divide. -/
def execFdiv (o : Ops) (s : State) : Out :=
  laneOp s (.fdiv o) o (aluFdiv o.mod)

/-- FEX2 (R202): Base-2 exponential. -/
def execFex2 (o : Ops) (s : State) : Out :=
  laneOp s (.fex2 o) o (aluFex2 o.mod)

/-- FLG2 (R202): Base-2 logarithm. -/
def execFlg2 (o : Ops) (s : State) : Out :=
  laneOp s (.flg2 o) o (aluFlg2 o.mod)

/-- FSIN (R202): Sine. -/
def execFsin (o : Ops) (s : State) : Out :=
  laneOp s (.fsin o) o (aluFsin o.mod)

/-- FCOS (R202): Cosine. -/
def execFcos (o : Ops) (s : State) : Out :=
  laneOp s (.fcos o) o (aluFcos o.mod)

end Sys2Proof.Machine
end

