-- ==== Sys2Proof/Machine/Graph.lean ====
section
/-! DEFINITION. The instructions that act on the hub and on translations: LAUNCH, NDEC, EVSIG (R363 to R366), CTXSV, CTXLD (R389),
XLINV (R390), the hub's answers, and EVSIG at the hub. -/

namespace Sys2Proof.Machine

/-! Requests to the hub (R363). -/

/-- A request to the hub, behind a release where ORDER asks for one: the destination is pending until the status returns. -/
def Ctx.askHub (c : Ctx) (i : Instr) (o : Ops) (f : Form) (asid : BitVec 16) (r : HubReq) : State :=
  let id := c.s.winNext
  let core := slotCore c.k
  let ds := dstRegs o f.dst
  let from_ : HubFrom :=
    { wg := c.sh.wg, idx := c.sh.idx, core := core, asid := asid, part := (c.s.partOf c.w.asid).getD 0, d := ds.head?, mask := c.e,
      pc := c.sh.pc, level := c.sh.level, seq := id }
  let sh := (c.sh.setClasses ds .var).advance i
  let s := { c.s with winNext := id + 1 }.setSheaf c.k (sh.setPend ds)
  let s := if i.releases then s.beginRelease id c.k i.scopeOf id id none (.hub from_ r)
    else s.send (.core core) .hub 1 (some from_.part) (.hub from_ r)
  s.finish c.k o.hd (c.sh.occupied ds c.e 1)

/-- The value that the lowest executing thread gives an operand. -/
def Ctx.leadWord (c : Ctx) (p : Pos) (src : Src) : Nat := (srcValue c.sh c.ext p src c.lead).toNat % 2 ^ 32

/-- Whether earlier orders of the sheaf keep a graph instruction waiting (R317, R318). -/
def Ctx.ordered (c : Ctx) : Bool := c.s.acquirePending c.k || c.s.releasePending c.k

/-- LAUNCH (R363, R364): the 64 bytes are read at issue. -/
def execLaunch (o : Ops) (s : State) : Out :=
  runGeneral s (.launch o) (fun c f =>
    let i : Instr := .launch o
    let p := srcValue c.sh c.ext f.b o.b c.lead
    if c.e == 0 then (c.s.setSheaf c.k (c.sh.advance i)).finish c.k o.hd 1
    else if c.ordered then c.s
    else
      match c.s.locate c.w p with
      | some (.own off) =>
        if off % 64 != 0 then c.s.issueTrap c.k i causeMisaligned 0 c.e c.e
        else if c.s.blockBusy c.k p then c.s
        else if c.s.lsPoisonMask c.w.core off != 0 then c.s.issueTrapAt c.k i causeDataError 2 c.e c.e p
        else c.askHub i o f c.w.asid (.launch (c.leadWord f.a o.a) (blkOfBytes (c.s.lsRead c.w.core off 64)))
      | _ => c.s.issueTrap c.k i causeAddress 0 c.e c.e)

/-- NDEC (R363, R365). -/
def execNdec (o : Ops) (s : State) : Out :=
  runGeneral s (.ndec o) (fun c f =>
    if c.e == 0 then (c.s.setSheaf c.k (c.sh.advance (.ndec o))).finish c.k o.hd 1
    else if c.ordered then c.s
    else c.askHub (.ndec o) o f c.w.asid (.ndec (c.leadWord f.a o.a)))

/-- EVSIG (R363, R366). -/
def execEvsig (o : Ops) (s : State) : Out :=
  runGeneral s (.evsig o) (fun c f =>
    if c.e == 0 then (c.s.setSheaf c.k (c.sh.advance (.evsig o))).finish c.k o.hd 1
    else if 63 < c.leadWord f.a o.a then c.s.issueTrap c.k (.evsig o) causeAddress 0 c.e c.e
    else if c.ordered then c.s
    else c.askHub (.evsig o) o f c.w.asid (.evsig (c.leadWord f.a o.a) (BitVec.ofNat 32 (c.leadWord f.b o.b))))

/-- CTXSV (R387, R389). -/
def execCtxsv (o : Ops) (s : State) : Out :=
  runGeneral s (.ctxsv o) (fun c f =>
    if c.e == 0 then (c.s.setSheaf c.k (c.sh.advance (.ctxsv o))).finish c.k o.hd 1
    else c.askHub (.ctxsv o) o f c.sh.ctxAsid (.ctxsv (c.leadWord f.a o.a) (c.leadWord f.b o.b) (o.mod.getLsbD 0)))

/-- CTXLD (R387, R389). -/
def execCtxld (o : Ops) (s : State) : Out :=
  runGeneral s (.ctxld o) (fun c f =>
    if c.e == 0 then (c.s.setSheaf c.k (c.sh.advance (.ctxld o))).finish c.k o.hd 1
    else c.askHub (.ctxld o) o f c.sh.ctxAsid (.ctxld (c.leadWord f.a o.a)))

/-- EVSIG_REQUEST (R366): EVT_DATA, then the message. -/
def execEvsigRequest (s : State) : Out :=
  .next (match s.receive .hub (fun m => match m with | .hub _ (.evsig v p) => some (v, p) | _ => none) with
    | none => s
    | some ((v, p), _, s) => { s with evtData := mapPutD s.evtData v p 0 }.raiseMsi v)

/-! The hub's answers (R363, R364, R389). -/

/-- HUB_STATUS_RETURN (R364, R389): the status reaches the executing threads; a slot that may not be named fails with ADDRESS. -/
def execHubStatusReturn (s : State) : Out :=
  .next (match s.receiveAny (fun a m => match a, m with | .core _, .status f v fail => some (f, v, fail) | _, _ => none) with
    | none => s
    | some ((f, v, fail), _, s) =>
      let here (sh : Sheaf) : Bool := sh.wg == f.wg && sh.idx == f.idx && !sh.ended
      let alive := s.sheaves.any (fun e => here e.2) || (match mapFind s.wgs f.wg with | some w => w.saved.any here | none => false)
      let s := s.onMember f.wg f.idx (fun sh =>
        let sh := match f.d with
          | none => sh
          | some d =>
            let sh := if fail then sh else (threadsOf f.mask).foldl (fun sh t => sh.setReg d t v) sh
            { sh with pend := sh.pend &&& ~~~(BitVec.ofNat 256 (2 ^ d)) }
        if fail && !sh.ended then
          { sh with respTraps := sh.respTraps ++
              [{ seq := f.seq, cause := BitVec.ofNat 8 causeAddress, info := 0, mask := f.mask, pc := f.pc, level := f.level, entry := none }] }
        else sh)
      let s := if fail && !alive then
          (match mapFind s.wgs f.wg with
          | some w => s.onNode w.node (fun n => { n with errored := true })
          | none => s)
        else s
      (s.sheaves.filter (fun e => e.2.wg == f.wg && e.2.idx == f.idx)).foldl (fun s e => s.reap e.1) s)

/-! XLINV (R390). -/

/-- Whether a translation of an address lies in the pages that XLINV names. -/
def inPages (a : DWord) (pages size : Nat) (va : DWord) : Bool :=
  va.toNat < (eaVa a).toNat + 65536 * pages && (eaVa a).toNat < va.toNat + size

/-- The invalidations and drains of XLINV within some dies. -/
def State.invalidate (s : State) (asid : BitVec 16) (a : DWord) (pages : Nat) (dies : List Nat) : State :=
  let hit (x : BitVec 16) (va : DWord) (size : Nat) : Bool := x == asid && inPages a pages size va
  let s := { s with tc := mapMap (fun _ xs => xs.filter (fun (e : TcEntry) => !hit e.asid e.va e.size)) s.tc }
  let cores := dies.flatMap (fun d => (List.range 16).map (fun i => 16 * d + i))
  let s := cores.foldl (fun s c =>
    let s := [0, 1, 2, 3].foldl (fun s g => (s.sbOf c g).foldl (fun s x => s.drain c g x) s) s
    let s := s.writeAtomicLines c
    if mapHas s.cores c then
      s.onCore c (fun k =>
        { k.overtake asid (eaVa a) (65536 * pages) with
                 l1 := k.l1.filter (fun l => !hit l.asid l.va 64)
                 ic := k.ic.filter (fun l => l.pinned || !hit l.asid l.va 128)
                 icMiss := k.icMiss.map (fun m => if hit m.asid m.va 128 && m.sent then { m with stale := true } else m) })
    else s) s
  { s with slices := mapMap (fun key x => if dies.contains (key / 16) then
      { x with lines := x.lines.filter (fun l => !hit l.asid l.va 64)
               merge := x.merge.map (fun m => if hit m.asid m.va 64 then { m with open_ := false } else m) } else x) s.slices }

/-- The dies that XLINV's scope encloses. -/
def Ctx.xlDies (c : Ctx) (o : Ops) : List Nat :=
  if o.mod == 3 then [coreDie (slotCore c.k)] else c.s.scopeDies ((c.s.partOf c.w.asid).getD 0)

/-- XLINV (R390): the checks; then the homes, caches and buffers act, and the sheaf waits for the writes they sent. -/
def execXlinv (o : Ops) (s : State) : Out :=
  runGeneral s (.xlinv o) (fun c f =>
    let i : Instr := .xlinv o
    let a := srcValue c.sh c.ext f.a o.a c.lead
    let pages := c.leadWord f.b o.b
    if c.e == 0 then (c.s.setSheaf c.k (c.sh.advance i)).finish c.k o.hd 1
    else if eaSpace a != 0 then c.s.issueTrap c.k i causeAddress 0 c.e c.e
    else if a.toNat % 65536 != 0 then c.s.issueTrap c.k i causeMisaligned 0 c.e c.e
    else if 2 ^ 24 < pages then c.s.issueTrap c.k i causeIllegalOperand 0 c.e c.e
    else if pages == 0 then (c.s.setSheaf c.k (c.sh.advance i)).finish c.k o.hd 1
    else
      let s := c.s.setSheaf c.k (c.sh.advance i)
      let asid := BitVec.ofNat 16 (c.leadWord f.c o.c)
      let dies := c.xlDies o
      let s := s.invalidate asid a pages dies
      let id := s.winNext
      let s := { s with
        winNext := id + 1
        xls := mapInsert s.xls id { id := id, slot := c.k, wg := c.sh.wg, idx := c.sh.idx, asid := asid, va := a, pages := pages,
                                     dies := dies, sent := false, left := 0 } }
      (s.finish c.k o.hd 1).onSheaf c.k (fun sh => if sh.ended then sh else { sh with wait := .xlinv id }))

/-- Whether a store that an XLINV must see performed has not yet reached its slice: its confirmation is on its way to its core, it is in a
store buffer, or its write-through is on its way; so are the write-throughs that the XLINV itself has made its dies send. -/
def State.xlWaits (s : State) (x : XlInv) : Bool :=
  let covers (id : Nat) (asid : BitVec 16) (va : DWord) : Bool := id < x.id && asid == x.asid && inPages x.va x.pages 64 va
  s.net.any (fun f => match f.p.dst, f.p.msg with
      | .core c, .data q a => x.dies.contains (coreDie c) && q.kind == .store && a.status == .ok
          && (match q.asker with | .entry id => covers id q.asid q.va | _ => false)
      | _, .write w => (match w.writer with
          | .through c => x.dies.contains (coreDie c) && (w.id < x.id || covers w.made w.asid w.va)
          | _ => false)
      | _, _ => false)
    || s.cores.any (fun c => x.dies.contains (coreDie c.1) && c.2.sb.any (fun b => b.2.any (fun y => covers y.seq y.asid y.va)))

/-- XLINV_DONE (R390): once the write-throughs it caused have reached their slices, markers go to the slices of its scope; the
last answer completes it. -/
def execXlinvDone (sheaf : Nat) (s : State) : Out :=
  .next (match s.xls.find? (fun x => x.2.slot == sheaf) with
    | none => s
    | some (id, x) =>
      let core := slotCore sheaf
      if !x.sent then
        if s.xlWaits x then s
        else
          let s := x.dies.foldl (fun s d => (List.range 16).foldl (fun s i => s.send (.core core) (.slice d i) 0 none (.mark (.xlinv id) 5)) s) s
          { s with xls := mapInsert s.xls id { x with sent := true, left := 16 * x.dies.length } }
      else
        let mine (y : Flight) : Bool := y.place == .inbox && y.p.dst == .core core && y.p.msg == .marked (.xlinv id)
        let n := (s.net.filter mine).length
        let s := { s with net := s.net.filter (fun y => !mine y) }
        if x.left ≤ n then
          { s with xls := mapErase s.xls id }.onMember x.wg x.idx (fun (sh : Sheaf) => if sh.wait == Wait.xlinv x.id then { sh with wait := .none, readyAt := s.clk } else sh)
        else { s with xls := mapInsert s.xls id { x with left := x.left - n } })

end Sys2Proof.Machine
end

