-- ==== Sys2Proof/Machine/Host.lean ====
section
/-! DEFINITION. The host port (R395 to R398): the control BAR (R11, R15, R18, R94, R95, R100, R238, R245, R249, R366, R382, R404,
R406), the aperture (R397), posted writes (R332), MSI-X (R398), the flushing read (R321); contexts and partitions through Prosy
(R28, R29, R239, R359, R422), MIN_SVN and attestation (R19 to R21). -/

namespace Sys2Proof.Machine

/-! The control BAR (R396). -/

/-- DEV_STATE (R15). -/
def DevState.word (d : DevState) : Word :=
  d.stacksUp ++ d.diesUp ++ BitVec.ofNat 4 d.earlyDie ++ BitVec.ofBool d.storeDeg ++ BitVec.ofBool d.capUp ++ BitVec.ofBool d.trainFail
    ++ BitVec.ofBool d.trainDone ++ BitVec.ofNat 3 d.phase

/-- The low and the high half of a 64-bit register. -/
def halfOf (x : DWord) (off : Nat) : Word := if off % 8 < 4 then x.extractLsb' 0 32 else x.extractLsb' 32 32
/-- A 64-bit register with one half written. -/
def setHalf (x : DWord) (off : Nat) (v : Word) : DWord :=
  if off % 8 < 4 then x.extractLsb' 32 32 ++ v else v ++ x.extractLsb' 0 32

/-- A stack's registers. -/
def State.stack (s : State) (k : Nat) : Stack := mapGetD s.hbm k Stack.reset
def State.onStack (s : State) (k : Nat) (f : Stack → Stack) : State := { s with hbm := mapInsert s.hbm k (f (s.stack k)) }

/-- HBM_PWR (R404). -/
def Stack.power (x : Stack) (off : Nat) : Word :=
  match off with
  | 0 => BitVec.ofNat 32 (x.rateCur.toNat * 4 + x.rate.toNat)
  | 4 => x.srIdle ++ x.pdIdle
  | 8 => 0x02D00024
  | _ => 0

/-- The counters of a stack (R382). -/
def Stack.counts (x : Stack) (off : Nat) : Word :=
  match off with
  | 0 => x.linkReplay
  | 4 => x.linkDown
  | 8 => x.arrayCe
  | _ => x.arrayUe

/-- The 32 bits of the control BAR at an offset that is a multiple of 4, as the host reads them (R11, R396); in recovery only the
mailbox answers (R18). -/
def State.barRead (s : State) (off : Nat) : Word :=
  let q := s.fq
  let mail : Word :=
    if off == 0x1000 then BitVec.ofNat 32 (s.mbox.reason * 16 + s.mbox.status)
    else if off == 0x1008 || off == 0x100C then halfOf s.mbox.setAddr off
    else if off == 0x1010 then s.mbox.setLen
    else 0
  if off == 0 then s.dev.word
  else if s.dev.phase == 2 then mail
  else if 0x100 ≤ off && off < 0x140 then
    (match off % 16 with
    | 0 => s.quantum.getD (off / 16 % 4) 0
    | 4 => s.preWait.getD (off / 16 % 4) 0
    | _ => 0)
  else if off == 0x200 || off == 0x204 then halfOf q.base off
  else if off == 0x208 then BitVec.ofNat 32 ((if q.irq then 2 ^ 14 else 0) + q.vector * 256 + q.log2)
  else if off == 0x20C then BitVec.ofNat 32 q.head
  else if off == 0x210 then BitVec.ofNat 32 q.tail
  else if off == 0x220 then BitVec.ofNat 32 (s.trk.nextBudget * 65536 + s.trk.nextPeriod)
  else if off == 0x224 then BitVec.ofNat 32 s.trk.poolPages
  else if off == 0x228 then q.lost
  else if 0x300 ≤ off && off < 0x380 then (mapGetD s.ways ((off - 0x300) / 4) 0xFFFF).setWidth 32
  else if 0x400 ≤ off && off < 0x500 then mapGetD s.evtData ((off - 0x400) / 4) 0
  else if off == 0x500 || off == 0x504 then halfOf s.aper off
  else if 0x600 ≤ off && off < 0x6C0 then (s.stack ((off - 0x600) / 16)).counts (off % 16)
  else if 0x700 ≤ off && off < 0x748 then mapGetD (if off % 8 == 0 then s.sramCe else s.sramUe) ((off - 0x700) / 8) 0
  else if 0x800 ≤ off && off < 0xC00 then
    (if off % 16 == 12 then (if s.msiMask.getLsbD ((off - 0x800) / 16) then 1 else 0) else mapGetD s.msiTable ((off - 0x800) / 4) 0)
  else if off == 0xC00 || off == 0xC04 then halfOf s.msiPend off
  else if 0xD00 ≤ off && off < 0xDC0 then (s.stack ((off - 0xD00) / 16)).power (off % 16)
  else if off == 0xE00 then s.power.limitW.setWidth 32
  else if off == 0xE04 then s.power.powerMw
  else if off == 0xE08 || off == 0xE0C then halfOf (BitVec.ofNat 64 (s.power.energyUj / 1000)) off
  else if off == 0xE10 then BitVec.ofNat 32 s.power.throttle
  else if 0xE14 ≤ off && off < 0xE38 then (mapGetD s.power.temps ((off - 0xE14) / 4) 0).setWidth 32
  else if 0x1000 ≤ off && off < 0x1018 then mail
  else if 0x400000 ≤ off && off < 0x800000 then BitVec.ofNat 32 (leNat ((List.range 4).map (fun i => mapGetD s.slotBytes (off - 0x400000 + i) 0)))
  else if 0x800000 ≤ off && off < 0x840000 then (s.slot ((off - 0x800000) / 4)).word
  else if 0x840000 ≤ off && off < 0x860000 then s.owner ((off - 0x840000) / 2 + 1) ++ s.owner ((off - 0x840000) / 2)
  else 0

/-- What the host reads at an offset of the control BAR: no device answers until the port's link is up (R23). -/
def State.hostRead (s : State) (off : Nat) : Option Word := if s.hostLink then some (s.barRead off) else none

/-- The class code with which the port enumerates (R18); none until its link is up (R23). -/
def State.classCode (s : State) : Option Word :=
  if !s.hostLink then none else some (if s.dev.phase == 2 then Config.recoveryClass else Config.deviceClass)

/-- A slot owner written (R91, R94). -/
def State.setOwner (s : State) (n : Nat) (a : BitVec 16) : State := { s with slotOwner := mapPutD s.slotOwner n a 0 }

/-- A vector unmasked (R398): one message for the events that came while it was masked. -/
def State.unmask (s : State) (v : Nat) : State :=
  let bit := BitVec.ofNat 64 (2 ^ v)
  let s := { s with msiMask := s.msiMask &&& ~~~bit }
  if s.msiPend.getLsbD v then { s with msiPend := s.msiPend &&& ~~~bit, msiSent := s.msiSent ++ [v] } else s

/-- A command of the recovery mailbox (R18): ignored while STATUS is BUSY, and outside recovery. -/
def State.mailCmd (s : State) (c : Nat) : State :=
  if s.dev.phase != 2 || s.mbox.status == 1 || !(c == 1 || c == 2) then s else { s with mbox := { s.mbox with cmd := c } }

/-- A 32-bit write of the control BAR (R11): RO fields, reserved fields and offsets not listed ignore it. DESIGN CHOICE (log 110): SET_ADDR and
SET_LEN are read and written outside recovery too, where R18 gives the mailbox no use. -/
def State.barWrite (s : State) (off : Nat) (v : Word) : State :=
  let n := v.toNat
  let mail (s : State) : State :=
    if off == 0x1008 || off == 0x100C then { s with mbox := { s.mbox with setAddr := setHalf s.mbox.setAddr off v } }
    else if off == 0x1010 then { s with mbox := { s.mbox with setLen := v } }
    else if off == 0x1014 then s.mailCmd (n % 4)
    else s
  if s.dev.phase == 2 then mail s
  else if 0x100 ≤ off && off < 0x140 then
    (match off % 16 with
    | 0 => { s with quantum := s.quantum.set (off / 16 % 4) v }
    | 4 => { s with preWait := s.preWait.set (off / 16 % 4) v }
    | _ => s)
  else if off == 0x200 || off == 0x204 then
    { s with fq := { s.fq with base := setHalf s.fq.base off v &&& 0x00FFFFFFFFFFF000 } }
  else if off == 0x208 then { s with fq := { s.fq with irq := v.getLsbD 14, vector := n / 256 % 64, log2 := n % 32 } }
  else if off == 0x20C then { s with fq := { s.fq with head := n % 65536 } }
  else if off == 0x218 then s.releasePage v false
  else if off == 0x220 then { s with trk := { s.trk with nextBudget := n / 65536, nextPeriod := n % 65536 } }
  else if off == 0x228 then { s with fq := { s.fq with lost := v } }
  else if 0x300 ≤ off && off < 0x380 then { s with ways := mapPutD s.ways ((off - 0x300) / 4) (BitVec.ofNat 16 n) 0xFFFF }
  else if off == 0x500 || off == 0x504 then { s with aper := setHalf s.aper off v &&& 0x00FFFFFFC0000001 }
  else if 0x600 ≤ off && off < 0x6C0 then
    s.onStack ((off - 0x600) / 16) (fun x => match off % 16 with
      | 0 => { x with linkReplay := v }
      | 4 => { x with linkDown := v }
      | 8 => { x with arrayCe := v }
      | _ => { x with arrayUe := v })
  else if 0x700 ≤ off && off < 0x748 then
    (if off % 8 == 0 then { s with sramCe := mapPutD s.sramCe ((off - 0x700) / 8) v 0 }
    else { s with sramUe := mapPutD s.sramUe ((off - 0x700) / 8) v 0 })
  else if 0x800 ≤ off && off < 0xC00 then
    let k := (off - 0x800) / 16
    (if off % 16 != 12 then { s with msiTable := mapPutD s.msiTable ((off - 0x800) / 4) v 0 }
    else if v.getLsbD 0 then { s with msiMask := s.msiMask ||| BitVec.ofNat 64 (2 ^ k) }
    else s.unmask k)
  else if 0xD00 ≤ off && off < 0xDC0 then
    (match off % 16 with
    | 0 => s.setRate ((off - 0xD00) / 16) (BitVec.ofNat 2 n)
    | 4 => s.onStack ((off - 0xD00) / 16) (fun x => { x with srIdle := BitVec.ofNat 16 (n / 65536), pdIdle := BitVec.ofNat 16 n })
    | _ => s)
  else if off == 0xE00 then
    ({ s with power := { s.power with limitW := BitVec.ofNat 16 (max 600 (min 3600 (n % 65536))) } } : State).adjustThrottle
  else if 0x1000 ≤ off && off < 0x1018 then mail s
  else if 0x800000 ≤ off && off < 0x840000 then
    s.onSlot ((off - 0x800000) / 4) (fun x =>
      { x with dropped := x.dropped && !v.getLsbD 4, extra := x.extra && !v.getLsbD 5, skipped := x.skipped && !v.getLsbD 6 })
  else if 0x840000 ≤ off && off < 0x860000 then
    (s.setOwner ((off - 0x840000) / 2) (BitVec.ofNat 16 n)).setOwner ((off - 0x840000) / 2 + 1) (BitVec.ofNat 16 (n / 65536))
  else s

/-- REGISTER_WRITE (R11, R396): a host write of 4 or 8 aligned bytes, of 2 to a slot owner, or of 1 to 8 within a slot; the write of PARK_ID carries
FAIL in its upper half (R245). No device is there until the link is up (R23). -/
def execRegisterWrite (off width : Nat) (v : DWord) (s : State) : Out :=
  let low : Word := v.extractLsb' 0 32
  .next (
    if !s.hostLink then s
    else if 0x400000 ≤ off && off < 0x800000 then
      (if s.dev.phase == 2 || 8 < width then s else s.writeSlot ((off - 0x400000) / 64) (off % 64) (leBytes width v.toNat))
    else if width == 2 && off % 2 == 0 && 0x840000 ≤ off && off < 0x860000 then
      (if s.dev.phase == 2 then s else s.setOwner ((off - 0x840000) / 2) (v.setWidth 16))
    else if width == 8 && off == 0x218 then (if s.dev.phase == 2 then s else s.releasePage low (v.getLsbD 32))
    else if width == 4 && off % 4 == 0 then s.barWrite off low
    else if width == 8 && off % 8 == 0 then (s.barWrite off low).barWrite (off + 4) (v.extractLsb' 32 32)
    else s)

/-- MSIX_VECTOR_UNMASK (R398). -/
def execMsixVectorUnmask (vector : Nat) (s : State) : Out :=
  .next (if vector < 64 && s.hostLink && s.dev.phase != 2 then s.unmask vector else s)

/-! The aperture and posted writes (R332, R397). -/

/-- APER_CTL in force for a request (R397): a change waits for a read of the register to have returned; whether the host has made one by then is
a free value (log 78). -/
def State.aperSettle (s : State) : State :=
  if s.aper == s.aperNow then s
  else { s with aperNow := if (Config.freeWord s.free).getLsbD 0 then s.aper else s.aperNow, free := s.free + 1 }

/-- The device-physical address behind an aperture offset; none where the port returns ones or discards (R397). -/
def State.aperDpa (s : State) (off : Nat) : Option Nat :=
  let d := s.aperNow.toNat / 2 ^ 30 * 2 ^ 30 + off
  if !s.aperNow.getLsbD 0 || 2 ^ 36 ≤ off || dpaTarget d == 13 || dpaTarget d == 15 then none else some d

/-- One byte that the host reads through the aperture: ones where the aperture is off and from an allowance object; of poisoned or lost
data the spec states no value. -/
def State.aperByte (s : State) (off : Nat) : Byte :=
  match s.aperDpa off with
  | none => 0xFF
  | some d =>
    if s.memTagAt d == 0xA000 then 0xFF
    else if s.memPoisonAt d || (dpaTarget d == 14 && s.heap14Lost) then (Config.freeWord (s.free + off)).setWidth 8
    else s.memByte d

/-- The blocks that a read through the aperture takes from their media (R247, R404). -/
def State.aperAccess (s : State) (off len : Nat) : State :=
  ((List.range (len / 64 + 2)).filterMap (fun k => if off / 64 * 64 + 64 * k < off + len then s.aperDpa (off / 64 * 64 + 64 * k) else none)).foldl
    (fun s d => if dpaTarget d == 14 && s.heap14Lost then s.lostAccess d else s.mediaAccess (d / 64 * 64) false) s

/-- Whether a stretch of device memory lies in a channel that switches its rate (R403). -/
def State.stretchWaits (s : State) (dpa len : Nat) : Bool :=
  len != 0 && (List.range ((dpa + len - 1) / 64 + 1 - dpa / 64)).any (fun k => s.channelWaits (dpa / 64 * 64 + 64 * k))

/-- APERTURE_READ (R397): a read is behind the host's earlier posted writes (R332), and waits while a channel of its switches its rate (R403). -/
def execApertureRead (off len : Nat) (s : State) : Out :=
  .next (if !s.hostLink || s.dev.phase == 2 || !s.posted.isEmpty || (s.aperSettle.aperDpa off).any (fun d => s.stretchWaits d len) then s
    else
      let s := s.aperSettle
      let t := s.aperAccess off len
      { t with hostReads := s.hostReads ++ [(List.range len).map (fun i => s.aperByte (off + i))], free := s.free + off + len })

/-- APERTURE_WRITE (R332, R397): the write joins the posted ones, or is discarded. -/
def execApertureWrite (off : Nat) (bytes : List Byte) (s : State) : Out :=
  .next (if !s.hostLink || s.dev.phase == 2 then s
    else
      let s := s.aperSettle
      match s.aperDpa off with
      | none => s
      | some d => { s with posted := s.posted ++ [{ dpa := d, bytes := bytes }] })

/-- One block's part of a host write performed at its home: discarded at an allowance object, at a lost heap and where no memory answers. -/
def State.hostStore (s : State) (dpa : Nat) (bs : List Byte) : State :=
  if dpaTarget dpa == 14 && s.heap14Lost then s.lostAccess dpa
  else if s.memTagAt dpa == 0xA000 || dpaTarget dpa == 13 || dpaTarget dpa == 15 then s
  else
    let off := dpa % 64
    s.storeBlk (dpa / 64 * 64) 0xFFFF (BitVec.ofNat 512 (leNat bs * 2 ^ (8 * off)))
      (BitVec.ofNat 64 ((2 ^ bs.length - 1) * 2 ^ off)) none false

/-- The bytes of a write by block. -/
def byBlocks : Nat → Nat → List Byte → List (Nat × List Byte)
  | 0, _, _ => []
  | fuel + 1, dpa, bs => if bs.isEmpty then [] else (dpa, bs.take (64 - dpa % 64)) :: byBlocks fuel (dpa / 64 * 64 + 64) (bs.drop (64 - dpa % 64))

/-- HOST_POSTED_WRITE (R332): the oldest posted write, performed at its home before any later one; it waits while a channel of its switches
its rate (R403). -/
def execHostPostedWrite (s : State) : Out :=
  .next (match s.posted with
    | [] => s
    | w :: rest => if s.stretchWaits w.dpa w.bytes.length then s else (byBlocks (w.bytes.length + 1) w.dpa w.bytes).foldl (fun s b => s.hostStore b.1 b.2) { s with posted := rest })

/-- HOST_FLUSH_READ_COMPLETE (R321): the flushing read of a SYSTEM release completes at the host port. -/
def execHostFlushReadComplete (s : State) : Out :=
  .next (match s.receive .hostPort (fun m => match m with | .mark f 7 => some f | _ => none) with
    | none => s
    | some (f, p, s) => s.send .hostPort p.src 0 p.part (.marked f))

/-! Contexts and partitions (R28, R29, R239, R422). -/

/-- Whether Prosy runs: it leaves reset when the images have been accepted (R14, R17). -/
def State.prosyRuns (s : State) : Bool := 3 ≤ s.dev.phase

/-- SET_PARTITION_MODE (R28): refused while any context exists, and in early service, where the mode is One (R26; log 95). -/
def execSetPartitionMode (m : PartMode) (s : State) : Out :=
  .next (if s.prosyRuns && s.dev.phase != 4 && s.ctxs.isEmpty then { s with mode := m } else s)

/-- CONTEXT_CREATE (R29, R239): ASID 0 is never assigned, ASID 0xFFFF is the shared one (R91, R369). The mode in force binds the context for its
whole life (R28): One, for a context made in early service (R26), where none is made beside a context of another mode (log 95). -/
def execContextCreate (asid : BitVec 16) (spec : CtxSpec) (s : State) : Out :=
  .next (if !s.prosyRuns || asid == 0 || asid == 0xFFFF || (s.ctx asid).isSome || modeParts s.modeNow ≤ spec.partition
      || s.ctxs.any (fun c => c.2.mode != s.modeNow) then s
    else
      let c : Context := { partition := spec.partition, mode := s.modeNow, sys := spec.sys, trapBase := spec.trapBase &&& ~~~7#64,
                           root := (List.range 16).map (fun i => spec.root.getD i 0), saveAreas := spec.saveAreas, repro := false, seed := 0 }
      { s with ctxs := mapInsert s.ctxs asid.toNat c
               mode := if s.ctxs.isEmpty then s.modeNow else s.mode
               heapCaps := spec.heapCaps.foldl (fun m h => mapInsert m (4 * h.1 + spec.partition) h.2) s.heapCaps })

/-- ROOT_ENTRY_UPDATE (R422): the homes' copies of a root entry. -/
def execRootEntryUpdate (asid : BitVec 16) (heap : Fin 16) (entry : DWord) (s : State) : Out :=
  .next (if s.prosyRuns then { s with ctxs := mapModify s.ctxs asid.toNat (fun c => { c with root := c.root.set heap.val entry }) } else s)

/-- Whether work of a context is on the device: a slot armed with a node, a workgroup. -/
def State.ctxBusy (s : State) (asid : BitVec 16) : Bool :=
  s.nodes.any (fun n => n.2.asid == asid) || s.wgs.any (fun g => g.2.asid == asid)

/-- CONTEXT_TEARDOWN (R359): with no work left, the context's allowances go back to their homes as by evictions: each die recalls its cores and
returns everything once they have answered; with the last returned, the context is gone. -/
def execContextTeardown (asid : BitVec 16) (s : State) : Out :=
  let ours (k : AlKey) : Bool := k.asid == asid
  let coreHolds := s.cores.any (fun c => c.2.al.any (fun e => ours e.key))
  let dieHolds := s.alDie.any (fun d => d.2.any (fun e => ours e.key))
  let flying := s.net.any (fun f => match f.p.msg with | .al m => ours m.key | _ => false)
  .next (if (s.ctx asid).isNone || s.ctxBusy asid then s
    else if dieHolds then
      s.alDie.foldl (fun s d => (d.2.filter (fun e => ours e.key && e.recalling.isEmpty)).foldl (fun s e => s.evictDie d.1 e) s) s
    else if flying then s
    else if coreHolds then
      s.cores.foldl (fun s c => (c.2.al.filter (fun e => ours e.key)).foldl (fun s e => s.evictCore c.1 e) s) s
    else { s with ctxs := mapErase s.ctxs asid.toNat })

/-! Identity (R19 to R21). -/

/-- MIN_SVN_RAISE (R19): in full service only, up to the running version, never lower. -/
def execMinSvnRaise (v : BitVec 16) (s : State) : Out :=
  .next (match s.running with
    | none => s
    | some r => if s.dev.phase == 6 && s.fuses.minSvn ≤ v.toNat && v.toNat ≤ r.2.1 then { s with fuses := { s.fuses with minSvn := v.toNat } } else s)

/-- Two strings of bytes combined bit by bit. -/
def xorBytes (a : List Byte) (b : Byte) : List Byte := a.map (fun x => x ^^^ b)

/-- HMAC-SHA-384, with the block of 128 bytes of SHA-384 (R20; log 107). -/
def hmac384 (key msg : List Byte) : List Byte :=
  let k := if 128 < key.length then Config.sha384 key else key
  let k := k ++ List.replicate (128 - k.length) 0
  Config.sha384 (xorBytes k 0x5C ++ Config.sha384 (xorBytes k 0x36 ++ msg))

/-- The seed of 32 bytes that HKDF-SHA-384 derives from a secret: extracted under the salt, then expanded with the info string (R20; log 107). -/
def hkdf384 (salt secret info : List Byte) : List Byte :=
  (hmac384 (hmac384 (if salt.isEmpty then List.replicate 48 0 else salt) secret) (info ++ [1])).take 32

/-- The bytes of an ASCII string. -/
def asciiBytes (s : String) : List Byte := s.toList.map (fun c => BitVec.ofNat 8 c.toNat)

/-- The device secret as bytes, lowest first (R20; log 107). -/
def Fuses.secretBytes (f : Fuses) : List Byte := leBytes 32 f.secret.toNat
/-- The identity seeds (R20): no salt, so that they survive firmware updates. -/
def Fuses.idEd (f : Fuses) : List Byte := hkdf384 [] f.secretBytes (asciiBytes "fx940-id-ed")
def Fuses.idMl (f : Fuses) : List Byte := hkdf384 [] f.secretBytes (asciiBytes "fx940-id-mldsa")
/-- The attestation seeds (R20): the manifest digest is the salt. -/
def Fuses.atEd (f : Fuses) (digest : List Byte) : List Byte := hkdf384 digest f.secretBytes (asciiBytes "fx940-at-ed")
def Fuses.atMl (f : Fuses) (digest : List Byte) : List Byte := hkdf384 digest f.secretBytes (asciiBytes "fx940-at-mldsa")

/-- The attestation public keys, each with its signature under the matching identity key (R21; log 107). -/
def Fuses.attestKeys (f : Fuses) (digest : List Byte) : List Byte :=
  let ed := Config.keyEd (f.atEd digest)
  let ml := Config.keyMl (f.atMl digest)
  ed ++ Config.signEd f.idEd (Config.sha384 ed) ++ ml ++ Config.signMl f.idMl (Config.sha384 ml)

/-- The fields of an attestation report in the order of R21 (log 25). -/
def State.attestFields (s : State) (nonce digest : List Byte) (version : Nat) (images : List (List Byte)) : List Byte :=
  (nonce ++ List.replicate 32 0).take 32 ++ digest ++ images.flatten ++ leBytes 2 s.fuses.minSvn ++ leBytes 2 version
    ++ leBytes 1 (if s.variantL then 1 else 0) ++ leBytes 4 s.lsCap ++ leBytes 4 s.dev.word.toNat
    ++ leBytes 1 (match s.modeNow with | .one => 0 | .two => 1 | .four => 2) ++ s.fuses.attestKeys digest

/-- ATTESTATION_REPORT (R21): the fields, then both signatures over their digest. -/
def execAttestationReport (nonce : List Byte) (s : State) : Out :=
  .next (match s.running with
    | none => s
    | some (digest, version, images) =>
      if !s.prosyRuns then s
      else
        let f := s.attestFields nonce digest version images
        { s with attested := s.attested ++ [f ++ Config.signEd (s.fuses.atEd digest) (Config.sha384 f) ++ Config.signMl (s.fuses.atMl digest) (Config.sha384 f)] })

end Sys2Proof.Machine
end

