-- ==== Sys2Proof/Machine/Integer.lean ====
section
/-! DEFINITION. Meanings of the integer instructions (R190 to R192). -/

namespace Sys2Proof.Machine

/-- IADD (R190): 32-bit add, wrapping or saturating. -/
def execIadd (o : Ops) (s : State) : Out :=
  laneOp s (.iadd o) o (aluIadd o.mod)

/-- ISUB (R190): 32-bit subtract, wrapping or saturating. -/
def execIsub (o : Ops) (s : State) : Out :=
  laneOp s (.isub o) o (aluIsub o.mod)

/-- ISUM3 (R190): Three-input add or add-subtract. -/
def execIsum3 (o : Ops) (s : State) : Out :=
  laneOp s (.isum3 o) o (aluIsum3 o.mod)

/-- IMUL (R190): 32-bit multiply, low word. -/
def execImul (o : Ops) (s : State) : Out :=
  laneOp s (.imul o) o aluImul

/-- IMULH (R190): 32-bit multiply, high word. -/
def execImulh (o : Ops) (s : State) : Out :=
  laneOp s (.imulh o) o (aluImulh o.mod)

/-- IMAC (R190): 32-bit multiply-accumulate. -/
def execImac (o : Ops) (s : State) : Out :=
  laneOp s (.imac o) o aluImac

/-- IMACW (R190): Widening multiply-accumulate to 64 bits. -/
def execImacw (o : Ops) (s : State) : Out :=
  laneOp s (.imacw o) o (aluImacw o.mod)

/-- IADD64 (R190): 64-bit add. -/
def execIadd64 (o : Ops) (s : State) : Out :=
  laneOp s (.iadd64 o) o aluIadd64

/-- ISUB64 (R190): 64-bit subtract. -/
def execIsub64 (o : Ops) (s : State) : Out :=
  laneOp s (.isub64 o) o aluIsub64

/-- IMIN (R190): Signed or unsigned minimum. -/
def execImin (o : Ops) (s : State) : Out :=
  laneOp s (.imin o) o (aluImin o.mod)

/-- IMAX (R190): Signed or unsigned maximum. -/
def execImax (o : Ops) (s : State) : Out :=
  laneOp s (.imax o) o (aluImax o.mod)

/-- IABS (R190): Absolute value, optionally saturating. -/
def execIabs (o : Ops) (s : State) : Out :=
  laneOp s (.iabs o) o (aluIabs o.mod)

/-- LEA (R192): Shift-and-add address computation. -/
def execLea (o : Ops) (s : State) : Out :=
  laneOp s (.lea o) o aluLea

/-- LEA64 (R192): 64-bit shift-and-add address computation. -/
def execLea64 (o : Ops) (s : State) : Out :=
  laneOp s (.lea64 o) o (aluLea64 o.mod)

/-- IDOT4 (R192): Four-way byte dot product with accumulate. -/
def execIdot4 (o : Ops) (s : State) : Out :=
  laneOp s (.idot4 o) o (aluIdot4 o.mod)

/-- IDOT2 (R192): Two-way halfword dot product with accumulate. -/
def execIdot2 (o : Ops) (s : State) : Out :=
  laneOp s (.idot2 o) o (aluIdot2 o.mod)

end Sys2Proof.Machine
end

