-- ==== Sys2Proof/Machine/Logic.lean ====
section
/-! DEFINITION. Meanings of the logic and bit instructions (R193 to R197). -/

namespace Sys2Proof.Machine

/-- AND (R193): Bitwise AND. -/
def execAnd (o : Ops) (s : State) : Out :=
  laneOp s (.and o) o aluAnd

/-- OR (R193): Bitwise OR. -/
def execOr (o : Ops) (s : State) : Out :=
  laneOp s (.or o) o aluOr

/-- XOR (R193): Bitwise XOR. -/
def execXor (o : Ops) (s : State) : Out :=
  laneOp s (.xor o) o aluXor

/-- ANDN (R193): Bitwise AND with the complement of b. -/
def execAndn (o : Ops) (s : State) : Out :=
  laneOp s (.andn o) o aluAndn

/-- LSEL (R194): Three-input logic function of a, b and the old destination. -/
def execLsel (o : Ops) (s : State) : Out :=
  laneOp s (.lsel o) o aluLsel

/-- SHL (R193): Shift left. -/
def execShl (o : Ops) (s : State) : Out :=
  laneOp s (.shl o) o aluShl

/-- SHR (R195): Logical or arithmetic shift right. -/
def execShr (o : Ops) (s : State) : Out :=
  laneOp s (.shr o) o (aluShr o.mod)

/-- ROT (R193): Rotate left or right. -/
def execRot (o : Ops) (s : State) : Out :=
  laneOp s (.rot o) o (aluRot o.mod)

/-- SHD (R195): Funnel shift of a pair of words. -/
def execShd (o : Ops) (s : State) : Out :=
  laneOp s (.shd o) o (aluShd o.mod)

/-- POPC (R193): Population count. -/
def execPopc (o : Ops) (s : State) : Out :=
  laneOp s (.popc o) o aluPopc

/-- CLZ (R193): Count leading zeros. -/
def execClz (o : Ops) (s : State) : Out :=
  laneOp s (.clz o) o aluClz

/-- BREV (R193): Bit reverse. -/
def execBrev (o : Ops) (s : State) : Out :=
  laneOp s (.brev o) o aluBrev

/-- XFLD (R196): Extract a bit field. -/
def execXfld (o : Ops) (s : State) : Out :=
  laneOp s (.xfld o) o (aluXfld o.mod)

/-- IFLD (R196): Insert a bit field. -/
def execIfld (o : Ops) (s : State) : Out :=
  laneOp s (.ifld o) o aluIfld

/-- BMUX (R196): Byte permute and fill. -/
def execBmux (o : Ops) (s : State) : Out :=
  laneOp s (.bmux o) o aluBmux

/-- CLMUL (R197): Carry-less multiply, low or high word. -/
def execClmul (o : Ops) (s : State) : Out :=
  laneOp s (.clmul o) o (aluClmul o.mod)

end Sys2Proof.Machine
end

