-- ==== Sys2Proof/Machine/Matrix.lean ====
section
/-! DEFINITION. The matrix engine (R283 to R309): claims, rows between registers and slots, the queue, MMA, the tile operations and
drains. -/

namespace Sys2Proof.Machine

/-! Claims (R287 to R291, R300, R301). -/

/-- The number of slots or tiles of a lane group. -/
def mxCount (tile : Bool) : Nat := if tile then 16 else 32

/-- TRAP_INFO of ACC_SPILL (R291): the entries of a run or operand in one state. -/
def spillInfo (reason lgrp : Nat) (tile : Bool) (bad : List Nat) : Word :=
  BitVec.ofNat 32 (reason * 2 ^ 30 + bad.length % 256 * 2 ^ 8 + lgrp * 64 + (if tile then 32 else 0) + bad.headD 0)

/-- The lowest base of n consecutive indices that meet a condition. -/
def findRun (ok : Nat → Bool) (n count : Nat) : Option Nat :=
  (List.range count).find? (fun b => b + n ≤ count && (List.range n).all (fun i => ok (b + i)))

/-- SCLAIM and ACLAIM (R289, R301): the base index is there 4 cycles after issue. -/
def Ctx.claim (c : Ctx) (i : Instr) (o : Ops) (f : Form) (tile : Bool) : State :=
  let core := slotCore c.k
  let lgrp := slotLgrp c.k
  let n := (srcValue c.sh c.ext f.a o.a c.lead).toNat % 2 ^ 32
  let st (x : Nat) : EntryState := c.s.entryState core (mxEntry lgrp tile x)
  let give (s : State) (v : Word) : State := c.endLate s i o f (v.setWidth 64)
  if c.e == 0 then (c.s.setSheaf c.k (c.sh.advance i)).finish c.k o.hd 1
  else if n == 0 || mxCount tile < n then c.s.issueTrap c.k i causeIllegalOperand 0 c.e c.e
  else
    match findRun (fun x => st x == .free) n (mxCount tile) with
    | some b =>
      give (c.s.onCore core (fun x => (List.range n).foldl (fun x j =>
        { x with claims := mapInsert x.claims (mxEntry lgrp tile (b + j)) c.sh.wg
                 owners := mapInsert x.owners (mxEntry lgrp tile (b + j)) c.w.ident }) x)) (BitVec.ofNat 32 b)
    | none =>
      match findRun (fun x => st x == .free || st x == .parked) n (mxCount tile) with
      | some b =>
        c.s.issueTrap c.k i causeAccSpill
          (spillInfo 0 lgrp tile (((List.range n).map (fun j => b + j)).filter (fun x => st x == .parked))) c.e c.e
      | none => give c.s 0xFFFFFFFF

/-- SCLAIM (R301). -/
def execSclaim (o : Ops) (s : State) : Out := runGeneral s (.sclaim o) (fun c f => c.claim (.sclaim o) o f false)
/-- ACLAIM (R301). -/
def execAclaim (o : Ops) (s : State) : Out := runGeneral s (.aclaim o) (fun c f => c.claim (.aclaim o) o f true)

/-- Some entries of one kind that an instruction names. -/
structure Named where
  tile    : Bool
  entries : List Nat
  deriving DecidableEq, Repr

/-- The checks of claims and content (R290, R300): the trap's cause and TRAP_INFO. -/
def Ctx.mxCheck (c : Ctx) (xs : List Named) : Option (Nat × Word) :=
  let core := slotCore c.k
  let lgrp := slotLgrp c.k
  let claimed (x : Named) (j : Nat) : Bool := mapFind (c.s.core core).claims (mxEntry lgrp x.tile j) == some c.sh.wg
  let absent (x : Named) : List Nat := x.entries.filter (fun j => c.s.entryState core (mxEntry lgrp x.tile j) == .absent)
  if xs.any (fun x => x.entries.any (fun j => !claimed x j)) then some (causeIllegalOperand, 0)
  else
    match xs.find? (fun x => absent x != []) with
    | some x => some (causeAccSpill, spillInfo 1 lgrp x.tile (absent x))
    | none => none

/-- The spans of an MMA: formats of A and B, K of a B slot, A slots of a B slot (R304). -/
structure Pair where
  fa  : Nat
  fb  : Nat
  k   : Nat
  as  : Nat
  /-- cycles of a B slot -/
  cyc : Nat
  deriving DecidableEq, Repr

/-- The format pair of MOD[3:0] (R304). -/
def mmaPair (m : BitVec 5) : Pair :=
  match m.toNat % 16 with
  | 0 => ⟨2, 2, 64, 1, 32⟩
  | 1 => ⟨3, 3, 64, 1, 32⟩
  | 2 => ⟨4, 4, 128, 1, 32⟩
  | 3 => ⟨4, 5, 128, 1, 32⟩
  | 4 => ⟨5, 4, 128, 1, 32⟩
  | 5 => ⟨5, 5, 128, 1, 32⟩
  | 6 => ⟨7, 7, 128, 1, 32⟩
  | 7 => ⟨2, 8, 128, 2, 32⟩
  | 8 => ⟨6, 6, 256, 1, 32⟩
  | _ => ⟨4, 8, 128, 1, 16⟩
/-- The span in B slots (R304). -/
def mmaSpan (a : Attr) : Nat := 2 ^ (a.ispec.toNat % 4)

/-- The slots and tiles that a queued operation names (R290, R301). -/
def MxOp.named (op : MxOp) : List Named :=
  let n (x : DWord) : Nat := x.toNat % 2 ^ 32
  let run (b k : Nat) : List Nat := (List.range k).map (fun j => b + j)
  match op.instr with
  | .mma o =>
    let s := mmaSpan o.attr
    [⟨true, [n op.a]⟩, ⟨false, run (n op.b) (s * (mmaPair o.mod).as)⟩, ⟨false, run (n op.c) s⟩]
  | .ard _ => [⟨true, [n op.a / 64]⟩]
  | .awr _ => [⟨true, [n op.a / 64]⟩]
  | _ => [⟨true, [n op.a]⟩]

/-- The operations queued at a lane group's engine and those that wait for admission. -/
def State.mxQ (s : State) (core lgrp : Nat) : List MxOp := mapGetD (s.core core).mq lgrp []
def State.setMxQ (s : State) (core lgrp : Nat) (xs : List MxOp) : State :=
  s.onCore core (fun c => { c with mq := mapPutD c.mq lgrp xs [] })

/-- SREL and AREL (R288, R301). -/
def Ctx.release (c : Ctx) (i : Instr) (o : Ops) (f : Form) (tile : Bool) : State :=
  let core := slotCore c.k
  let lgrp := slotLgrp c.k
  let base := (srcValue c.sh c.ext f.a o.a c.lead).toNat % 2 ^ 32
  let n := (srcValue c.sh c.ext f.b o.b c.lead).toNat % 2 ^ 32
  let xs := (List.range n).map (fun j => base + j)
  let names (x : Named) : Bool := x.tile == tile && x.entries.any (fun j => base ≤ j && j < base + n)
  if c.e == 0 then (c.s.setSheaf c.k (c.sh.advance i)).finish c.k o.hd 1
  else if n == 0 || mxCount tile < base + n then c.s.issueTrap c.k i causeIllegalOperand 0 c.e c.e
  else
    match c.mxCheck [⟨tile, xs⟩] with
    | some (cause, info) => c.s.issueTrap c.k i cause info c.e c.e
    | none =>
      if (c.s.mxQ core lgrp).any (fun op => op.named.any names)
          || (c.s.core core).rows.any (fun r => !tile && r.lane / 64 == lgrp && base ≤ r.row / 64 && r.row / 64 < base + n) then c.s
      else
        ((c.s.onCore core (fun x => xs.foldl (fun x j =>
          let e := mxEntry lgrp tile j
          { x with claims := mapErase x.claims e
                   owners := if mapFind x.owners e == some c.w.ident then mapErase x.owners e else x.owners }) x)).setSheaf c.k
          (c.sh.advance i)).finish c.k o.hd 1

/-- SREL (R301). -/
def execSrel (o : Ops) (s : State) : Out := runGeneral s (.srel o) (fun c f => c.release (.srel o) o f false)
/-- AREL (R301). -/
def execArel (o : Ops) (s : State) : Out := runGeneral s (.arel o) (fun c f => c.release (.arel o) o f true)

/-! Rows between registers and slots (R295, R302). -/

/-- An instruction that all 32 threads must execute, with its range, claim and content checks (R300). -/
def Ctx.wholeSheaf (c : Ctx) (i : Instr) (ranged : Bool) (xs : List Named) (go : State) : State :=
  if c.e != 0xFFFFFFFF then c.s.issueTrap c.k i causeConvergence 0 c.e c.e
  else if !ranged then c.s.issueTrap c.k i causeIllegalOperand 0 c.e c.e
  else
    match c.mxCheck xs with
    | some (cause, info) => c.s.issueTrap c.k i cause info c.e c.e
    | none => go

/-- Operand value of thread 0 (R300). -/
def Ctx.first (c : Ctx) (p : Pos) (src : Src) : Nat := (srcValue c.sh c.ext p src 0).toNat % 2 ^ 32

/-- The MMAs of a lane group that read a slot. -/
def readersOf (q : List MxOp) (slot : Nat) : List Nat :=
  (q.filter (fun op => op.stage != .wanting && (match op.instr with | .mma _ => true | _ => false)
    && op.named.any (fun x => !x.tile && x.entries.contains slot))).map (fun op => op.id)

/-- SWR (R295, R302): the row goes to the lane's row buffer, once that is free and no release or acquire holds it (R317). -/
def execSwr (o : Ops) (s : State) : Out :=
  runGeneral s (.swr o) (fun c f =>
    let i : Instr := .swr o
    let core := slotCore c.k
    let lgrp := slotLgrp c.k
    let row := c.first f.b o.b
    let tags := BitVec.ofNat 32 (c.first f.c o.c)
    let badTag (t : BitVec 16) : Bool := 8 < t.toNat / 256
    c.wholeSheaf i (row < 2048) [⟨false, [row / 64]⟩]
      (if badTag (tags.extractLsb' 0 16) || badTag (tags.extractLsb' 16 16) then c.s.issueTrap c.k i causeFormat 0 c.e c.e
      else if (c.s.core core).rows.any (fun r => r.lane == slotLane c.k) || c.s.acquirePending c.k || c.s.releasePending c.k then c.s
      else
        let r : RowBuf :=
          { lane := slotLane c.k, wg := c.sh.wg, idx := c.sh.idx, row := row
            words := (List.range 32).map (fun t => (srcValue c.sh c.ext f.a o.a t).extractLsb' 0 32)
            tags := tags, before := readersOf (c.s.mxQ core lgrp) (row / 64) }
        ((c.s.onCore core (fun x => { x with rows := x.rows ++ [r] })).setSheaf c.k (c.sh.advance i)).finish c.k o.hd 32))

/-- The offset of a slot row. -/
def rowOff (lgrp row : Nat) : Nat := mxOff lgrp false (row / 64) (row % 64 * 128)

/-- SRD (R302): not while a write of the row is uncommitted; poisoned words trap. The last thread's value is there 6 cycles after its
thread-operation; until then the destination is pending (R156, R299). -/
def execSrd (o : Ops) (s : State) : Out :=
  runGeneral s (.srd o) (fun c f =>
    let i : Instr := .srd o
    let core := slotCore c.k
    let lgrp := slotLgrp c.k
    let row := c.first f.a o.a
    let tag := o.mod.getLsbD 0
    let bad := maskOf (fun t => !tag && c.s.mxPoisoned core (rowOff lgrp row + 4 * t))
    let v (t : Nat) : DWord :=
      if tag then ((c.s.mxTag core (rowOff lgrp row + 64)) ++ (c.s.mxTag core (rowOff lgrp row))).setWidth 64
      else (c.s.mxWord core (rowOff lgrp row + 4 * t)).setWidth 64
    c.wholeSheaf i (row < 2048) [⟨false, [row / 64]⟩]
      (if (c.s.core core).rows.any (fun r => r.lane / 64 == lgrp && r.row == row) || c.s.acquirePending c.k then c.s
      else if bad != 0 then c.s.issueTrap c.k i causeDataError 4 bad c.e
      else
        let sh := ((c.sh.results o f.dst.width c.e v).setClasses i.dstOf .var).pendUntil i.dstOf (c.s.clk + 37)
        (c.s.setSheaf c.k (sh.advance i)).finish c.k o.hd 32))

/-- SWR_COMMIT (R295, R302): a lane's row goes to its slot once the MMAs before it have ended. -/
def execSwrCommit (core lane : Nat) (s : State) : Out :=
  let lgrp := lane / 64
  .next (match (s.core core).rows.find? (fun r => r.lane == lane) with
    | none => s
    | some r =>
      if (s.mxQ core lgrp).any (fun op => r.before.contains op.id) then s
      else
        let off := rowOff lgrp r.row
        let s := (r.words.zipIdx).foldl (fun s x => s.setMxWord core (off + 4 * x.2) x.1 false) s
        let s := (s.setMxTag core off (r.tags.extractLsb' 0 16)).setMxTag core (off + 64) (r.tags.extractLsb' 16 16)
        let s := s.setMxQ core lgrp ((s.mxQ core lgrp).map (fun op => { op with rows := op.rows.erase lane }))
        s.onCore core (fun c => { c with rows := c.rows.filter (fun x => x.lane != lane) }))

/-! The queue (R293). -/

/-- Whether an operation is counted on MATRIX. -/
def mxCounted (i : Instr) : Bool :=
  match i with
  | .ard _ => false
  | .awr _ => false
  | _ => true

/-- The places of a queue in use. -/
def mxUsed (q : List MxOp) : Nat := (q.filter (fun op => op.stage != .wanting)).length
/-- The lane cycles of an instruction of the group (R299). -/
def mxLaneCycles (i : Instr) : Nat := match i with | .awr _ => 32 | _ => 1

/-- An operation admitted (R293): it joins the queue, its counter rises, its sheaf goes on and the pointer moves. -/
def State.admitOp (s : State) (k : Nat) (op : MxOp) : State :=
  let core := slotCore k
  let lgrp := slotLgrp k
  let rows := ((s.core core).rows.filter (fun r => r.lane / 64 == lgrp)).map (fun r => r.lane)
  let s := s.setMxQ core lgrp ((s.mxQ core lgrp).filter (fun x => x.id != op.id) ++ [{ op with stage := .queued, rows := rows }])
  let s := s.onCore core (fun c => { c with mxPtr := mapPutD c.mxPtr lgrp ((op.lane % 64 + 1) % 64) 0 })
  let random := match op.instr with | .adrn o => o.mod.extractLsb' 0 2 == 2 | _ => false
  let s := s.onSheaf k (fun sh =>
    let sh := { sh with wait := .none, cMatrix := if mxCounted op.instr then sh.cMatrix + 1 else sh.cMatrix,
                        conv := if random then sh.conv + 1 else sh.conv }
    ((sh.setClasses op.instr.dstOf .var).setPend op.instr.dstOf).advance op.instr)
  s.finish k (Instr.hdOf op.instr) (mxLaneCycles op.instr)

/-- Whether an operation of the matrix engine must wait for a release or an acquire of its sheaf (R317, R328): a drain writes memory;
AOP.bias reads a vector of local store, behind the sheaf's own accesses to it (R229, R325). -/
def Ctx.mxHeld (c : Ctx) (i : Instr) (p : DWord) : Bool :=
  match i with
  | .adrn _ => c.s.acquirePending c.k || c.s.releasePending c.k
  | .aop o =>
    let lo := (blkName (slotCore c.k) (blkBase p)).toNat + p.toNat % 64
    o.mod.toNat % 4 == 1 && (c.s.acquirePending c.k || c.s.releaseAt c.k lo (lo + 255)
      || [0, 64, 128, 192, 255].any (fun d => c.s.blockBusy c.k (p + BitVec.ofNat 64 d)))
  | _ => false

/-- An operation handed to the matrix engine (R293): admitted at once where the queue has a free entry and no lane waits for
admission; otherwise the sheaf waits. -/
def Ctx.mxStart (c : Ctx) (i : Instr) (o : Ops) (f : Form) : State :=
  let core := slotCore c.k
  let lgrp := slotLgrp c.k
  let q := c.s.mxQ core lgrp
  let rd (src : Src) (p : Pos) : Option (List Word) := if p == .recd then c.recordWords o src else none
  let val (p : Pos) (src : Src) : DWord :=
    if p == .unused then 0 else if p == .recd then (match src with | .reg r => c.sh.pair r.toNat 0 | _ => 0) else srcValue c.sh c.ext p src 0
  let op : MxOp :=
    { id := c.s.winNext, wg := c.sh.wg, idx := c.sh.idx, lane := slotLane c.k, instr := i, stage := .wanting,
      a := val f.a o.a, b := val f.b o.b, c := val f.c o.c,
      data := (match i with | .awr _ => (List.range 32).map (fun t => (t, srcValue c.sh c.ext f.b o.b t)) | _ => [])
      asid := c.sh.ctxAsid, level := c.sh.level, recB := rd o.b f.b, recC := rd o.c f.c, repro := c.w.repro, key := c.genKey,
      stream := c.genStream, ctr := c.sh.conv, till := 0, rows := [], badB := none, badC := none }
  if (mxCounted i && 63 ≤ c.sh.cMatrix) || c.mxHeld i (val f.b o.b) then c.s
  else
    let s := { c.s with winNext := c.s.winNext + 1 }
    if mxUsed q < 16 && q.all (fun x => x.stage != .wanting) then (s.setSheaf c.k c.sh).admitOp c.k op
    else (s.setMxQ core lgrp (q ++ [op])).setSheaf c.k { c.sh with wait := .order op.id }

/-- MATRIX_ADMIT (R293): the first lane at or after the pointer that waits for admission. -/
def execMatrixAdmit (core lgrp : Nat) (s : State) : Out :=
  let q := s.mxQ core lgrp
  let ptr := mapGetD (s.core core).mxPtr lgrp 0
  let waiting := q.filter (fun op => op.stage == .wanting)
  let near (op : MxOp) : Nat := (op.lane % 64 + 64 - ptr) % 64
  .next (if 16 ≤ mxUsed q then s
    else match waiting with
    | [] => s
    | x :: rest =>
      let op := rest.foldl (fun b y => if near y < near b then y else b) x
      match s.sheaves.find? (fun e => e.2.wg == op.wg && e.2.idx == op.idx) with
      | none => s.setMxQ core lgrp (q.filter (fun y => y.id != op.id))
      | some (k, _) => s.admitOp k op)

/-! The instructions of the queue at issue (R299, R300, R303 to R307). -/

/-- MMA (R304). -/
def execMma (o : Ops) (s : State) : Out :=
  runGeneral s (.mma o) (fun c f =>
    let i : Instr := .mma o
    let n := mmaSpan o.attr
    let na := n * (mmaPair o.mod).as
    let t := c.first f.a o.a
    let a := c.first f.b o.b
    let b := c.first f.c o.c
    c.wholeSheaf i (t < 16 && a + na ≤ 32 && b + n ≤ 32)
      [⟨true, [t]⟩, ⟨false, (List.range na).map (fun j => a + j)⟩, ⟨false, (List.range n).map (fun j => b + j)⟩] (c.mxStart i o f))

/-- ACLR (R306). -/
def execAclr (o : Ops) (s : State) : Out :=
  runGeneral s (.aclr o) (fun c f =>
    c.wholeSheaf (.aclr o) (c.first f.a o.a < 16) [⟨true, [c.first f.a o.a]⟩] (c.mxStart (.aclr o) o f))

/-- ARD (R303). -/
def execArd (o : Ops) (s : State) : Out :=
  runGeneral s (.ard o) (fun c f =>
    c.wholeSheaf (.ard o) (c.first f.a o.a < 1024) [⟨true, [c.first f.a o.a / 64]⟩] (c.mxStart (.ard o) o f))

/-- AWR (R303). -/
def execAwr (o : Ops) (s : State) : Out :=
  runGeneral s (.awr o) (fun c f =>
    c.wholeSheaf (.awr o) (c.first f.a o.a < 1024) [⟨true, [c.first f.a o.a / 64]⟩] (c.mxStart (.awr o) o f))

/-- The checks of AOP's operands at issue (R306). -/
def Ctx.aopFault (c : Ctx) (o : Ops) (f : Form) : Option Nat :=
  let p := srcValue c.sh c.ext f.b o.b 0
  let lo := ofFP32 (p.extractLsb' 0 32)
  let hi := ofFP32 ((srcValue c.sh c.ext f.c o.c 0).extractLsb' 0 32)
  match o.mod.toNat % 4 with
  | 1 =>
    if p.toNat % 256 != 0 then some causeMisaligned
    else (match c.s.locate c.w p with
      | some (.own off) => if off + 256 ≤ c.w.lsBase + c.w.units * 65536 then none else some causeAddress
      | _ => some causeAddress)
  | 3 => if lo.isNaN || hi.isNaN || (FVal.lt hi lo && !FVal.eqv hi lo) then some causeIllegalOperand else none
  | _ => none

/-- AOP (R306). -/
def execAop (o : Ops) (s : State) : Out :=
  runGeneral s (.aop o) (fun c f =>
    c.wholeSheaf (.aop o) (c.first f.a o.a < 16) [⟨true, [c.first f.a o.a]⟩]
      (match c.aopFault o f with
      | some cause => c.s.issueTrap c.k (.aop o) cause 0 c.e c.e
      | none => c.mxStart (.aop o) o f))

/-- ADRN (R307, R308). -/
def execAdrn (o : Ops) (s : State) : Out :=
  runGeneral s (.adrn o) (fun c f =>
    c.wholeSheaf (.adrn o) (c.first f.a o.a < 16) [⟨true, [c.first f.a o.a]⟩]
      (if extRecord o f && !c.s.windowAligned c.w o then c.s.issueTrap c.k (.adrn o) causeMisaligned 0 c.e c.e
      else c.mxStart (.adrn o) o f))

/-! Turns (R294, R305 to R309). -/

/-- The cycles an operation occupies the engine (R294). -/
def MxOp.occupancy (op : MxOp) : Nat :=
  match op.instr with
  | .mma o => let n := mmaSpan o.attr * (mmaPair o.mod).cyc; if op.repro then n * 9 / 8 else n
  | .aclr _ => 4
  | .aop _ => 16
  | .adrn o => if o.mod.getLsbD 2 then 32 else 16
  | _ => 1

/-- A drain that begins, with its records read from local store; what is written there later does not matter (R263, R266, R308). -/
def State.mxRecords (s : State) (op : MxOp) : MxOp :=
  match op.instr, mapFind s.wgs op.wg with
  | .adrn o, some w =>
    let op := match s.opRecord w op.recB op.b with
      | .ok ws => { op with recB := some ws }
      | .error c => { op with badB := some c }
    if !o.mod.getLsbD 2 then op
    else match s.opRecord w op.recC op.c with
      | .ok ws => { op with recC := some ws }
      | .error c => { op with badC := some c }
  | _, _ => op

/-- MATRIX_OP_BEGIN (R294, R295): the oldest admitted operation begins once the engine is free; an MMA waits for the rows written
before its admission. -/
def execMatrixOpBegin (core lgrp : Nat) (s : State) : Out :=
  let q := s.mxQ core lgrp
  let blocked (op : MxOp) : Bool := (match op.instr with | .mma _ => true | _ => false) && op.rows != []
  .next (if q.any (fun op => op.stage == .running) then s
    else match q.find? (fun op => op.stage == .queued) with
    | none => s
    | some op =>
      if blocked op then s
      else s.setMxQ core lgrp (q.map (fun x =>
        if x.id == op.id then { s.mxRecords op with stage := .running, till := s.clk + op.occupancy } else x)))

/-- The elements of a slot row: code and scale of the half-row, and the element's bits (R283, R305). -/
def State.slotElem (s : State) (core lgrp slot row fmt e : Nat) : Nat × Nat :=
  let bits := elemBits fmt
  let off := mxOff lgrp false slot (row * 128)
  let byte := e * bits / 8
  let v := leNat ((List.range ((bits + 7) / 8)).map (fun i => s.mxByte core (off + byte + i)))
  ((s.mxTag core (off + e * bits / 512 * 64)).toNat % 256, (v >>> (e * bits % 8)) % 2 ^ bits)

/-- Element k of row i of an operand's run (R305): its slots start at `base`, each holding `per` elements of K. -/
def State.runElem (s : State) (core lgrp base row fmt per k : Nat) : Nat × Nat :=
  s.slotElem core lgrp (base + k / per) row fmt (k % per)

/-- Whether every half-row of a run carries its operand's format, INT8 no scale of 0xFF (R305). -/
def State.runTagsOk (s : State) (core lgrp base n fmt : Nat) : Bool :=
  (List.range n).all (fun x => (List.range 128).all (fun h =>
    let t := (s.mxTag core (mxOff lgrp false (base + x) (64 * h))).toNat
    t / 256 == fmt && !(fmt == 7 && t % 256 == 0xFF)))

/-- The order in which the groups of one element arrive in normal mode: any order, drawn from the free values (R83). -/
def arrivalOrder (seed : Nat) : Nat → List Nat
  | 0 => []
  | g + 1 =>
    let xs := arrivalOrder seed g
    let at_ := (Config.freeWord (seed + g)).toNat % (g + 1)
    xs.take at_ ++ [g] ++ xs.drop at_

/-- One element of an MMA (R83, R305). -/
def State.mmaElem (s : State) (core lgrp : Nat) (op : MxOp) (o : Ops) (old : Word) (i j : Nat) (order : List Nat) : Word :=
  let p := mmaPair o.mod
  let per := p.k / p.as
  let a (k : Nat) : Nat × Nat := s.runElem core lgrp (op.b.toNat % 2 ^ 32) i p.fa per k
  let b (k : Nat) : Nat × Nat := s.runElem core lgrp (op.c.toNat % 2 ^ 32) j p.fb p.k k
  let ks (g : Nat) : List Nat := (List.range 32).map (fun k => 32 * g + k)
  let start : Word := if o.mod.getLsbD 4 then 0 else old
  if p.fa == 7 then
    order.foldl (fun c g => (ks g).foldl (fun c k =>
      let x := a k
      let y := b k
      let int8 (e : Nat × Nat) : Word := if e.1 == 0 then 0 else (BitVec.ofNat 8 e.2).signExtend 32
      c + int8 x * int8 y) c) start
  else
    order.foldl (fun c g =>
      if !op.repro && ((a (32 * g)).1 == 0 || (b (32 * g)).1 == 0) then c
      else
        let prods := (ks g).map (fun k => FVal.mul (scaledValue p.fa (a k).1 (a k).2) (scaledValue p.fb (b k).1 (b k).2))
        let g_val := toFP32 .rne (FVal.sum .rne prods)
        toFP32 .rne (FVal.add .rne (ofFP32 c) (ofFP32 g_val))) start

/-- Whether a word that an MMA reads is poisoned. -/
def State.runPoisoned (s : State) (core lgrp base n row : Nat) : Bool :=
  (List.range n).any (fun x => (List.range 32).any (fun w => s.mxPoisoned core (mxOff lgrp false (base + x) (row * 128 + 4 * w))))

/-- A cause latched for the sheaf of a matrix operation (R298). -/
def State.latchMx (s : State) (op : MxOp) (cause : Nat) : State :=
  s.onMember op.wg op.idx (fun sh => { sh with errMatrix := sh.errMatrix.orElse (fun _ => some (BitVec.ofNat 8 cause)) })

/-- The 64 × 64 words of a tile replaced, each from its old value; a poisoned word stays poisoned and latches DATA_ERROR. -/
def State.mapTile (s : State) (core lgrp tile : Nat) (f : Nat → Nat → Word → Word) (bad : Nat → Nat → Bool) : State :=
  (List.range 64).foldl (fun t i => (List.range 64).foldl (fun t j =>
    t.setTileWord core lgrp tile i j (f i j (s.tileWord core lgrp tile i j)) (bad i j)) t) s

/-- Whether an element of a tile is poisoned. -/
def State.tilePoisoned (s : State) (core lgrp tile i j : Nat) : Bool := s.mxPoisoned core (mxOff lgrp true tile (256 * i + 4 * j))
/-- Whether any is. -/
def anyElem (p : Nat → Nat → Bool) : Bool := (List.range 64).any (fun i => (List.range 64).any (fun j => p i j))

/-- MMA's turn (R305): its tags checked, its tile written. -/
def State.mmaTurn (s : State) (core lgrp : Nat) (op : MxOp) (o : Ops) : State :=
  let p := mmaPair o.mod
  let n := mmaSpan o.attr
  let tile := op.a.toNat % 2 ^ 32
  let ab := op.b.toNat % 2 ^ 32
  let bb := op.c.toNat % 2 ^ 32
  if !(s.runTagsOk core lgrp ab (n * p.as) p.fa && s.runTagsOk core lgrp bb n p.fb) then s.latchMx op causeFormat
  else
    let groups := n * p.k / 32
    let order (i j : Nat) : List Nat := if op.repro then List.range groups else arrivalOrder (s.free + (64 * i + j) * 32) groups
    let bad (i j : Nat) : Bool := s.runPoisoned core lgrp ab (n * p.as) i || s.runPoisoned core lgrp bb n j
      || (!o.mod.getLsbD 4 && s.tilePoisoned core lgrp tile i j)
    let t := s.mapTile core lgrp tile (fun i j old => s.mmaElem core lgrp op o old i j (order i j)) bad
    let t := { t with free := if op.repro then t.free else t.free + 131072 }
    if anyElem bad then t.latchMx op causeDataError else t

/-- The new value of a tile element under AOP (R306). -/
def aopValue (m : BitVec 5) (b c : Word) (vec : Nat → Word) (j : Nat) (x : Word) : Word :=
  let v := ofFP32 x
  let nan : Word := toFP32 .rne .nan
  match m.toNat % 4 with
  | 0 => toFP32 .rne (FVal.mul v (ofFP32 b))
  | 1 => toFP32 .rne (FVal.add .rne v (ofFP32 (vec j)))
  | 2 => if v.isNaN then nan else if !v.isNeg && !v.isZero then x else 0
  | _ => if v.isNaN then nan
    else if FVal.lt v (ofFP32 b) && !FVal.eqv v (ofFP32 b) then b
    else if FVal.lt (ofFP32 c) v && !FVal.eqv (ofFP32 c) v then c
    else x

/-- AOP's turn (R306). -/
def State.aopTurn (s : State) (core lgrp : Nat) (op : MxOp) (o : Ops) : State :=
  let tile := op.a.toNat % 2 ^ 32
  let off := op.b.toNat % 2 ^ 24
  let vec (j : Nat) : Word := BitVec.ofNat 32 (leNat (s.lsRead core (off + 4 * j) 4))
  let bad (i j : Nat) : Bool := s.tilePoisoned core lgrp tile i j
    || (o.mod.toNat % 4 == 1 && mapGetD s.lsPoison (lsKey core (off + 4 * j) / 4) false)
  let t := s.mapTile core lgrp tile (fun _ j x => aopValue o.mod (op.b.extractLsb' 0 32) (op.c.extractLsb' 0 32) vec j x) bad
  if anyElem bad then t.latchMx op causeDataError else t

/-- ARD's turn (R303, R381): its values go to the register pairs, poisoned elements as poisoned words; they are pending until thread 31 has its
own, 4 cycles and one for each thread after it. -/
def State.ardTurn (s : State) (core lgrp : Nat) (op : MxOp) (o : Ops) : State :=
  let row := op.a.toNat % 2 ^ 32
  let e (j : Nat) : Word := s.tileWord core lgrp (row / 64) (row % 64) j
  let bad (j : Nat) : Bool := s.tilePoisoned core lgrp (row / 64) (row % 64) j
  s.onMember op.wg op.idx (fun sh =>
    let sh := (List.range 32).foldl (fun sh t => sh.lateResult o .w64 t ((e (2 * t + 1) ++ e (2 * t)).setWidth 128)) sh
    { sh.pendUntil op.instr.dstOf (s.clk + 35) with
              rpoison := (List.range 64).foldl (fun xs j =>
                if bad j && !o.nw then xs ++ [(o.d.toNat + j % 2) * 32 + j / 2] else xs) sh.rpoison })

/-- AWR's turn (R303). -/
def State.awrTurn (s : State) (core lgrp : Nat) (op : MxOp) : State :=
  let row := op.a.toNat % 2 ^ 32
  op.data.foldl (fun s tv =>
    (s.setTileWord core lgrp (row / 64) (row % 64) (2 * tv.1) (tv.2.extractLsb' 0 32) false).setTileWord core lgrp (row / 64) (row % 64)
      (2 * tv.1 + 1) (tv.2.extractLsb' 32 32) false) s

/-! Drains (R307 to R309). -/

/-- The bits of a drained format; .raw is words. -/
def drainBits (code : Nat) : Nat := if code == 0 then 32 else fmtBits code

/-- The record of one copy from the words read when the operation began, or the cause it latches (R308). -/
def drainRecord (ws : Option (List Word)) (bad : Option Nat) (code : Nat) : Except Nat BufRec :=
  match bad with
  | some e => .error e
  | none =>
    let r := bufRec (ws.getD [])
    if r.bad || r.ext0 != 64 || r.ext1 != 64 || r.ext2 != 1 then .error causeIllegalOperand
    else if r.fmt != (if code == 0 then 1 else code) then .error causeFormat
    else if r.base.toNat % 64 != 0 then .error causeMisaligned
    else if (if code == 6 then r.stride1 != 32 else r.stride1 % 64 != 0 || r.stride1 < 8 * drainBits code) then .error causeMisaligned
    else if eaSpace r.base == 5 || (eaSpace r.base == 3 && r.base.getLsbD 29) then .error causeAddress
    else .ok r

/-- The blocks of one copy (R308, R309): each with its tag. Two rows of E2M1 share a block. `elem y x` is the element at record
coordinates (x, y), with its poison. -/
def drainPuts (r : BufRec) (code : Nat) (sat : Bool) (rm : Nat → RMode) (elem : Nat → Nat → Word × Bool) : List (Put × Option Tag) :=
  let bits := drainBits code
  let n := 512 / bits
  let rows := if code == 6 then 32 else 64
  let blks := if code == 6 then 1 else bits / 8
  (List.range rows).flatMap (fun y => (List.range blks).map (fun b =>
    let at_ (e : Nat) : Nat × Nat := if code == 6 then (2 * y + e / 64, e % 64) else (y, n * b + e)
    let es := (List.range n).map (fun e => elem (at_ e).1 (at_ e).2)
    let addr := r.at 0 (if code == 6 then 2 * y else y) 0 + BitVec.ofNat 64 (64 * b)
    let bad := es.any (fun x => x.2)
    if code ≤ 1 then
      ({ addr := addr, blk := codesBlk 32 (es.map (fun x => x.1.toNat)), mask := BitVec.allOnes 64
         poison := BitVec.ofNat 16 (es.foldr (fun x acc => (if x.2 then 1 else 0) + 2 * acc) 0) }, some (if code == 0 then 0 else 0x017F))
    else
      let x := narrowBlock code sat (fun e => rm ((at_ e).1 * 64 + (at_ e).2)) (es.map (fun x => ofFP32 x.1))
      ({ addr := addr, blk := codesBlk bits x.1, mask := BitVec.allOnes 64, poison := if bad then 0xFFFF else 0 }, some x.2)))

/-- The memory side of a matrix operation that has ended: counted on MATRIX, complete unless it writes memory. -/
def MxOp.ended (op : MxOp) (core : Nat) (own : BitVec 16) (words : List Word) (items : List EngItem) : EngOp :=
  { id := op.id, wg := op.wg, idx := op.idx, core := core, matrix := true, instr := op.instr, asid := op.asid, own := own,
    level := op.level, lead := 0, mask := 0xFFFFFFFF, a := op.a, b := op.b, c := op.c, cs := [], recA := none, recB := none,
    words := words, begun := true, items := items,
    bo := (match op.instr with | .adrn o => if o.mod.getLsbD 4 then some o.attr.offset.toNat else none | _ => none)
    boLeft := 0, span := none, key := op.key, stream := op.stream, ctr := op.ctr, complete := false }

/-- ADRN's turn (R307 to R309): the blocks of its copies are written like those of a copy-and-gather operation. -/
def State.adrnTurn (s : State) (core lgrp : Nat) (op : MxOp) (o : Ops) : State :=
  let own := match mapFind s.wgs op.wg with | some w => w.asid | none => 0
  let tile := op.a.toNat % 2 ^ 32
  let f1 := o.attr.ispec.toNat % 16
  let f2 := o.attr.ispec.toNat / 16
  let word (i j : Nat) : Word × Bool := (s.tileWord core lgrp tile i j, s.tilePoisoned core lgrp tile i j)
  let rm (copy idx : Nat) : RMode :=
    narrowMode o.mod ((rand32 op.key op.stream op.ctr (BitVec.ofNat 32 (4096 * copy + idx))).extractLsb' 16 16)
  let sat (f : Nat) : Bool := o.mod.getLsbD 3 && f == 5
  let r1 := drainRecord op.recB op.badB f1
  let words := op.recB.getD []
  let home (r : BufRec) : Nat := if eaSpace r.base == 2 || eaSpace r.base == 3 then coreOfAddr r.base else core
  let item (x : Nat) (r : BufRec) : EngItem := { engItem 0 x [] 0 0 with settled := true, boCore := some (home r) }
  let plans : List (Nat × Except Nat (BufRec × List (Put × Option Tag))) :=
    (0, r1.map (fun r => (r, drainPuts r f1 (sat f1) (rm 0) (fun y x => word y x))))
      :: (if o.mod.getLsbD 2 then
          [(1, (drainRecord op.recC op.badC f2).map (fun r => (r, drainPuts r f2 (sat f2) (rm 1) (fun y x => word x y))))]
        else [])
  let items := plans.filterMap (fun p => p.2.toOption.map (fun x => item p.1 x.1))
  let e := op.ended core own words items
  let s := s.onCore core (fun c => { c with eng := c.eng ++ [e] })
  plans.foldl (fun s p =>
    match p.2 with
    | .error c => s.latchMx op c
    | .ok (_, ps) => s.engWrites e p.1 ps) s

/-- MATRIX_OP_END (R294): the occupancy ends; the operation has its effect and leaves the queue, to be reported. -/
def execMatrixOpEnd (core lgrp : Nat) (s : State) : Out :=
  .next (match (s.mxQ core lgrp).find? (fun op => op.stage == .running && op.till ≤ s.clk) with
    | none => s
    | some op =>
      let tile := op.a.toNat % 2 ^ 32
      let s := s.setMxQ core lgrp ((s.mxQ core lgrp).filter (fun x => x.id != op.id))
      let ended (s : State) : State := s.onCore core (fun c => { c with eng := c.eng ++ [op.ended core 0 [] []] })
      match op.instr with
      | .mma o => ended (s.mmaTurn core lgrp op o)
      | .aclr _ => ended (s.mapTile core lgrp tile (fun _ _ _ => 0) (fun _ _ => false))
      | .aop o => ended (s.aopTurn core lgrp op o)
      | .adrn o => s.adrnTurn core lgrp op o
      | .ard o => s.ardTurn core lgrp op o
      | .awr _ => s.awrTurn core lgrp op
      | _ => s)

end Sys2Proof.Machine
end

