-- ==== Sys2Proof/Machine/Packed.lean ====
section
/-! DEFINITION. Meanings of the packed and dot-product instructions (R205, R206). -/

namespace Sys2Proof.Machine

/-- HADD2 (R205): Packed FP16 or BF16 add. -/
def execHadd2 (o : Ops) (s : State) : Out :=
  laneOp s (.hadd2 o) o (aluHadd2 o.mod)

/-- HMUL2 (R205): Packed FP16 or BF16 multiply. -/
def execHmul2 (o : Ops) (s : State) : Out :=
  laneOp s (.hmul2 o) o (aluHmul2 o.mod)

/-- HFMA2 (R205): Packed FP16 or BF16 fused multiply-add. -/
def execHfma2 (o : Ops) (s : State) : Out :=
  laneOp s (.hfma2 o) o (aluHfma2 o.mod)

/-- HMIN2 (R205): Packed FP16 or BF16 minimum. -/
def execHmin2 (o : Ops) (s : State) : Out :=
  laneOp s (.hmin2 o) o (aluHmin2 o.mod)

/-- HMAX2 (R205): Packed FP16 or BF16 maximum. -/
def execHmax2 (o : Ops) (s : State) : Out :=
  laneOp s (.hmax2 o) o (aluHmax2 o.mod)

/-- FDP2 (R206): Two-way 16-bit dot product into FP32. -/
def execFdp2 (o : Ops) (s : State) : Out :=
  laneOp s (.fdp2 o) o (aluFdp2 o.mod)

/-- FDP4 (R206): Four-way 8-bit FP dot product into FP32. -/
def execFdp4 (o : Ops) (s : State) : Out :=
  laneOp s (.fdp4 o) o (aluFdp4 o.mod)

end Sys2Proof.Machine
end

