-- ==== Sys2Proof/Machine/Pod.lean ====
section
/-! DEFINITION. Troxia ports (R321, R400 to R402): flits received, markers, ports down, key rollover. What another package asks of this
one is outside the model (log 23). -/

namespace Sys2Proof.Machine

/-- The requests that wait at a port to be sent (R400). -/
def State.portQueue (s : State) (port : Nat) : List Nat := match mapFind s.ports port with | some x => x.queue | none => []

/-- A port that goes down (R402): what was sent on it and not acknowledged fails with ADDRESS, none is replayed, and a record is made; what
was not sent yet takes another port. -/
def State.portDown (s : State) (port : Nat) : State :=
  let later := s.portQueue port
  let s := { s with ports := mapModify s.ports port (fun x => { x with up := false, rejects := [], replay := [], queue := [] }) }
  let mine := s.podOut.filter (fun q => q.port == port)
  let (moved, lost) := mine.partition (fun q => later.contains q.seq)
  let s := { s with podOut := s.podOut.filter (fun q => q.port != port) }
  let s := moved.foldl (fun s q => s.podSend q) s
  let s := lost.foldl (fun s q => s.podAnswer q (BlkAns.failed (.bad (BitVec.ofNat 8 causeAddress))) (fun _ => 0)) s
  s.fqRecord (errorRec s 0x15 (BitVec.ofNat 64 port) 0 0 0)

/-- TROXIA_PORT_DOWN (R402): the link of a port drops. -/
def execTroxiaPortDown (port : Nat) (s : State) : Out :=
  .next (match mapFind s.ports port with
    | none => s
    | some x => if x.up then s.portDown port else s)

/-- The entry behind a request. -/
def PodOut.entry (q : PodOut) : Nat := match q.asker with | .entry id => id | _ => 0
/-- The counter behind a request of ALREAD, ALCLOSE or ALINIT to another package. -/
def State.podCounter (s : State) (q : PodOut) : Option AlKey :=
  match q.asker with
  | .entry id => (match mapFind s.win id with
    | some e => if memClass e.instr == .allow then some { asid := s.reqAsid e q.base, va := q.base } else none
    | none => none)
  | _ => none

/-- The answer that a delivered payload carries to a request of this package (R223); one to an allowance instruction carries the counter's state
and passes the die's slice (R415). -/
def State.flitDelivered (s : State) (port : Nat) (bs : List Byte) : State :=
  match s.podOut.find? (fun q => q.seq == Config.flitRequest bs && q.port == port && !(s.portQueue port).contains q.seq) with
  | none => s
  | some q =>
    let c := Config.flitCause bs % 256
    let s := { s with podOut := s.podOut.filter (fun x => x.seq != q.seq) }
    let st := some (Config.flitState bs)
    match q.al, c with
    | some (die, .take _ t), 0 =>
      if t.exact || Config.flitExact bs then
        s.sendAl (.troxia port) (alSlice die t.key) (.answer die t (Config.flitUnits bs) st) t.key.asid
      else s.sendAl (.troxia port) (alSlice die t.key) (.grant die t t.wantHome 0) t.key.asid
    | some (die, .take _ t), c =>
      s.sendAl (.troxia port) (alSlice die t.key) (.fail t.key t.core t.entry t.thread (BitVec.ofNat 8 c) st) t.key.asid
    | some (die, .give k _ _ (some (core, entry, thread))), c =>
      s.sendAl (.troxia port) (alSlice die k) (if c == 0 then .value k core entry (BitVec.ofNat 64 thread) st
        else .fail k core entry thread (BitVec.ofNat 8 c) st) k.asid
    | _, _ =>
    match s.podCounter q with
    | some k =>
      s.sendAl (.troxia port) (alSlice (coreDie q.core) k) (if c == 0 then .value k q.core q.entry (Config.flitOld bs 0) st
        else .fail k q.core q.entry 32 (BitVec.ofNat 8 c) st) k.asid
    | none =>
    let a : BlkAns := if c != 0 then BlkAns.failed (.bad (BitVec.ofNat 8 c))
      else { BlkAns.done with blk := Config.flitBlk bs, tag := Config.flitTag bs }
    s.podAnswer q a (Config.flitOld bs)

/-- A rollover that waits begins once the one before it has finished (R401). -/
def Port.nextRollover (x : Port) : Port :=
  if x.rollover.isSome || x.recvBoth then x
  else match x.waiting with
    | [] => x
    | q :: rest => { x with rollover := some q, recvBoth := true, waiting := rest }

/-- Whether a port accepts a flit: it passes its tag check and its CRC, under a key that the receiver holds (R400, R401). -/
def Port.accepts (x : Port) (f : Flit) : Bool := f.ok && (x.recvBoth || f.keyBit == (x.recvEpoch % 2 == 1))

/-- What an accepted flit says of the other end: its acknowledgement, a rejection, whereupon the replay buffer is sent again from the flit after the
one acknowledged (R400), an old key erased there (R401 step 5). -/
def Port.heard (x : Port) (port : Nat) (f : Flit) : Port :=
  let x := { x with
    rejects := mapErase x.rejects f.seq.toNat
    acked := if seqFrom f.ack x.acked then f.ack else x.acked
    replay := x.replay.filter (fun r => !seqFrom f.ack r.seq) }
  let x := if Config.flitRejects f.payload then x.resend port else x
  let x := if x.recvBoth && Config.flitErased f.payload then { x with recvEpoch := x.recvEpoch + 1, recvBoth := false }.nextRollover else x
  x.refill port

/-- TROXIA_FLIT_RECEIVE (R400 to R402): a flit that fails its checks is rejected, the eighth rejection of one flit in a row takes the port down;
flits are delivered in sequence. -/
def execTroxiaFlitReceive (port : Nat) (flit : Flit) (s : State) : Out :=
  .next (match mapFind s.ports port with
    | none => s
    | some x =>
      if !x.up then s
      else if !x.accepts flit then
        let n := mapGetD x.rejects flit.seq.toNat 0
        if 7 ≤ n then s.portDown port
        else { s with ports := mapInsert s.ports port { x with rejects := mapInsert x.rejects flit.seq.toNat (n + 1) } }
      else
        let y := x.heard port flit
        if flit.seq != x.expect then { s with ports := mapInsert s.ports port y }
        else ({ s with ports := mapInsert s.ports port { y with expect := x.expect + 1 } } : State).flitDelivered port flit.payload)

/-- Whether a port's marker may be answered: every space-5 write that the port forwarded before it came is acknowledged. -/
def State.podMarkDone (s : State) (m : PodMark) : Bool :=
  !s.podOut.any (fun q => q.write && q.port == m.port && q.seq < m.before)

/-- TROXIA_POD_MARKER (R321): a POD marker that arrives at a port is noted; one whose writes have been acknowledged is answered. -/
def execTroxiaPodMarker (s : State) : Out :=
  .next (match s.receiveAny (fun a m => match a, m with | .troxia p, .mark f 6 => some (p, f) | _, _ => none) with
    | some ((port, f), p, s) =>
      { s with podMarks := s.podMarks ++ [{ who := f, back := p.src, port := port, before := s.winNext }] }
    | none =>
      match s.podMarks.find? (fun m => s.podMarkDone m) with
      | none => s
      | some m => ({ s with podMarks := s.podMarks.erase m } : State).send (.troxia m.port) m.back 0 none (.marked m.who))

/-- KEY_ROLLOVER (R401): the new key at both ends; a second rollover waits for the first. -/
def execKeyRollover (port : Nat) (seq : BitVec 24) (s : State) : Out :=
  .next (match mapFind s.ports port with
    | none => s
    | some x => { s with ports := mapInsert s.ports port { x with waiting := x.waiting ++ [seq] }.nextRollover })

/-- TROXIA_OLD_KEY_ERASE (R401 step 4): the replay buffer holds no flit below s, and s is acknowledged. -/
def execTroxiaOldKeyErase (port : Nat) (s : State) : Out :=
  .next (match mapFind s.ports port with
    | none => s
    | some x => match x.rollover with
      | none => s
      | some q =>
        if x.replay.all (fun r => seqFrom r.seq q) && seqFrom x.acked q then
          { s with ports := mapInsert s.ports port { x with rollover := none, epoch := x.epoch + 1 }.nextRollover }
        else s)

end Sys2Proof.Machine
end

