-- ==== Sys2Proof/Machine/Dispatch.lean ====
section
/-! DEFINITION. The dispatch: one arm per constructor of Instr. -/

namespace Sys2Proof.Machine

def exec (i : Instr) (s : State) : Host.Outcome State Fault Refusal :=
  match i with
  | .nop o => Sys2Proof.Machine.execNop o s
  | .bra o => Sys2Proof.Machine.execBra o s
  | .brc o => Sys2Proof.Machine.execBrc o s
  | .brx o => Sys2Proof.Machine.execBrx o s
  | .call o => Sys2Proof.Machine.execCall o s
  | .callx o => Sys2Proof.Machine.execCallx o s
  | .ret o => Sys2Proof.Machine.execRet o s
  | .exit o => Sys2Proof.Machine.execExit o s
  | .yield o => Sys2Proof.Machine.execYield o s
  | .sleep o => Sys2Proof.Machine.execSleep o s
  | .brk o => Sys2Proof.Machine.execBrk o s
  | .trap o => Sys2Proof.Machine.execTrap o s
  | .cfetch o => Sys2Proof.Machine.execCfetch o s
  | .cpin o => Sys2Proof.Machine.execCpin o s
  | .cunpin o => Sys2Proof.Machine.execCunpin o s
  | .iadd o => Sys2Proof.Machine.execIadd o s
  | .isub o => Sys2Proof.Machine.execIsub o s
  | .isum3 o => Sys2Proof.Machine.execIsum3 o s
  | .imul o => Sys2Proof.Machine.execImul o s
  | .imulh o => Sys2Proof.Machine.execImulh o s
  | .imac o => Sys2Proof.Machine.execImac o s
  | .imacw o => Sys2Proof.Machine.execImacw o s
  | .iadd64 o => Sys2Proof.Machine.execIadd64 o s
  | .isub64 o => Sys2Proof.Machine.execIsub64 o s
  | .imin o => Sys2Proof.Machine.execImin o s
  | .imax o => Sys2Proof.Machine.execImax o s
  | .iabs o => Sys2Proof.Machine.execIabs o s
  | .lea o => Sys2Proof.Machine.execLea o s
  | .lea64 o => Sys2Proof.Machine.execLea64 o s
  | .idot4 o => Sys2Proof.Machine.execIdot4 o s
  | .idot2 o => Sys2Proof.Machine.execIdot2 o s
  | .and o => Sys2Proof.Machine.execAnd o s
  | .or o => Sys2Proof.Machine.execOr o s
  | .xor o => Sys2Proof.Machine.execXor o s
  | .andn o => Sys2Proof.Machine.execAndn o s
  | .lsel o => Sys2Proof.Machine.execLsel o s
  | .shl o => Sys2Proof.Machine.execShl o s
  | .shr o => Sys2Proof.Machine.execShr o s
  | .rot o => Sys2Proof.Machine.execRot o s
  | .shd o => Sys2Proof.Machine.execShd o s
  | .popc o => Sys2Proof.Machine.execPopc o s
  | .clz o => Sys2Proof.Machine.execClz o s
  | .brev o => Sys2Proof.Machine.execBrev o s
  | .xfld o => Sys2Proof.Machine.execXfld o s
  | .ifld o => Sys2Proof.Machine.execIfld o s
  | .bmux o => Sys2Proof.Machine.execBmux o s
  | .clmul o => Sys2Proof.Machine.execClmul o s
  | .icmp o => Sys2Proof.Machine.execIcmp o s
  | .fcmp o => Sys2Proof.Machine.execFcmp o s
  | .sel o => Sys2Proof.Machine.execSel o s
  | .mov o => Sys2Proof.Machine.execMov o s
  | .movi o => Sys2Proof.Machine.execMovi o s
  | .movs o => Sys2Proof.Machine.execMovs o s
  | .mov64 o => Sys2Proof.Machine.execMov64 o s
  | .icmp64 o => Sys2Proof.Machine.execIcmp64 o s
  | .fadd o => Sys2Proof.Machine.execFadd o s
  | .fmul o => Sys2Proof.Machine.execFmul o s
  | .ffma o => Sys2Proof.Machine.execFfma o s
  | .fmin o => Sys2Proof.Machine.execFmin o s
  | .fmax o => Sys2Proof.Machine.execFmax o s
  | .frnd o => Sys2Proof.Machine.execFrnd o s
  | .ffrc o => Sys2Proof.Machine.execFfrc o s
  | .fscl o => Sys2Proof.Machine.execFscl o s
  | .frcp o => Sys2Proof.Machine.execFrcp o s
  | .frsq o => Sys2Proof.Machine.execFrsq o s
  | .fsqrt o => Sys2Proof.Machine.execFsqrt o s
  | .fdiv o => Sys2Proof.Machine.execFdiv o s
  | .fex2 o => Sys2Proof.Machine.execFex2 o s
  | .flg2 o => Sys2Proof.Machine.execFlg2 o s
  | .fsin o => Sys2Proof.Machine.execFsin o s
  | .fcos o => Sys2Proof.Machine.execFcos o s
  | .hadd2 o => Sys2Proof.Machine.execHadd2 o s
  | .hmul2 o => Sys2Proof.Machine.execHmul2 o s
  | .hfma2 o => Sys2Proof.Machine.execHfma2 o s
  | .hmin2 o => Sys2Proof.Machine.execHmin2 o s
  | .hmax2 o => Sys2Proof.Machine.execHmax2 o s
  | .fdp2 o => Sys2Proof.Machine.execFdp2 o s
  | .fdp4 o => Sys2Proof.Machine.execFdp4 o s
  | .f2i o => Sys2Proof.Machine.execF2i o s
  | .i2f o => Sys2Proof.Machine.execI2f o s
  | .f2f o => Sys2Proof.Machine.execF2f o s
  | .cvpk o => Sys2Proof.Machine.execCvpk o s
  | .cvup o => Sys2Proof.Machine.execCvup o s
  | .dsenc o => Sys2Proof.Machine.execDsenc o s
  | .dsdec o => Sys2Proof.Machine.execDsdec o s
  | .relay o => Sys2Proof.Machine.execRelay o s
  | .poll o => Sys2Proof.Machine.execPoll o s
  | .sred o => Sys2Proof.Machine.execSred o s
  | .sscan o => Sys2Proof.Machine.execSscan o s
  | .matchv o => Sys2Proof.Machine.execMatchv o s
  | .firstv o => Sys2Proof.Machine.execFirstv o s
  | .ld o => Sys2Proof.Machine.execLd o s
  | .st o => Sys2Proof.Machine.execSt o s
  | .ldb o => Sys2Proof.Machine.execLdb o s
  | .stb o => Sys2Proof.Machine.execStb o s
  | .ldtg o => Sys2Proof.Machine.execLdtg o s
  | .sttg o => Sys2Proof.Machine.execSttg o s
  | .tagrd o => Sys2Proof.Machine.execTagrd o s
  | .tagwr o => Sys2Proof.Machine.execTagwr o s
  | .pref o => Sys2Proof.Machine.execPref o s
  | .cctl o => Sys2Proof.Machine.execCctl o s
  | .atom o => Sys2Proof.Machine.execAtom o s
  | .atom64 o => Sys2Proof.Machine.execAtom64 o s
  | .cas o => Sys2Proof.Machine.execCas o s
  | .cas64 o => Sys2Proof.Machine.execCas64 o s
  | .fatom o => Sys2Proof.Machine.execFatom o s
  | .hatom2 o => Sys2Proof.Machine.execHatom2 o s
  | .red o => Sys2Proof.Machine.execRed o s
  | .fred o => Sys2Proof.Machine.execFred o s
  | .cpy o => Sys2Proof.Machine.execCpy o s
  | .gath o => Sys2Proof.Machine.execGath o s
  | .bags o => Sys2Proof.Machine.execBags o s
  | .scad o => Sys2Proof.Machine.execScad o s
  | .fill o => Sys2Proof.Machine.execFill o s
  | .waitc o => Sys2Proof.Machine.execWaitc o s
  | .cntrd o => Sys2Proof.Machine.execCntrd o s
  | .sclaim o => Sys2Proof.Machine.execSclaim o s
  | .srel o => Sys2Proof.Machine.execSrel o s
  | .swr o => Sys2Proof.Machine.execSwr o s
  | .srd o => Sys2Proof.Machine.execSrd o s
  | .aclaim o => Sys2Proof.Machine.execAclaim o s
  | .arel o => Sys2Proof.Machine.execArel o s
  | .mma o => Sys2Proof.Machine.execMma o s
  | .aclr o => Sys2Proof.Machine.execAclr o s
  | .ard o => Sys2Proof.Machine.execArd o s
  | .awr o => Sys2Proof.Machine.execAwr o s
  | .aop o => Sys2Proof.Machine.execAop o s
  | .adrn o => Sys2Proof.Machine.execAdrn o s
  | .fence o => Sys2Proof.Machine.execFence o s
  | .bar o => Sys2Proof.Machine.execBar o s
  | .bara o => Sys2Proof.Machine.execBara o s
  | .barw o => Sys2Proof.Machine.execBarw o s
  | .boinit o => Sys2Proof.Machine.execBoinit o s
  | .boexp o => Sys2Proof.Machine.execBoexp o s
  | .boarr o => Sys2Proof.Machine.execBoarr o s
  | .bowait o => Sys2Proof.Machine.execBowait o s
  | .alinit o => Sys2Proof.Machine.execAlinit o s
  | .altake o => Sys2Proof.Machine.execAltake o s
  | .algive o => Sys2Proof.Machine.execAlgive o s
  | .alread o => Sys2Proof.Machine.execAlread o s
  | .alpeek o => Sys2Proof.Machine.execAlpeek o s
  | .alclose o => Sys2Proof.Machine.execAlclose o s
  | .launch o => Sys2Proof.Machine.execLaunch o s
  | .ndec o => Sys2Proof.Machine.execNdec o s
  | .evsig o => Sys2Proof.Machine.execEvsig o s
  | .csrrd o => Sys2Proof.Machine.execCsrrd o s
  | .csrwr o => Sys2Proof.Machine.execCsrwr o s
  | .tret o => Sys2Proof.Machine.execTret o s
  | .ctxsv o => Sys2Proof.Machine.execCtxsv o s
  | .ctxld o => Sys2Proof.Machine.execCtxld o s
  | .xlinv o => Sys2Proof.Machine.execXlinv o s
  | .unassignedOpcode w => Sys2Proof.Machine.execUnassignedOpcode w s
  | .registerWrite off width v => Sys2Proof.Machine.execRegisterWrite off width v s
  | .trainingAttemptDone u pass => Sys2Proof.Machine.execTrainingAttemptDone u pass s
  | .minSvnRaise v => Sys2Proof.Machine.execMinSvnRaise v s
  | .attestationReport nonce => Sys2Proof.Machine.execAttestationReport nonce s
  | .setPartitionMode m => Sys2Proof.Machine.execSetPartitionMode m s
  | .contextCreate asid spec => Sys2Proof.Machine.execContextCreate asid spec s
  | .rootEntryUpdate asid heap entry => Sys2Proof.Machine.execRootEntryUpdate asid heap entry s
  | .slotWrite slot first bytes => Sys2Proof.Machine.execSlotWrite slot first bytes s
  | .nodeArm slot record => Sys2Proof.Machine.execNodeArm slot record s
  | .decrement slot => Sys2Proof.Machine.execDecrement slot s
  | .priorityAgeing slot => Sys2Proof.Machine.execPriorityAgeing slot s
  | .placeWorkgroup partition => Sys2Proof.Machine.execPlaceWorkgroup partition s
  | .reclaimDone wg => Sys2Proof.Machine.execReclaimDone wg s
  | .preemptCandidate partition => Sys2Proof.Machine.execPreemptCandidate partition s
  | .vacateRequest wg => Sys2Proof.Machine.execVacateRequest wg s
  | .vacateAbandonTimer wg => Sys2Proof.Machine.execVacateAbandonTimer wg s
  | .workgroupSave wg => Sys2Proof.Machine.execWorkgroupSave wg s
  | .vacateDone wg => Sys2Proof.Machine.execVacateDone wg s
  | .workgroupRestore wg => Sys2Proof.Machine.execWorkgroupRestore wg s
  | .workgroupRetire wg => Sys2Proof.Machine.execWorkgroupRetire wg s
  | .completionReleaseDone slot => Sys2Proof.Machine.execCompletionReleaseDone slot s
  | .completionWordDone slot => Sys2Proof.Machine.execCompletionWordDone slot s
  | .icacheFill core => Sys2Proof.Machine.execIcacheFill core s
  | .fetchBufferFill core => Sys2Proof.Machine.execFetchBufferFill core s
  | .constFillReturn core victim => Sys2Proof.Machine.execConstFillReturn core victim s
  | .loadResponse core victim => Sys2Proof.Machine.execLoadResponse core victim s
  | .storeConfirm core => Sys2Proof.Machine.execStoreConfirm core s
  | .storeBufferDrain core lgrp => Sys2Proof.Machine.execStoreBufferDrain core lgrp s
  | .writeThroughArrive die slice => Sys2Proof.Machine.execWriteThroughArrive die slice s
  | .sliceRead die slice => Sys2Proof.Machine.execSliceRead die slice s
  | .sliceFillReturn die slice victim => Sys2Proof.Machine.execSliceFillReturn die slice victim s
  | .lsBankAccept core bank => Sys2Proof.Machine.execLsBankAccept core bank s
  | .peerLsAccess core => Sys2Proof.Machine.execPeerLsAccess core s
  | .translationWalk heap => Sys2Proof.Machine.execTranslationWalk heap s
  | .faultResponse core => Sys2Proof.Machine.execFaultResponse core s
  | .parkReleaseReplay parkId => Sys2Proof.Machine.execParkReleaseReplay parkId s
  | .parkReleaseFail parkId => Sys2Proof.Machine.execParkReleaseFail parkId s
  | .parkReplay sheaf => Sys2Proof.Machine.execParkReplay sheaf s
  | .responseTimeTrap sheaf => Sys2Proof.Machine.execResponseTimeTrap sheaf s
  | .debugResume sheaf skip => Sys2Proof.Machine.execDebugResume sheaf skip s
  | .debugRegisterAccess sheaf reg thread write => Sys2Proof.Machine.execDebugRegisterAccess sheaf reg thread write s
  | .debugPatchPinned core asid va word => Sys2Proof.Machine.execDebugPatchPinned core asid va word s
  | .sleepExpiry sheaf => Sys2Proof.Machine.execSleepExpiry sheaf s
  | .barrierWake sheaf => Sys2Proof.Machine.execBarrierWake sheaf s
  | .boWake sheaf => Sys2Proof.Machine.execBoWake sheaf s
  | .releaseDone sheaf => Sys2Proof.Machine.execReleaseDone sheaf s
  | .atomicLineIdleWriteThrough core line => Sys2Proof.Machine.execAtomicLineIdleWriteThrough core line s
  | .l1Atomic core victim => Sys2Proof.Machine.execL1Atomic core victim s
  | .atomicResponse core => Sys2Proof.Machine.execAtomicResponse core s
  | .hostAtomicopCompletion result => Sys2Proof.Machine.execHostAtomicopCompletion result s
  | .crossbarGrant die output => Sys2Proof.Machine.execCrossbarGrant die output s
  | .linkPortSend die toDie => Sys2Proof.Machine.execLinkPortSend die toDie s
  | .apertureRead off len => Sys2Proof.Machine.execApertureRead off len s
  | .apertureWrite off bytes => Sys2Proof.Machine.execApertureWrite off bytes s
  | .msixVectorUnmask vector => Sys2Proof.Machine.execMsixVectorUnmask vector s
  | .engineOpBegin core => Sys2Proof.Machine.execEngineOpBegin core s
  | .engineBlockWrite core => Sys2Proof.Machine.execEngineBlockWrite core s
  | .boArrival core => Sys2Proof.Machine.execBoArrival core s
  | .engineComplete core => Sys2Proof.Machine.execEngineComplete core s
  | .matrixAdmit core lgrp => Sys2Proof.Machine.execMatrixAdmit core lgrp s
  | .matrixOpBegin core lgrp => Sys2Proof.Machine.execMatrixOpBegin core lgrp s
  | .matrixOpEnd core lgrp => Sys2Proof.Machine.execMatrixOpEnd core lgrp s
  | .swrCommit core lane => Sys2Proof.Machine.execSwrCommit core lane s
  | .xlinvDone sheaf => Sys2Proof.Machine.execXlinvDone sheaf s
  | .mxCmdFree core => Sys2Proof.Machine.execMxCmdFree core s
  | .mxCmdAdopt core => Sys2Proof.Machine.execMxCmdAdopt core s
  | .migrationCopyPhaseDone page => Sys2Proof.Machine.execMigrationCopyPhaseDone page s
  | .hbmRateChange stack rate => Sys2Proof.Machine.execHbmRateChange stack rate s
  | .hbmChannelRateSwitched stack channel => Sys2Proof.Machine.execHbmChannelRateSwitched stack channel s
  | .hbmPowerDownEntry stack pc => Sys2Proof.Machine.execHbmPowerDownEntry stack pc s
  | .hbmSelfRefreshEntry stack pc => Sys2Proof.Machine.execHbmSelfRefreshEntry stack pc s
  | .hbmCrcFailure stack channel => Sys2Proof.Machine.execHbmCrcFailure stack channel s
  | .eccErrorDetected loc uncorrectable => Sys2Proof.Machine.execEccErrorDetected loc uncorrectable s
  | .registerScrub core => Sys2Proof.Machine.execRegisterScrub core s
  | .expanderLinkDrop port => Sys2Proof.Machine.execExpanderLinkDrop port s
  | .troxiaFlitReceive port flit => Sys2Proof.Machine.execTroxiaFlitReceive port flit s
  | .troxiaPortDown port => Sys2Proof.Machine.execTroxiaPortDown port s
  | .keyRollover port seq => Sys2Proof.Machine.execKeyRollover port seq s
  | .troxiaOldKeyErase port => Sys2Proof.Machine.execTroxiaOldKeyErase port s
  | .powerAverageUpdate mw => Sys2Proof.Machine.execPowerAverageUpdate mw s
  | .dieOverTemperature die temp => Sys2Proof.Machine.execDieOverTemperature die temp s
  | .engineBlockReadReturn core => Sys2Proof.Machine.execEngineBlockReadReturn core s
  | .linkPortReceive die fromDie => Sys2Proof.Machine.execLinkPortReceive die fromDie s
  | .contextTeardown asid => Sys2Proof.Machine.execContextTeardown asid s
  | .workgroupRestoreDone wg => Sys2Proof.Machine.execWorkgroupRestoreDone wg s
  | .hostReadCompletion data => Sys2Proof.Machine.execHostReadCompletion data s
  | .expanderAccessCompletion poisoned => Sys2Proof.Machine.execExpanderAccessCompletion poisoned s
  | .dieTemperatureBelowLimit die temp => Sys2Proof.Machine.execDieTemperatureBelowLimit die temp s
  | .packageReset => Sys2Proof.Machine.execPackageReset s
  | .manifestCheck => Sys2Proof.Machine.execManifestCheck s
  | .recoveryCheckAndStore => Sys2Proof.Machine.execRecoveryCheckAndStore s
  | .recoverySetChecked => Sys2Proof.Machine.execRecoverySetChecked s
  | .recoveryResetRequest => Sys2Proof.Machine.execRecoveryResetRequest s
  | .hostPortLinkUp => Sys2Proof.Machine.execHostPortLinkUp s
  | .transitionGraceExpiry => Sys2Proof.Machine.execTransitionGraceExpiry s
  | .transitionFinish => Sys2Proof.Machine.execTransitionFinish s
  | .heap14Restore => Sys2Proof.Machine.execHeap14Restore s
  | .homeWrite => Sys2Proof.Machine.execHomeWrite s
  | .writeAck => Sys2Proof.Machine.execWriteAck s
  | .sliceMarker => Sys2Proof.Machine.execSliceMarker s
  | .faultRecordTimer => Sys2Proof.Machine.execFaultRecordTimer s
  | .faultQueueRoom => Sys2Proof.Machine.execFaultQueueRoom s
  | .homeAtomic => Sys2Proof.Machine.execHomeAtomic s
  | .hostFlushReadComplete => Sys2Proof.Machine.execHostFlushReadComplete s
  | .troxiaPodMarker => Sys2Proof.Machine.execTroxiaPodMarker s
  | .hostPostedWrite => Sys2Proof.Machine.execHostPostedWrite s
  | .alTakeAtDie => Sys2Proof.Machine.execAlTakeAtDie s
  | .alTakeAtHome => Sys2Proof.Machine.execAlTakeAtHome s
  | .alGrant => Sys2Proof.Machine.execAlGrant s
  | .alRecall => Sys2Proof.Machine.execAlRecall s
  | .alReturn => Sys2Proof.Machine.execAlReturn s
  | .alGiveForward => Sys2Proof.Machine.execAlGiveForward s
  | .alPoison => Sys2Proof.Machine.execAlPoison s
  | .alAnswer => Sys2Proof.Machine.execAlAnswer s
  | .evsigRequest => Sys2Proof.Machine.execEvsigRequest s
  | .ctxsvRequest => Sys2Proof.Machine.execCtxsvRequest s
  | .ctxldRequest => Sys2Proof.Machine.execCtxldRequest s
  | .hubStatusReturn => Sys2Proof.Machine.execHubStatusReturn s
  | .trackingPeriodEnd => Sys2Proof.Machine.execTrackingPeriodEnd s
  | .expanderAccessTimeout => Sys2Proof.Machine.execExpanderAccessTimeout s
  | .homeRead => Sys2Proof.Machine.execHomeRead s
  | .remoteStoreAck => Sys2Proof.Machine.execRemoteStoreAck s
  | .alreadAlcloseAtHome => Sys2Proof.Machine.execAlreadAlcloseAtHome s

end Sys2Proof.Machine
end

