-- ==== Sys2Proof/Machine/Candidates.lean ====
section
/-! DEFINITION. What a machine left to itself does next: breakpoints before a chain (R384, R385), the machine steps that the state
enables, in the order in which they are tried, and the sheaves that may issue (log 1). -/

namespace Sys2Proof.Machine

/-! Breakpoints and STEP (R384, R385). -/

/-- The line after a sheaf's own, where its core's instruction cache or memory holds it. -/
def State.lineAfter (s : State) (core : Nat) (asid : BitVec 16) (pc : DWord) : List FetchLine :=
  let va := lineAt (pc + 128)
  match s.icFind core asid va with
  | some l => [{ va := va, lo := l.lo, hi := l.hi }]
  | none => match s.dpaOf asid va with
    | some dpa => [{ va := va, lo := s.memBlk dpa, hi := s.memBlk (dpa + 64) }]
    | none => []

/-- The BRK or STEP that a sheaf raises before the head at its pc issues; STEP not before its first chain, nor inside a handler, nor before an
instruction executed again (R373, R385; log 28). -/
def State.debugTrap (s : State) (k : Nat) (sh : Sheaf) : Option TrapReq :=
  if !s.debugged k sh then none
  else
    let c := s.core (slotCore k)
    let chain := chainAddrs (sh.fbuf ++ s.lineAfter (slotCore k) c.dbgAsid sh.pc) 8 sh.pc
    let m := s.execAt sh
    let req (cause info : Nat) : TrapReq :=
      { cause := cause, info := BitVec.ofNat 32 info, mask := m, rmask := m, pc := sh.pc,
        npc := sh.pc + BitVec.ofNat 64 sh.instrAt.size, resp := false, entry := none }
    match bpMatch c.bp sh.bpSkip (if sh.force.isSome then some sh.pc else none) chain with
    | some i => some (req causeBrk (4 + i))
    | none => if c.dbgStep && !sh.fresh && sh.handler.isNone && sh.force.isNone then some (req causeStep 0) else none

/-- The chosen sheaf at its pc: a debug trap, a trap that it owes there, an undecodable word, or the instruction there. -/
def issue (s : State) (k : Nat) (sh : Sheaf) : Out :=
  match s.debugTrap k sh with
  | some r => .next (s.takeTrap k r)
  | none =>
    if sh.owes && sh.issues then .next (s.payOwed k sh) else
    match decodeBytes (fetchBytes sh.fbuf sh.pc) with
    | .error (.fields op) => .next (s.badWord k op)
    | .error _ => .next s
    | .ok (i, _) => exec i s

/-! The operands of the machine steps. -/

/-- Each value once. -/
def distinct (xs : List Nat) : List Nat := xs.foldl (fun acc x => if acc.contains x then acc else acc ++ [x]) []

/-- The cores at which something may happen. -/
def State.busyCores (s : State) : List Nat :=
  distinct (s.cores.map (fun c => c.1) ++ s.sheaves.map (fun e => slotCore e.1)
    ++ s.net.filterMap (fun f => match f.p.dst with | .core c => if f.place == .inbox then some c else none | _ => none))

/-- The slices at which something has arrived: die·16 + slice. -/
def State.busySlices (s : State) : List Nat :=
  distinct (s.net.filterMap (fun f => match f.p.dst with | .slice d i => if f.place == .inbox then some (16 * d + i) else none | _ => none))

/-- What the first location of the first atomic at host memory holds: the host's answer to it (R337). -/
def State.hostAtomValue (s : State) : Option DWord :=
  s.net.findSome? (fun f => match f.place, f.p.dst, f.p.msg with
    | .inbox, .home 13, .homeAtom a =>
      (match (homeAsk f.p.msg).map (fun x => s.ask x), a.items with
      | some (.ok dpa _), x :: _ =>
        let n := match a.op with | .instr i => atomBytes i | .scad _ => 4
        some (BitVec.ofNat 64 (leNat (s.memRead (dpa / 64 * 64 + x.addr.toNat % 64) n)))
      | _, _ => none)
    | _, _, _ => none)

/-! The machine steps, by the unit that takes them. -/

def bootSteps : List Instr :=
  [.manifestCheck, .recoveryCheckAndStore, .recoverySetChecked, .recoveryResetRequest, .transitionGraceExpiry, .transitionFinish]

/-- The network (R343, R421). -/
def State.netSteps (s : State) : List Instr :=
  s.net.flatMap (fun f => match f.place with
    | .input die _ => (s.outputs die f.p).map (fun o => .crossbarGrant die o)
    | .tx die to_ => [.linkPortSend die to_]
    | .wire die src => [.linkPortReceive die src]
    | .inbox => [])

/-- The sheaf in a slot (R186, R246, R317, R345, R348, R371, R390). -/
def sheafSteps (k : Nat) : List Instr :=
  [.parkReplay k, .responseTimeTrap k, .sleepExpiry k, .barrierWake k, .boWake k, .releaseDone k, .xlinvDone k]

/-- A core's units. -/
def State.coreSteps (s : State) (c : Nat) : List Instr :=
  let x := s.core c
  [.icacheFill c, .fetchBufferFill c, .constFillReturn c none, .loadResponse c none, .storeConfirm c, .faultResponse c, .peerLsAccess c,
   .l1Atomic c none, .atomicResponse c, .engineBlockReadReturn c, .engineBlockWrite c, .boArrival c, .engineComplete c, .engineOpBegin c]
    ++ (distinct (x.bankQ.map (fun q => bankOf q.base))).map (fun b => .lsBankAccept c b)
    ++ x.rows.map (fun r => .swrCommit c r.lane)
    ++ (List.range 4).flatMap (fun g => [.matrixOpEnd c g, .matrixOpBegin c g, .matrixAdmit c g, .storeBufferDrain c g])
    ++ ((List.range x.l1.length).filter (fun n => (x.l1[n]?).any (fun l => l.atomic))).map (fun n => .atomicLineIdleWriteThrough c n)

/-- A die-cache slice. -/
def State.sliceSteps (_s : State) (n : Nat) : List Instr :=
  let d := n / 16
  let i := n % 16
  [.writeThroughArrive d i, .sliceFillReturn d i none, .sliceRead d i]

/-- Homes, slices' answers, the host and the expanders. -/
def State.homeSteps (s : State) : List Instr :=
  [.remoteStoreAck, .writeAck, .sliceMarker, .homeRead, .homeWrite, .homeAtomic, .hostReadCompletion none]
    ++ (match s.hostAtomValue with | some v => [.hostAtomicopCompletion (some v)] | none => [])
    ++ [.hostFlushReadComplete, .hostPostedWrite, .expanderAccessCompletion false, .expanderAccessTimeout, .troxiaPodMarker,
        .alTakeAtDie, .alTakeAtHome, .alGrant, .alRecall, .alReturn, .alGiveForward, .alPoison, .alAnswer, .alreadAlcloseAtHome]
    ++ (List.range 16).map (fun h => .translationWalk h)
    ++ [.faultRecordTimer, .faultQueueRoom]

/-- Requests of LAUNCH and NDEC that have reached the hub. -/
def State.slotSteps (s : State) : List Instr :=
  s.net.filterMap (fun f => match f.place, f.p.dst, f.p.msg with
    | .inbox, .hub, .hub _ (.launch n r) => some (.slotWrite n 0 (blkBytes r))
    | .inbox, .hub, .hub _ (.ndec n) => some (.decrement n)
    | _, _, _ => none)

/-- The hub: nodes, workgroups, requests. -/
def State.hubSteps (s : State) : List Instr :=
  s.slotSteps ++ [.evsigRequest, .ctxsvRequest, .ctxldRequest, .hubStatusReturn]
    ++ s.nodes.flatMap (fun n => [.completionReleaseDone n.1, .completionWordDone n.1, .priorityAgeing n.1])
    ++ s.wgs.flatMap (fun g => [.reclaimDone g.1, .vacateRequest g.1, .vacateAbandonTimer g.1, .workgroupSave g.1, .vacateDone g.1,
        .workgroupRestoreDone g.1, .workgroupRetire g.1, .workgroupRestore g.1])
    ++ (List.range 4).map (fun q => .placeWorkgroup q)
    ++ (List.range 4).map (fun q => .preemptCandidate q)

/-- Migration, stacks and ports. -/
def State.unitSteps (s : State) : List Instr :=
  s.trk.moves.map (fun m => .migrationCopyPhaseDone m.page) ++ [.trackingPeriodEnd]
    ++ s.hbm.flatMap (fun x => x.2.switching.map (fun c => .hbmChannelRateSwitched x.1 c)
      ++ (if x.2.pdIdle == 0 && x.2.srIdle == 0 then []
          else (List.range 64).flatMap (fun pc => [.hbmSelfRefreshEntry x.1 pc, .hbmPowerDownEntry x.1 pc])))
    ++ s.ports.map (fun p => .troxiaOldKeyErase p.1)

/-- Every machine step that a machine takes on its own account, in the order in which they are tried; what the host, system
software or the environment does is on the agenda only (log 1). -/
def State.candidates (s : State) : List Instr :=
  bootSteps ++ s.sheaves.flatMap (fun e => sheafSteps e.1) ++ s.busyCores.flatMap (fun c => s.coreSteps c)
    ++ s.busySlices.flatMap (fun n => s.sliceSteps n) ++ s.homeSteps ++ s.netSteps ++ s.hubSteps ++ s.unitSteps

/-! The choice. -/

/-- The outcome with no sheaf chosen. -/
def unchoose (o : Out) : Out :=
  match o with
  | .next s => .next { s with cur := none }
  | o => o

/-- Whether an outcome leaves the state as it was. -/
def stays (o : Out) (s : State) : Bool :=
  match o with
  | .next t => decide (t = s)
  | .fault _ => false
  | .refused _ => false

/-- The first machine step that changes the state. -/
def State.firstStep (s : State) : List Instr → Option Out
  | [] => none
  | i :: rest => if stays (exec i s) s then s.firstStep rest else some (exec i s)

/-- The first sheaf whose instruction goes on. -/
def State.firstIssue (s : State) : List Nat → Option Out
  | [] => none
  | k :: rest =>
    match s.sheaf k with
    | none => s.firstIssue rest
    | some sh =>
      let o := unchoose (issue { s with cur := some k } k sh)
      if stays o s then s.firstIssue rest else some o

/-- Whether a sheaf could start its next instruction (R157): it may be chosen, and the instruction goes on; one that the scoreboard, a full
window, a full engine queue, a counter or an order holds stays where it is. -/
def State.isReady (s : State) (k : Nat) (sh : Sheaf) : Bool :=
  let s := s.setSheaf k sh.atHead
  s.choosable sh && !stays (unchoose (issue { s with cur := some k } k sh.atHead)) s

/-- A sheaf that is not ready has not been ready before now (R158). -/
def State.noteReady (s : State) : State :=
  { s with sheaves := s.sheaves.map (fun e =>
      if s.clk ≤ e.2.readyAt || s.isReady e.1 e.2 then e else (e.1, { e.2 with readyAt := s.clk })) }

/-- The step of a machine with an empty agenda and no sheaf chosen: what sheaves ask for, then a machine step, then a sheaf's
instruction (R158), then a cycle in which nothing happens. -/
def State.ownStep (s : State) : Out :=
  let s := s.noteReady
  let t := s.frameDone.requests
  if stays (.next t) s == false then .next t
  else
    match s.firstStep s.candidates with
    | some o => o
    | none =>
      match s.firstIssue s.offers with
      | some o => o
      | none => .next (s.tick 1)

end Sys2Proof.Machine
end

