-- ==== Sys2Proof/Machine/Step.lean ====
section
/-! DEFINITION. One step of the machine, and the machine with a given instruction as the next one it fetches. -/

namespace Sys2Proof.Machine

/-- One step (log 1): the next step of the agenda; else the instruction at the chosen sheaf's pc; else what the machine does of its
own accord. -/
def step (s : State) : Host.Outcome State Fault Refusal :=
  match s.agenda with
  | i :: rest => exec i { s with agenda := rest }
  | [] =>
    match s.cur with
    | none => s.ownStep
    | some k =>
      match s.sheaf k with
      | some sh => unchoose (issue s k sh)
      | none => .next { s with cur := none }

/-- The machine with an instruction's words where the next step fetches them: the agenda is empty, the chosen sheaf (a probe
sheaf where none is chosen) has them in its fetch buffer. -/
def State.withFetchWord (s : State) (nbits w : Nat) : State :=
  let v := w % 2 ^ nbits
  match s.cur.bind (fun k => (s.sheaf k).map (fun sh => (k, sh))) with
  | some (k, sh) => { s with agenda := [], cur := some k }.setSheaf k { sh with fbuf := probeLines sh.pc v }
  | none =>
    let sh := Sheaf.placed probeWg 0 0 0 .system s.clk
    { s with agenda := [], cur := some probeSlot, wgs := mapInsert s.wgs probeWg probeWorkgroup }.setSheaf probeSlot
      { sh with fbuf := probeLines sh.pc v }

end Sys2Proof.Machine
end

