-- ==== Sys2Proof/Safety.lean ====
section
/-! DEFINITION. What counts as a safe run: no stop, and plain data that keeps its canonical form. -/

namespace Sys2Proof.Machine

/-- The canonical form of memory: addresses strictly rising, no byte listed that an unlisted address reads as (R65). -/
def Memory.wf (m : Map Byte) : Bool := mapWf 0 m

/-- The canonical form of the stores of the machine: device and host memory, local store, slots, tiles, node slots. -/
def State.storesWf (s : State) : Bool :=
  Memory.wf s.mem && Memory.wf s.ls && Memory.wf s.slotMem && Memory.wf s.tileMem && Memory.wf s.slotBytes

/-- An outcome that goes on. -/
def goesOn (o : Out) : Bool :=
  match o with
  | .next _ => true
  | .fault _ => false
  | .refused _ => false

/-- A run of at most `n` steps that never stops. -/
def safeFor : Nat → State → Bool
  | 0, _ => true
  | n + 1, s => match step s with
    | .next t => safeFor n t
    | .fault _ => false
    | .refused _ => false

/-! The terms in which an instruction's effect is claimed. -/

/-- The fields of a general-form word of which only the opcode is not 0 (R126). -/
def plainOps : Ops :=
  { ext := .none, pn := false, p := 0, c := .reg 0, b := .reg 0, a := .reg 0, mod := 0, hd := false, ls := false, nw := false, d := 0 }

/-- Whether the extension word could be read. -/
def ExtValue.ok : ExtValue → Bool
  | .fail _ => false
  | _ => true

/-- Sheaf k is chosen, may issue, and the general-form instruction i with the fields o passes every check before its effect:
the scoreboard (R156), the steps of R142, register poison (R380) and its constant window (R47). -/
structure Starts (s : State) (i : Instr) (o : Ops) (f : Form) (k : Nat) (sh : Sheaf) (w : Workgroup) : Prop where
  form : i.form = some (o, f)
  cur : s.cur = some k
  sheaf : s.sheaf k = some sh
  wg : mapFind s.wgs sh.wg = some w
  issues : sh.issues = true
  board : scoreboardFree sh o f = true
  decode : decodeFails sh.level (i.opcode.getD 0) i.wfGeneral = none
  operands : operandsOk w.nReg o f = true
  latches : latchesOk sh.atHead o = true
  clean : poisonedThreads sh.atHead (execMask sh.atHead o.pn o.p) o f = 0
  window : execMask sh.atHead o.pn o.p = 0 ∨ ((s.setSheaf k sh.atHead).extValue k w o f).ok = true

/-- What the instruction starts from: the sheaf with its latches invalid at the head of a chain (R161) and its request for the next line
(R120), the executing mask and the value of the extension word. -/
def startCtx (s : State) (o : Ops) (f : Form) (k : Nat) (sh : Sheaf) (w : Workgroup) : Ctx :=
  let t := s.setSheaf k sh.atHead
  let e := execMask sh.atHead o.pn o.p
  { s := t, k := k, sh := sh.issued, w := w, e := e, ext := if e == 0 then .none else t.extValue k w o f }

/-- The same for the branch form. -/
structure StartsBranch (s : State) (i : Instr) (o : BrOps) (k : Nat) (sh : Sheaf) (w : Workgroup) : Prop where
  cur : s.cur = some k
  sheaf : s.sheaf k = some sh
  wg : mapFind s.wgs sh.wg = some w
  issues : sh.issues = true
  board : o.p = 0 ∨ sh.pend.getLsbD o.p.toNat = false
  fields : i.wfBranch = true
  operands : o.p = 0 ∨ o.p.toNat < w.nReg
  clean : o.p = 0 ∨ sh.force.isSome = true ∨ ∀ t, t < 32 → sh.m.getLsbD t = true → sh.rpoison.contains (o.p.toNat * 32 + t) = false

/-- What a branch-form instruction starts from. -/
def branchCtx (s : State) (o : BrOps) (k : Nat) (sh : Sheaf) (w : Workgroup) : Ctx :=
  { s := s.setSheaf k sh.atHead, k := k, sh := sh.issued, w := w, e := execMask sh.atHead o.pn o.p, ext := .none }

/-- What a lane instruction leaves in its sheaf: the value v of every executing thread in D unless NW, and in the latch that LS
names (R127); the pc behind the instruction; nothing else changed but the scalarisation classes. -/
structure LaneEffect (sh sh' : Sheaf) (i : Instr) (o : Ops) (w : Width) (e : TMask) (v : Nat → DWord) : Prop where
  /-- D of an executing thread, word j of its value in register D + j -/
  dest : ∀ t j, t < 32 → j < w.span → e.getLsbD t = true → o.nw = false →
    sh'.reg (o.d.toNat + j) t = ((v t).setWidth 128).extractLsb' (32 * j) 32
  /-- every other register of every thread -/
  keep : ∀ t r, t < 32 → (e.getLsbD t = false ∨ o.nw = true ∨ r < o.d.toNat ∨ o.d.toNat + w.span ≤ r) → sh'.reg r t = sh.reg r t
  /-- the latch that LS names -/
  latch : ∀ t, t < 32 → e.getLsbD t = true → sh'.latch o.ls t = (if w = .w32 then (v t).extractLsb' 0 32 |>.setWidth 64 else v t)
  /-- the latches of the other threads, and the other latch -/
  latchKeep : ∀ t, t < 32 → e.getLsbD t = false → sh'.latch o.ls t = sh.latch o.ls t
  latchOther : ∀ t, sh'.latch (!o.ls) t = sh.latch (!o.ls) t
  /-- the pc and every other part of the sheaf -/
  frame : sh' = { sh with pc := sh.pc + BitVec.ofNat 64 i.size, regs := sh'.regs, rpoison := sh'.rpoison, cls := sh'.cls,
                          latch0 := sh'.latch0, latch1 := sh'.latch1, valid0 := sh'.valid0, valid1 := sh'.valid1, conv := sh'.conv }
  /-- the latch written becomes valid, the other keeps its validity -/
  valid : e ≠ 0 → (if o.ls then sh'.valid1 else sh'.valid0) = true
  validOther : (if o.ls then sh'.valid0 else sh'.valid1) = (if o.ls then sh.valid0 else sh.valid1)
  /-- the conversion counter counts SR conversions only (R209) -/
  conv : sh'.conv = if selectsSR i && e != 0 then sh.conv + 1 else sh.conv

/-- A lane instruction completes with the value `val` gives from what each executing thread supplies (R177), in 1 to 64 cycles;
`finish` then ends it (R158 to R162, R171). -/
def LaneResult (mk : Ops → Instr) (val : Ops → LaneIn → DWord) : Prop :=
  ∀ (o : Ops) (f : Form) (s : State) (k : Nat) (sh : Sheaf) (w : Workgroup), Starts s (mk o) o f k sh w →
    ∃ sh' n, exec (mk o) s = .next ((s.setSheaf k sh').finish k o.hd n) ∧ 1 ≤ n ∧ n ≤ 64 ∧
      LaneEffect sh.issued sh' (mk o) o f.dst.width (startCtx s o f k sh w).e
        (fun t => val o ((startCtx s o f k sh w).laneIn o f t))

/-- A cross-thread instruction completes with what `val` gives from E and from what every thread supplies (R214). -/
def CrossResult (mk : Ops → Instr) (val : Ops → TMask → (Nat → LaneIn) → Nat → DWord) : Prop :=
  ∀ (o : Ops) (f : Form) (s : State) (k : Nat) (sh : Sheaf) (w : Workgroup), Starts s (mk o) o f k sh w →
    ∃ sh' n, exec (mk o) s = .next ((s.setSheaf k sh').finish k o.hd n) ∧ 1 ≤ n ∧ n ≤ 64 ∧
      LaneEffect sh.issued sh' (mk o) o f.dst.width (startCtx s o f k sh w).e
        (fun t => val o (startCtx s o f k sh w).e ((startCtx s o f k sh w).laneIn o f) t)

/-- An element of a packed integer source, unsigned or signed, as a word (R192). -/
def elem32 {n : Nat} (uns : Bool) (x : BitVec n) : Word := if uns then x.setWidth 32 else x.signExtend 32

/-- The six relations of MOD[2:0] on integers (R136). -/
def relation (code : Nat) (a b : Int) : Bool :=
  match code with
  | 0 => a = b
  | 1 => a ≠ b
  | 2 => a < b
  | 3 => a ≤ b
  | 4 => b < a
  | _ => b ≤ a

/-- What BRX and CALLX do (R172, R182): the targets of the executing threads, the checks in their order, the peel. -/
def PeelClaim (i : Instr) (o : Ops) (f : Form) (s : State) (k : Nat) (sh : Sheaf) (w : Workgroup) (call : Bool) : Prop :=
  let c := startCtx s o f k sh w
  let target (t : Nat) : DWord := srcValue c.sh c.ext f.a o.a t
  let join := sh.pc + (srcValue c.sh c.ext f.b o.b 0 <<< 3)
  let next := sh.pc + BitVec.ofNat 64 i.size
  let first := target ((threadsOf c.e).headD 0)
  let g := maskOf (fun t => c.e.getLsbD t && target t == first)
  let rest := sh.m &&& ~~~g
  let entries : List StackEntry := (if rest = 0 then [] else [{ rpc := join, pmask := rest, ppc := sh.pc }])
    ++ (if call then [{ rpc := next ||| 1, pmask := g, ppc := next ||| 1 }] else [])
  let room : Prop := sh.stack.length + sh.spilled.length + entries.length ≤ (if 512 * w.nSheaf ≤ w.units * 65536 then 64 else 32)
  let space0 : Prop := ∀ t, t < 32 → c.e.getLsbD t = true → (target t).toNat / 2 ^ 60 = 0
  let aligned : Prop := ∀ t, t < 32 → c.e.getLsbD t = true → (target t).toNat % 8 = 0
  let near : Prop := ∀ t, t < 32 → c.e.getLsbD t = true → (target t - join).toInt.natAbs / 8 ≤ 2 ^ 31 - 1
  (c.e = 0 → exec i s = .next ((s.setSheaf k { sh.issued with pc := next }).finish k o.hd 1)) ∧
  (c.e ≠ 0 → space0 → aligned → near → room →
    ∃ n, exec i s = .next (((entries.foldl (fun u x => u.push k w x) (s.setSheaf k sh.issued)).onSheaf k
      (fun x => { x with m := g, pc := first })).finish k o.hd n)) ∧
  (c.e ≠ 0 → space0 → aligned → near → ¬room →
    exec i s = .next ((s.setSheaf k sh.atHead).issueTrap k i 0x0D 0 c.e c.e)) ∧
  (c.e ≠ 0 → ¬space0 →
    exec i s = .next ((s.setSheaf k sh.atHead).issueTrap k i 0x06 0
      (maskOf (fun t => c.e.getLsbD t && decide ((target t).toNat / 2 ^ 60 ≠ 0))) c.e)) ∧
  (c.e ≠ 0 → space0 → ¬aligned →
    exec i s = .next ((s.setSheaf k sh.atHead).issueTrap k i 0x05 0
      (maskOf (fun t => c.e.getLsbD t && decide ((target t).toNat % 8 ≠ 0))) c.e)) ∧
  (c.e ≠ 0 → space0 → aligned → ¬near →
    exec i s = .next ((s.setSheaf k sh.atHead).issueTrap k i 0x02 0
      (maskOf (fun t => c.e.getLsbD t && decide (2 ^ 31 - 1 < (target t - join).toInt.natAbs / 8))) c.e))

/-! The start of a window entry (R227, R228, R255, R156). -/

/-- The threads of a map as a mask. -/
def threadMask (thr : Map ThreadReq) : TMask := thr.foldl (fun m r => m ||| threadBit r.1) 0

/-- From s to u, sheaf k has put the requests thr of instruction i into the window: a new entry with every request held, the pc
behind the instruction, the destination registers pending, REMOTE counted for a write that leaves the core, the release of an
ORDER that asks for one begun; registers, memory, local store and every other sheaf as before. The blocks are asked for in the order in
which the threads first touch them, or in ascending order for a U or A address (R228). -/
structure EntryMade (s u : State) (i : Instr) (o : Ops) (f : Form) (k : Nat) (sh : Sheaf) (thr : Map ThreadReq) : Prop where
  entry : ∃ e, u.win = mapInsert s.win s.winNext e ∧ e.sheaf = k ∧ e.instr = i ∧ e.pc = sh.pc ∧
    e.npc = sh.pc + BitVec.ofNat 64 i.size ∧ e.asid = sh.ctxAsid ∧ e.level = sh.level ∧ e.thr = thr ∧
    (e.blks = blkReqs thr ∨ (threadMask thr = 0xFFFFFFFF ∧ e.blks = sortBlks (blkReqs thr))) ∧ e.mask = threadMask thr ∧ e.left = threadMask thr ∧ e.kept = false ∧ e.fails = [] ∧
    e.order = (if i.releases then some s.winNext else none)
  sheaf : ∃ x, u.sheaves = mapInsert s.sheaves k x ∧ x.pc = sh.pc + BitVec.ofNat 64 i.size ∧ x.regs = sh.regs ∧ x.m = sh.m ∧
    x.live = sh.live ∧ x.stack = sh.stack ∧ x.level = sh.level ∧ x.trap = sh.trap ∧
    (∀ r, r < 256 → x.pend.getLsbD r = (sh.pend.getLsbD r || (dstRegs o f.dst).contains r)) ∧
    x.cCopy = sh.cCopy ∧ x.cMatrix = sh.cMatrix ∧ x.cCode = sh.cCode ∧
    x.cRemote = (if countsRemote i thr then sh.cRemote + 1 else sh.cRemote)
  release : u.rels = (if i.releases then mapInsert s.rels s.winNext
    { sheaf := some k, core := slotCore k, lgrps := [slotLgrp k], scope := i.scopeOf, stage := 0, own := some s.winNext,
      before := s.winNext, mark := s.winNext, left := 0, then_ := .entry s.winNext } else s.rels)
  rest : u = { s with win := u.win, winNext := s.winNext + 1, sheaves := u.sheaves, rels := u.rels, cores := u.cores }

/-- An instruction that reaches memory through a pointer or record (R254, R255): with no executing thread only the pc moves;
without a free entry, where an acquire or release holds it (R227, R317, R318), or where it would take REMOTE to 64 (R280), it does not
start; a failed check of R254 traps before any effect; otherwise its entry starts and its requests leave as far as nothing stands
before them. -/
def EntryClaim (i : Instr) (o : Ops) (f : Form) (s : State) (k : Nat) (sh : Sheaf) (w : Workgroup) (align : Nat) (more : TMask → Option Nat)
    (req : Nat → ThreadReq) : Prop :=
  let c := startCtx s o f k sh w
  let thr : Map ThreadReq := (threadsOf c.e).map (fun t => (t, req t))
  let reaches (t : Nat) : Prop := match s.locate w (req t).addr with
    | none => False
    | some (.engine _ _ _ _ _) => False
    | some _ => True
  (c.e = 0 → exec i s = .next ((s.setSheaf k { sh.issued with pc := sh.pc + BitVec.ofNat 64 i.size }).finish k o.hd 1)) ∧
  (c.e ≠ 0 → (s.windowFree k i = false ∨ s.holdsLocation k i thr = true ∨ (countsRemote i thr = true ∧ 63 ≤ sh.cRemote)) →
    exec i s = .next (s.setSheaf k sh.atHead)) ∧
  (c.e ≠ 0 → s.windowFree k i = true → s.holdsLocation k i thr = false → (countsRemote i thr = false ∨ sh.cRemote < 63) →
    ((∃ t, t < 32 ∧ c.e.getLsbD t = true ∧ ¬reaches t) → ∃ bad, bad ≠ 0 ∧
      (∀ t, t < 32 → (bad.getLsbD t = true ↔ c.e.getLsbD t = true ∧ ¬reaches t)) ∧
      exec i s = .next ((s.setSheaf k sh.atHead).issueTrap k i 0x06 0 bad c.e)) ∧
    ((∀ t, t < 32 → c.e.getLsbD t = true → reaches t) →
      (∃ t, t < 32 ∧ c.e.getLsbD t = true ∧ (req t).addr.toNat % align ≠ 0) → ∃ bad, bad ≠ 0 ∧
        (∀ t, t < 32 → (bad.getLsbD t = true ↔ c.e.getLsbD t = true ∧ (req t).addr.toNat % align ≠ 0)) ∧
        exec i s = .next ((s.setSheaf k sh.atHead).issueTrap k i 0x05 0 bad c.e)) ∧
    ((∀ t, t < 32 → c.e.getLsbD t = true → reaches t ∧ (req t).addr.toNat % align = 0) → more c.e = none →
      ∃ u n, EntryMade s u i o f k sh thr ∧ exec i s = .next ((u.pump k).finish k o.hd n)))

/-- The effective address of a pointer form (R220). -/
def pointerEa (c : Ctx) (o : Ops) (t : Nat) : DWord := srcValue c.sh c.ext .ptr o.a t + o.attr.offset.signExtend 64

/-- Without effect but for the pc, which moves past the instruction, in one cycle (R131). -/
def PassesOver (i : Instr) (o : Ops) (s : State) (k : Nat) (sh : Sheaf) : Prop :=
  exec i s = .next ((s.setSheaf k { sh.issued with pc := sh.pc + BitVec.ofNat 64 i.size }).finish k o.hd 1)

/-- A trap at issue by the threads of a mask, before any effect (R370, R371). -/
def TrapsWith (i : Instr) (s : State) (k : Nat) (sh : Sheaf) (cause : Nat) (info : Word) (mask e : TMask) : Prop :=
  exec i s = .next ((s.setSheaf k sh.atHead).issueTrap k i cause info mask e)

/-- The instruction cannot start yet: the sheaf stays at it. -/
def StaysAt (i : Instr) (s : State) (k : Nat) (sh : Sheaf) : Prop := exec i s = .next (s.setSheaf k sh.atHead)

/-- LDB and STB (R263, R265). What stops them comes in this order: no executing thread, only the pc moves; no free entry, or a record's block
still busy, they do not start; a record pointer, alignment, poison or content that fails; coordinates out of bounds under BOUNDS 0; an
address in no space that an entry reaches, or misaligned. Under BOUNDS 1, and under BOUNDS 2 in an empty array, a thread accesses nothing and LDB gives it 0;
BOUNDS 2 clamps otherwise. Accesses that BOUNDS drops still release and acquire (R317): their entry has no block. -/
def RecordClaim (i : Instr) (o : Ops) (f : Form) (s : State) (k : Nat) (sh : Sheaf) (w : Workgroup) (data : Nat → BitVec 128) : Prop :=
  let c := startCtx s o f k sh w
  let on (p : Nat → Prop) : Prop := ∃ t, t < 32 ∧ c.e.getLsbD t = true ∧ p t
  let bads (m : TMask) (p : Nat → Prop) : Prop := m ≠ 0 ∧ ∀ t, t < 32 → (m.getLsbD t = true ↔ c.e.getLsbD t = true ∧ p t)
  (c.e = 0 → PassesOver i o s k sh) ∧
  (c.e ≠ 0 → (s.windowFree k i = false ∨ on (fun t => c.recordBusy o t = true)) → StaysAt i s k sh) ∧
  (c.e ≠ 0 → s.windowFree k i = true → s.releasePending k = false → sh.cRemote < 63 → (∀ t, t < 32 → c.e.getLsbD t = true → c.recordBusy o t = false) →
    let away (t : Nat) : Prop := c.record o t = .error 0x06
    let askew (t : Nat) : Prop := c.record o t = .error 0x05
    let spoilt (t : Nat) : Prop := c.recordPoisoned o t = true
    let wrong (t : Nat) : Prop := ∃ r, c.record o t = .ok r ∧ (r.bad = true ∨ r.fmt = 6 ∨ eaSpace r.base = 3)
    (on away → ∃ m, bads m away ∧ TrapsWith i s k sh 0x06 0 m c.e) ∧
    (¬on away → on askew → ∃ m, bads m askew ∧ TrapsWith i s k sh 0x05 0 m c.e) ∧
    (¬on away → ¬on askew → on spoilt → ∃ m, bads m spoilt ∧
      exec i s = .next ((s.setSheaf k sh.atHead).issueTrapAt k i 0x0C 2 m c.e (c.recordPtr o ((threadsOf m).headD 0)))) ∧
    (¬on away → ¬on askew → ¬on spoilt → on wrong → ∃ m, bads m wrong ∧ TrapsWith i s k sh 0x02 0 m c.e)) ∧
  ∀ (r : Nat → BufRec), c.e ≠ 0 → s.windowFree k i = true →
    (∀ t, t < 32 → c.e.getLsbD t = true → c.record o t = .ok (r t) ∧ c.recordBusy o t = false ∧ c.recordPoisoned o t = false ∧
      (r t).bad = false ∧ (r t).fmt ≠ 6 ∧ eaSpace (r t).base ≠ 3) →
    let x (t : Nat) : Nat := (srcValue c.sh c.ext f.b o.b t).toNat % 2 ^ 32
    let j (t : Nat) : Nat := (srcValue c.sh c.ext f.b o.b t).toNat / 2 ^ 32
    let inside (t : Nat) : Prop := x t < (r t).ext0 ∧ j t < (r t).ext1 * (r t).ext2
    let full (t : Nat) : Prop := (r t).ext0 ≠ 0 ∧ (r t).ext1 * (r t).ext2 ≠ 0
    let traps (t : Nat) : Prop := ¬inside t ∧ (r t).bounds = 0
    let drops (t : Nat) : Prop := ¬inside t ∧ ((r t).bounds = 1 ∨ ((r t).bounds = 2 ∧ ¬full t))
    let ea (t : Nat) : DWord :=
      let x' := min (x t) ((r t).ext0 - 1)
      let j' := min (j t) ((r t).ext1 * (r t).ext2 - 1)
      (r t).base + BitVec.ofNat 64 (x' * (r t).bits / 8 + j' % (r t).ext1 * (r t).stride1 + j' / (r t).ext1 * (r t).stride2)
    let reaches (t : Nat) : Prop := ∃ l, s.locate w (ea t) = some l ∧ ∀ a b d e g, l ≠ .engine a b d e g
    let single : Bool := (srcClass c.sh c.ext f.b o.b).isUni && (match o.a with | .reg _ => addressUni c.sh o.a | _ => true)
    ∀ thr : Map ThreadReq, (∀ t y, (t, y) ∈ thr ↔ t < 32 ∧ c.e.getLsbD t = true ∧ ¬drops t ∧ ¬traps t ∧
        y = { addr := ea t, data := data t, data2 := BitVec.ofNat 64 (r t).policy }) → mapSorted thr = true →
      (countsRemote i thr = false ∨ sh.cRemote < 63) → s.holdsLocation k i thr = false →
      (¬on traps → (∀ t, t < 32 → c.e.getLsbD t = true → drops t ∨ (reaches t ∧ (ea t).toNat % i.memBytes = 0)) →
        (c.e ≠ 0xFFFFFFFF ∨ thr = [] ∨ thr.length = 32 ∨ single = false) →
        ∃ (y : Sheaf) (u : State) (n : Nat), y = { sh with regs := y.regs, rpoison := y.rpoison } ∧ EntryMade s u i o f k y thr ∧
          exec i s = .next ((if thr = [] then (u.pump k).closeEntry s.winNext else u.pump k).finish k o.hd n) ∧
          (f.dst ≠ .none → o.nw = false → ∀ t m, t < 32 → c.e.getLsbD t = true → drops t → m < f.dst.width.span → y.reg (o.d.toNat + m) t = 0) ∧
          (∀ t q, t < 32 → (c.e.getLsbD t = false ∨ ¬drops t ∨ f.dst = .none ∨ o.nw = true ∨ q < o.d.toNat ∨ o.d.toNat + f.dst.width.span ≤ q) →
            y.reg q t = sh.reg q t)) ∧
      (on traps → ∃ m, bads m traps ∧ TrapsWith i s k sh 0x07 0 m c.e) ∧
      (¬on traps → on (fun t => ¬drops t ∧ ¬reaches t) → ∃ m, bads m (fun t => ¬drops t ∧ ¬reaches t) ∧ TrapsWith i s k sh 0x06 0 m c.e) ∧
      (¬on traps → ¬on (fun t => ¬drops t ∧ ¬reaches t) → on (fun t => ¬drops t ∧ (ea t).toNat % i.memBytes ≠ 0) →
        ∃ m, bads m (fun t => ¬drops t ∧ (ea t).toNat % i.memBytes ≠ 0) ∧ TrapsWith i s k sh 0x05 0 m c.e)

/-- An atomic of group 0x8 (R334, R338, R340). -/
def AtomicClaim (i : Instr) (o : Ops) (f : Form) (s : State) (k : Nat) (sh : Sheaf) (w : Workgroup) (align : Nat) : Prop :=
  let c := startCtx s o f k sh w
  let off (t : Nat) : Bool := atomicUnsupported i (s.locate w (pointerEa c o t))
  EntryClaim i o f s k sh w align (fun e => if (threadsOf e).any off then some 0x0F else none)
    (fun t => { addr := pointerEa c o t, data := (srcValue c.sh c.ext f.b o.b t).setWidth 128, data2 := srcValue c.sh c.ext f.c o.c t }) ∧
  (c.e ≠ 0 → s.windowFree k i = true →
    (∀ t, t < 32 → c.e.getLsbD t = true → (pointerEa c o t).toNat % align = 0 ∧
      ((∃ h, s.locate w (pointerEa c o t) = some (.dev h)) ∨ ∃ a, s.locate w (pointerEa c o t) = some (.own a))) →
    (∃ t, t < 32 ∧ c.e.getLsbD t = true ∧ off t = true) →
    ∃ bad, bad ≠ 0 ∧ (∀ t, t < 32 → (bad.getLsbD t = true ↔ c.e.getLsbD t = true ∧ off t = true)) ∧
      exec i s = .next ((s.setSheaf k sh.atHead).issueTrap k i 0x0F 0 bad c.e))

/-- A release begun by a held instruction (R317): the lane has its n cycles and its chain goes on or ends with hd (R154, R160), the
sheaf waits for the release at its pc, and every earlier window entry and send is before it. -/
def heldRelease (s : State) (k : Nat) (sh : Sheaf) (hd : Bool) (n scope : Nat) (t : RelThen) : State :=
  let held : Sheaf :=
    { sh.issued with wait := .order s.winNext, chain := if hd = true ∧ sh.chain < 7 then sh.chain + 1 else 0, yielded := false,
                     fresh := false, lastOp := s.clk + n - 1, readyAt := s.clk + n, bpSkip := [] }
  { s.setSheaf k held with
    clk := s.clk + n
    winNext := s.winNext + 1
    rels := mapInsert s.rels s.winNext { sheaf := some k, core := slotCore k, lgrps := [slotLgrp k], scope := scope, stage := 0, own := none,
                                         before := s.winNext, mark := s.winNext, left := 0, then_ := t } }

/-- Sheaf k goes on past the instruction i that held it: the pc behind it, then reconvergence (R171), the end of the sheaf (R39) and
its fetch buffer (R120); the lane is not occupied again. -/
def wentPast (s : State) (k : Nat) (i : Instr) (sh : Sheaf) : State :=
  (((s.setSheaf k { sh with wait := .none, force := none, readyAt := s.clk, pc := sh.pc + BitVec.ofNat 64 i.size }).reconverge
    k).endIfDone k).onSheaf k (fun x => { x with fbuf := keepLines x.pc x.fbuf })

/-- BAR and BARA (R346, R347): the checks at issue, the release at CORE scope unless .rlx, the arrival with .rlx. -/
def BarClaim (i : Instr) (o : Ops) (f : Form) (s : State) (k : Nat) (sh : Sheaf) (w : Workgroup) : Prop :=
  let c := startCtx s o f k sh w
  let lead := (threadsOf c.e).headD 0
  let b := (low (srcValue c.sh c.ext f.a o.a lead)).toNat
  let count := if o.mod.getLsbD 1 then some (low (srcValue c.sh c.ext f.b o.b lead)).toNat else none
  let badCount : Prop := ∃ n, count = some n ∧ (n = 0 ∨ w.nSheaf < n)
  let go := s.setSheaf k { sh.issued with pc := sh.pc + BitVec.ofNat 64 i.size }
  (c.e = 0 → exec i s = .next (go.finish k o.hd 1)) ∧
  (c.e ≠ 0 → (15 < b ∨ badCount) → exec i s = .next ((s.setSheaf k sh.atHead).issueTrap k i 0x02 0 c.e c.e)) ∧
  (c.e ≠ 0 → b ≤ 15 → ¬badCount → o.mod.getLsbD 0 = false → s.acquirePending k = false → s.releasePending k = false →
    ∃ n, 1 ≤ n ∧ n ≤ 32 ∧ exec i s = .next (heldRelease s k sh o.hd n 1 (.barrier i b count c.e))) ∧
  (c.e ≠ 0 → b ≤ 15 → ¬badCount → o.mod.getLsbD 0 = true →
    exec i s = .next ((s.setSheaf k sh.issued).arrive k i b count c.e false))

/-- BOINIT, BOEXP and BOARR on an object of the workgroup's own region (R350): one request at the object's bank. -/
def ObjectClaim (i : Instr) (o : Ops) (f : Form) (s : State) (k : Nat) (sh : Sheaf) (w : Workgroup) (ok : BObj → Word → Bool) : Prop :=
  let c := startCtx s o f k sh w
  let lead := (threadsOf c.e).headD 0
  let a := pointerEa c o lead
  let b := low (srcValue c.sh c.ext f.b o.b lead)
  (c.e = 0 → exec i s = .next ((s.setSheaf k { sh.issued with pc := sh.pc + BitVec.ofNat 64 i.size }).finish k o.hd 1)) ∧
  (c.e ≠ 0 → s.acquirePending k = false → s.releasePending k = false → c.boBusy o = false →
    ((∀ off, s.locate w a ≠ some (.own off)) → (∀ x y, s.locate w a ≠ some (.peer x y)) →
      exec i s = .next ((s.setSheaf k sh.atHead).issueTrap k i 0x06 0 c.e c.e)) ∧
    ∀ off, s.locate w a = some (.own off) →
      (off % 16 ≠ 0 → exec i s = .next ((s.setSheaf k sh.atHead).issueTrap k i 0x05 0 c.e c.e)) ∧
      (off % 16 = 0 → ok (s.boAt w.core off) b = false → exec i s = .next ((s.setSheaf k sh.atHead).issueTrap k i 0x02 0 c.e c.e)) ∧
      (off % 16 = 0 → ok (s.boAt w.core off) b = true →
        ∃ u n, EntryMade s u i o f k sh ((threadsOf c.e).map (fun t => (t, { addr := a, data := b.setWidth 128, data2 := 0 }))) ∧
          exec i s = .next ((u.pump k).finish k o.hd n)))

/-! The ends that many instructions share. -/

/-- One value for every executing thread, in D unless NW and in the latch; u is the state with the instruction's other effects. -/
def GivesValue (i : Instr) (o : Ops) (f : Form) (s u : State) (k : Nat) (sh : Sheaf) (e : TMask) (occ : Nat) (v : Nat → DWord) : Prop :=
  ∃ sh', exec i s = .next ((u.setSheaf k sh').finish k o.hd occ) ∧ LaneEffect sh.issued sh' i o f.dst.width e v

/-- The same with the value there 4 cycles after issue: its registers are pending until then (R156). -/
def GivesLate (i : Instr) (o : Ops) (f : Form) (s u : State) (k : Nat) (sh : Sheaf) (e : TMask) (v : Nat → DWord) : Prop :=
  ∃ sh' n, exec i s = .next ((u.setSheaf k (sh'.pendUntil (dstRegs o f.dst) (s.clk + 4))).finish k o.hd n) ∧ 1 ≤ n ∧ n ≤ 32 ∧
    LaneEffect sh.issued sh' i o f.dst.width e v

/-- The destination registers marked pending (R156) and the pc behind the instruction. -/
def Awaits (sh x : Sheaf) (i : Instr) (f : Form) (o : Ops) : Prop :=
  x.pc = sh.pc + BitVec.ofNat 64 i.size ∧ x.regs = sh.regs ∧ x.m = sh.m ∧ x.live = sh.live ∧ x.stack = sh.stack ∧ x.level = sh.level ∧
  x.trap = sh.trap ∧ x.rpoison = sh.rpoison ∧ (∀ r, r < 256 → x.pend.getLsbD r = (sh.pend.getLsbD r || (dstRegs o f.dst).contains r))

/-- A request to the hub (R363): from s to u the destination is pending, and the request leaves the core for the hub, behind a
release at its scope where ORDER asks for one. -/
def HubAsked (s u : State) (i : Instr) (o : Ops) (f : Form) (k : Nat) (sh : Sheaf) (w : Workgroup) (e : TMask) (asid : BitVec 16)
    (r : HubReq) : Prop :=
  let from_ : HubFrom :=
    { wg := sh.wg, idx := sh.idx, core := slotCore k, asid := asid, part := (s.partOf w.asid).getD 0, d := (dstRegs o f.dst).head?,
      mask := e, pc := sh.pc, level := sh.level, seq := s.winNext }
  (∃ x, u.sheaves = mapInsert s.sheaves k x ∧ Awaits sh x i f o) ∧
  (i.releases = false → u.rels = s.rels ∧ u.net = s.net ++
    [{ p := { src := .core (slotCore k), dst := .hub, prio := 1, msg := .hub from_ r, mcast := [], part := some from_.part },
       place := .input (slotCore k / 16) (Agent.core (slotCore k)).code, age := 0, since := s.clk }]) ∧
  (i.releases = true → u.net = s.net ∧ u.rels = mapInsert s.rels s.winNext
    { sheaf := some k, core := slotCore k, lgrps := [slotLgrp k], scope := i.scopeOf, stage := 0, own := none,
      before := s.winNext, mark := s.winNext, left := 0, then_ := .hub from_ r }) ∧
  u = { s with sheaves := u.sheaves, net := u.net, rels := u.rels, winNext := s.winNext + 1 }

/-- LAUNCH, NDEC, EVSIG past their checks (R363): held by the sheaf's own orders, else asked of the hub, in one cycle or with the pass of R166. -/
def HubClaim (i : Instr) (o : Ops) (f : Form) (s : State) (k : Nat) (sh : Sheaf) (w : Workgroup) (r : HubReq) : Prop :=
  (s.acquirePending k = true ∨ s.releasePending k = true → StaysAt i s k sh) ∧
  (s.acquirePending k = false → s.releasePending k = false →
    ∃ u : State, HubAsked s u i o f k sh w (startCtx s o f k sh w).e w.asid r ∧
      exec i s = .next (u.finish k o.hd (sh.issued.occupied (dstRegs o f.dst) (startCtx s o f k sh w).e 1)))

/-- The matrix instructions that every thread must execute (R300): the convergence, range, claim and content checks in their
order, then what `go` says. -/
def MatrixChecks (i : Instr) (s : State) (k : Nat) (sh : Sheaf) (e : TMask) (ranged : Prop) (tiles as bs : List Nat)
    (go : Prop) : Prop :=
  let mine (tile : Bool) (j : Nat) : Prop := mapFind (s.core (slotCore k)).claims (mxEntry (slotLgrp k) tile j) = some sh.wg
  let away (tile : Bool) (j : Nat) : Bool := s.entryState (slotCore k) (mxEntry (slotLgrp k) tile j) == .absent
  let claimed : Prop := (∀ j ∈ tiles, mine true j) ∧ ∀ j ∈ as ++ bs, mine false j
  (e ≠ 0xFFFFFFFF → TrapsWith i s k sh 0x04 0 e e) ∧
  (e = 0xFFFFFFFF → ¬ranged → TrapsWith i s k sh 0x02 0 e e) ∧
  (e = 0xFFFFFFFF → ranged → ¬claimed → TrapsWith i s k sh 0x02 0 e e) ∧
  (e = 0xFFFFFFFF → ranged → claimed → tiles.filter (away true) ≠ [] →
    TrapsWith i s k sh 0x11 (spillInfo 1 (slotLgrp k) true (tiles.filter (away true))) e e) ∧
  (e = 0xFFFFFFFF → ranged → claimed → tiles.filter (away true) = [] → as.filter (away false) ≠ [] →
    TrapsWith i s k sh 0x11 (spillInfo 1 (slotLgrp k) false (as.filter (away false))) e e) ∧
  (e = 0xFFFFFFFF → ranged → claimed → tiles.filter (away true) = [] → as.filter (away false) = [] → bs.filter (away false) ≠ [] →
    TrapsWith i s k sh 0x11 (spillInfo 1 (slotLgrp k) false (bs.filter (away false))) e e) ∧
  (e = 0xFFFFFFFF → ranged → claimed → tiles.filter (away true) = [] → as.filter (away false) = [] → bs.filter (away false) = [] → go)

/-- An operation for the queue of the lane group's engine (R293): with a free place of the 16 and no lane waiting it is admitted,
counted on MATRIX unless it is ARD or AWR, its destination pending; else its sheaf waits for admission. -/
def QueueClaim (i : Instr) (o : Ops) (f : Form) (s : State) (k : Nat) (sh : Sheaf) (a b c : DWord)
    (data : Map DWord) : Prop :=
  let q := s.mxQ (slotCore k) (slotLgrp k)
  (mxCounted i = false ∨ sh.cMatrix < 63) →
  ∃ op : MxOp, op.id = s.winNext ∧ op.instr = i ∧ op.wg = sh.wg ∧ op.idx = sh.idx ∧ op.lane = slotLane k ∧ op.a = a ∧ op.b = b ∧ op.c = c ∧
    op.data = data ∧ op.asid = sh.ctxAsid ∧ op.level = sh.level ∧
    (mxUsed q < 16 → (∀ x ∈ q, x.stage ≠ .wanting) → ∃ (u : State) (x : Sheaf) (rows : List Nat),
      exec i s = .next (u.finish k o.hd (mxLaneCycles i)) ∧
      u.mxQ (slotCore k) (slotLgrp k) = q.filter (fun y => y.id != s.winNext) ++ [{ op with stage := .queued, rows := rows }] ∧
      u.sheaves = mapInsert s.sheaves k x ∧ Awaits sh x i f o ∧ x.cMatrix = (if mxCounted i then sh.cMatrix + 1 else sh.cMatrix) ∧
      u = { s with winNext := s.winNext + 1, sheaves := u.sheaves, cores := u.cores }) ∧
    (¬(mxUsed q < 16 ∧ ∀ x ∈ q, x.stage ≠ .wanting) →
      exec i s = .next (({ s with winNext := s.winNext + 1 }.setMxQ (slotCore k) (slotLgrp k) (q ++ [op])).setSheaf k
        { sh.issued with wait := .order s.winNext }))

/-- The packet p is the first message in any inbox, and u is the state with it taken out of the network. -/
structure Received (s : State) (p : Packet) (u : State) : Prop where
  first : ∃ pre f rest, s.net = pre ++ f :: rest ∧ u.net = pre ++ rest ∧ f.p = p ∧ f.place = .inbox ∧ ∀ g ∈ pre, g.place ≠ .inbox
  rest : u = { s with net := u.net }

/-- The lookup that a home makes for an access (R240 to R243). -/
def State.homeLook (s : State) (asid : BitVec 16) (va : DWord) (kind : AccessKind) (asker : Asker) (core : Nat) : Lookup :=
  s.lookup asid va kind (s.askerLevel asker core)

/-- A message that an agent has just sent: at its die's crossbar, or in its own inbox (R421). -/
def sentFlight (clk : Nat) (src dst : Agent) (prio : Nat) (part : Option Nat) (m : Msg) : Flight :=
  { p := { src := src, dst := dst, prio := prio, msg := m, mcast := [], part := part },
    place := if src == dst then .inbox else .input src.die src.code, age := 0, since := clk }

/-- From s to t the 64-byte block of an address becomes b, and every other byte of memory stays. -/
def BlockBecomes (s t : State) (dpa : Nat) (b : Blk) : Prop :=
  ∀ a, t.memByte a = if a / 64 = dpa / 64 then b.extractLsb' (8 * (a % 64)) 8 else s.memByte a

/-- A message of the allowance protocol that an agent has just sent (R344, R352). -/
def alFlight (s : State) (src dst : Agent) (m : AlMsg) (k : AlKey) : Flight := sentFlight s.clk src dst 0 (s.partOf k.asid) (.al m)

end Sys2Proof.Machine
end

