-- ==== Sys2Proof/Certificates/Slice0/Obligations.lean ====
section
/-! DEFINITION. The statements about the model, by subject: reset, encoding and step; lanes; control; traps; memory; order; the
requests and units behind an instruction; the steps of the network, homes, cores, hub and host. Each docstring names the rules
of spec/ that it formalises. -/

open Sys2Proof Sys2Proof.Machine

/-- R15, R18, R31, R69, R95, R100, R116, R238, R245, R249, R366, R382, R397, R404, R406: what package reset leaves where the
spec gives it, as the host's registers show it, with no node, workgroup, sheaf or request, and every tag 0. What memory reads
before it is written, the mask of MSI-X, the partition mode and what the fuses hold are the model's choice (log 2, 6, 3, 4) and
are not stated. -/
def Obligations.ResetState : Prop :=
  let r (off : Nat) : Word := State.reset.barRead off
  r 0x0 = 0x780 ∧ State.reset.lsCap = 0x800000 ∧ State.reset.mbox = { reason := 0, status := 0, setAddr := 0, setLen := 0, cmd := 0, set := [] } ∧
  (∀ p : Fin 4, r (0x100 + 16 * p.val) = 0x00124F80 ∧ r (0x104 + 16 * p.val) = 0x04689ABF) ∧
  r 0x200 = 0 ∧ r 0x204 = 0 ∧ r 0x208 = 0 ∧ r 0x20C = 0 ∧ r 0x210 = 0 ∧ r 0x228 = 0 ∧ r 0x220 = 0x010003E8 ∧
  (∀ k : Fin 32, r (0x300 + 4 * k.val) = 0xFFFF) ∧ (∀ k : Fin 64, r (0x400 + 4 * k.val) = 0) ∧ r 0x500 = 0 ∧ r 0x504 = 0 ∧
  (∀ k : Fin 12, r (0x600 + 16 * k.val) = 0 ∧ r (0x608 + 16 * k.val) = 0 ∧ r (0xD00 + 16 * k.val) = 0 ∧ r (0xD04 + 16 * k.val) = 0x02580400 ∧
    r (0xD08 + 16 * k.val) = 0x02D00024) ∧
  (∀ p : Fin 9, r (0x700 + 8 * p.val) = 0 ∧ r (0x704 + 8 * p.val) = 0 ∧ r (0xE14 + 4 * p.val) = 0) ∧
  r 0xE00 = 0x0E10 ∧ r 0xE04 = 0 ∧ r 0xE08 = 0 ∧ r 0xE0C = 0 ∧ r 0xE10 = 16 ∧
  (∀ n : Nat, (State.reset.slot n).word = 0) ∧
  State.reset.nodes = [] ∧ State.reset.wgs = [] ∧ State.reset.sheaves = [] ∧ State.reset.net = [] ∧ State.reset.ctxs = [] ∧
  State.reset.hostLink = false ∧ State.reset.heap12 = false ∧ State.reset.heap14 = false ∧
  (∀ d : Nat, State.reset.memTagAt d = 0) ∧ (∀ k : Nat, mapGetD State.reset.lsTag k 0 = 0)

/-- R65: memory after reset is in canonical form: it lists nothing (log 2: an unlisted byte reads as 0, the model's choice). -/
def Obligations.StoresWfAtReset : Prop :=
 State.reset.storesWf = true

/-- The model's own invariant, of the contents of R65, R225, R284 and R94: every step keeps device and host memory, local store,
slots, tiles and node slots in canonical form, so that equal contents are equal data. -/
def Obligations.StoresWfKept : Prop :=
  ∀ (s t : State), s.storesWf = true → step s = .next t → t.storesWf = true

/-- R125, R142, R384: with nothing on the agenda and a sheaf chosen, no debug trap before it, and bytes at its pc that decode to
i, a step is exec of i, after which no sheaf is chosen; a word that does not pass step 3 is taken as a bad word; the first step
of an agenda is run before anything else. -/
def Obligations.StepRunsDecoded : Prop :=
  (∀ (s : State) (k : Nat) (sh : Sheaf) (i : Instr) (rest : List Byte), s.agenda = [] → s.cur = some k → s.sheaf k = some sh →
    s.debugTrap k sh = none → decodeBytes (fetchBytes sh.fbuf sh.pc) = .ok (i, rest) →
    (∀ t, exec i s = .next t → step s = .next { t with cur := none }) ∧
    (∀ x, exec i s = .fault x → step s = .fault x) ∧ (∀ x, exec i s = .refused x → step s = .refused x)) ∧
  (∀ (s : State) (k : Nat) (sh : Sheaf) (op : BitVec 8), s.agenda = [] → s.cur = some k → s.sheaf k = some sh →
    s.debugTrap k sh = none → decodeBytes (fetchBytes sh.fbuf sh.pc) = .error (.fields op) →
    step s = .next { s.badWord k op with cur := none }) ∧
  (∀ (s : State) (k : Nat) (sh : Sheaf) (r : TrapReq), s.agenda = [] → s.cur = some k → s.sheaf k = some sh →
    s.debugTrap k sh = some r → step s = .next { s.takeTrap k r with cur := none }) ∧
  (∀ (s : State) (i : Instr) (rest : List Instr), s.agenda = i :: rest → step s = exec i { s with agenda := rest })

/-- R126 to R138 and the worked words of the spec: each word decodes to the instruction it stands for, and a word whose opcode
is assigned and whose fields are not legal decodes to none. -/
def Obligations.DecodedWords : Prop :=
  decodeTableWord 64 0x4240040004060C40 = some (.fadd { plainOps with pn := true, p := 9, b := .latch false, a := .reg 4, hd := true, ls := true, d := 12 }) ∧
  decodeTableWord 128 0x000000003FC000008000080003000340 = some (.fadd { plainOps with ext := .imm32 0x3FC00000, b := .ext, a := .reg 3, d := 3 }) ∧
  decodeTableWord 64 0x0000000300000135 = some (.movs { plainOps with a := .imm 0, d := 1 }) ∧
  decodeTableWord 64 0x0000000002100470 = some (.ld { plainOps with a := .reg 2, mod := 2, d := 4 }) ∧
  decodeTableWord 64 0x0140000040000302 = some (.brc { pn := false, p := 5, rcv := 4, tgt := 3 }) ∧
  decodeTableWord 64 0x00000C0C04000003 = some (.brx { plainOps with b := .imm 3, a := .reg 4 }) ∧
  decodeTableWord 64 0x00000C0404180960 = some (.relay { plainOps with b := .imm 1, a := .reg 4, mod := 3, d := 9 }) ∧
  decodeTableWord 128 0x8000001D0000000080000C0402000680 = some (.atom
    { plainOps with ext := .attr { ispec := 0, policy := 0, order := 3, scope := 5, offset := 0 }, b := .imm 1, a := .reg 2, d := 6 }) ∧
  decodeTableWord 64 0x00302C0300B800A6 = some (.mma { plainOps with c := .imm 2, b := .imm 0, a := .imm 0, mod := 23 }) ∧
  decodeTableWord 64 0x00000003010802F0 = some (.csrrd { plainOps with a := .imm 1, mod := 1, d := 2 }) ∧
  decodeTableWord 64 0x000000000000000F = some (.unassignedOpcode 0xF) ∧
  decodeTableWord 64 0x0000080003000340 = none ∧ decodeTableWord 64 0x0000000000040070 = none

/-- R125 to R138: every encodable instruction is read back whole from its own bytes, whatever follows them, and the words that
decode to an instruction are the words that encode it, so that no two words stand for one instruction. -/
def Obligations.EncodingRoundTrip : Prop :=
  (∀ (i : Instr), i.encodable = true → ∃ bs, encodeBytes i = some bs ∧ ∀ rest, decodeBytes (bs ++ rest) = .ok (i, rest)) ∧
  (∀ (w ext : DWord) (i : Instr), decodeWords w ext = .ok i →
    encode i = some (w :: (if hasExt w = true ∧ opAssigned (w.extractLsb' 0 8) = true then [ext] else [])))

/-- R177, R190 to R192: every integer instruction writes, for each executing thread, the stated function of the thread's own
source values, 32-bit results wrapping at 2^32, and changes nothing else in its sheaf but the pc (and classes, R164). -/
def Obligations.IntegerResults : Prop :=
  LaneResult .iadd (fun o v => wide (
      if o.mod = 0 then low v.a + low v.b
      else if o.mod = 1 then BitVec.ofInt 32 (clampInt (-2147483648) 2147483647 ((low v.a).toInt + (low v.b).toInt))
      else BitVec.ofInt 32 (clampInt 0 4294967295 (((low v.a).toNat : Int) + (low v.b).toNat))))
  ∧ LaneResult .isub (fun o v => wide (
      if o.mod = 0 then low v.a - low v.b
      else if o.mod = 1 then BitVec.ofInt 32 (clampInt (-2147483648) 2147483647 ((low v.a).toInt - (low v.b).toInt))
      else BitVec.ofInt 32 (clampInt 0 4294967295 (((low v.a).toNat : Int) - (low v.b).toNat))))
  ∧ LaneResult .isum3 (fun o v => wide (if o.mod = 0 then low v.a + low v.b + low v.c else low v.a + low v.b - low v.c))
  ∧ LaneResult .imul (fun _ v => wide (low v.a * low v.b))
  ∧ LaneResult .imulh (fun o v => wide (
      if o.mod = 0 then ((low v.a).signExtend 64 * (low v.b).signExtend 64).extractLsb' 32 32
      else ((low v.a).setWidth 64 * (low v.b).setWidth 64).extractLsb' 32 32))
  ∧ LaneResult .imac (fun _ v => wide (low v.a * low v.b + low v.c))
  ∧ LaneResult .imacw (fun o v =>
      (if o.mod = 0 then (low v.a).signExtend 64 * (low v.b).signExtend 64 else (low v.a).setWidth 64 * (low v.b).setWidth 64) + v.c)
  ∧ LaneResult .iadd64 (fun _ v => v.a + v.b)
  ∧ LaneResult .isub64 (fun _ v => v.a - v.b)
  ∧ LaneResult .imin (fun o v => wide (
      if o.mod = 0 then (if (low v.b).slt (low v.a) then low v.b else low v.a) else (if (low v.b).ult (low v.a) then low v.b else low v.a)))
  ∧ LaneResult .imax (fun o v => wide (
      if o.mod = 0 then (if (low v.a).slt (low v.b) then low v.b else low v.a) else (if (low v.a).ult (low v.b) then low v.b else low v.a)))
  ∧ LaneResult .iabs (fun o v => wide (
      if o.mod = 1 ∧ low v.a = 0x80000000 then 0x7FFFFFFF else if (low v.a).msb then -(low v.a) else low v.a))
  ∧ LaneResult .lea (fun _ v => wide ((low v.a) <<< (low v.c).toNat + low v.b))
  ∧ LaneResult .lea64 (fun o v =>
      (if o.mod = 0 then (low v.a).setWidth 64 else (low v.a).signExtend 64) <<< (low v.c).toNat + v.b)
  ∧ LaneResult .idot4 (fun o v => wide ((List.range 4).foldl (fun acc i =>
      acc + elem32 (o.mod.getLsbD 0) ((low v.a).extractLsb' (8 * i) 8) * elem32 (o.mod.getLsbD 1) ((low v.b).extractLsb' (8 * i) 8)) (low v.c)))
  ∧ LaneResult .idot2 (fun o v => wide ((List.range 2).foldl (fun acc i =>
      acc + elem32 (o.mod.getLsbD 0) ((low v.a).extractLsb' (16 * i) 16) * elem32 (o.mod.getLsbD 1) ((low v.b).extractLsb' (16 * i) 16)) (low v.c)))

/-- R177, R193 to R197: every logic, shift and bit instruction writes the stated function of the thread's own source values.
R177, R198 to R201, R43: comparisons write 1 (all ones with MOD[4]) or 0, moves write the value they name; MOVS writes the
special register its short immediate names: the coordinates of the grid from bytes 8 to 15 of the node's record, the clock at
each thread's issue (one clock for all cores is the model's own choice, log 99). -/
def Obligations.LogicCompareResults : Prop :=
  (
    LaneResult .and (fun _ v => wide (low v.a &&& low v.b))
    ∧ LaneResult .or (fun _ v => wide (low v.a ||| low v.b))
    ∧ LaneResult .xor (fun _ v => wide (low v.a ^^^ low v.b))
    ∧ LaneResult .andn (fun _ v => wide (low v.a &&& ~~~(low v.b)))
    ∧ LaneResult .lsel (fun _ v => wide (wordOfBits (fun i =>
        (low v.c).getLsbD (4 * (v.old.getLsbD i).toNat + 2 * ((low v.b).getLsbD i).toNat + ((low v.a).getLsbD i).toNat))))
    ∧ LaneResult .shl (fun _ v => wide (if (low v.b).toNat < 32 then low v.a <<< (low v.b).toNat else 0))
    ∧ LaneResult .shr (fun o v => wide (
        if o.mod = 0 then (if (low v.b).toNat < 32 then low v.a >>> (low v.b).toNat else 0)
        else if (low v.b).toNat < 32 then (low v.a).sshiftRight (low v.b).toNat
        else if (low v.a).msb then 0xFFFFFFFF else 0))
    ∧ LaneResult .rot (fun o v =>
        let k := (low v.b).toNat % 32
        wide (if o.mod = 0 then low v.a <<< k ||| low v.a >>> (32 - k) else low v.a >>> k ||| low v.a <<< (32 - k)))
    ∧ LaneResult .shd (fun o v =>
        let k := (low v.c).toNat % 32
        wide (if o.mod = 0 then low v.a <<< k ||| low v.b >>> (32 - k) else low v.b >>> k ||| low v.a <<< (32 - k)))
    ∧ LaneResult .popc (fun _ v => BitVec.ofNat 64 ((List.range 32).filter (fun i => (low v.a).getLsbD i)).length)
    ∧ LaneResult .clz (fun _ v => BitVec.ofNat 64 ((List.range 32).takeWhile (fun i => !(low v.a).getLsbD (31 - i))).length)
    ∧ LaneResult .brev (fun _ v => wide (wordOfBits (fun i => (low v.a).getLsbD (31 - i))))
    ∧ LaneResult .xfld (fun o v =>
        let pos := (low v.b).toNat % 32
        let len := min ((low v.b).toNat / 32 % 64) 32
        wide (if o.mod = 0 then BitVec.ofNat 32 ((low v.a).toNat / 2 ^ pos % 2 ^ len)
          else if len = 0 then 0 else BitVec.ofInt 32 (((low v.a).toInt / 2 ^ pos).bmod (2 ^ len))))
    ∧ LaneResult .ifld (fun _ v =>
        let pos := (low v.c).toNat % 32
        let len := min ((low v.c).toNat / 32 % 64) 32
        wide (wordOfBits (fun i => if pos ≤ i ∧ i < pos + len then (low v.b).getLsbD (i - pos) else (low v.a).getLsbD i)))
    ∧ LaneResult .bmux (fun _ v => wide (wordOfBits (fun i =>
        let sel := (low v.c).toNat / 2 ^ (5 * (i / 8)) % 32
        let src : DWord := low v.b ++ low v.a
        let byte := src.extractLsb' (8 * (sel % 8)) 8
        if sel / 8 = 0 then byte.getLsbD (i % 8) else if sel / 8 = 1 then byte.msb else decide (sel / 8 = 3))))
    ∧ LaneResult .clmul (fun o v =>
        let bit (k : Nat) : Bool := ((List.range 32).filter (fun i =>
          (low v.b).getLsbD i && decide (i ≤ k) && (low v.a).getLsbD (k - i))).length % 2 = 1
        wide (wordOfBits (fun i => if o.mod = 0 then bit i else bit (i + 32))))) ∧
  (
    LaneResult .icmp (fun o v => wide (truth (o.mod.getLsbD 4)
        (if o.mod.getLsbD 3 then relation (lo3 o.mod) (low v.a).toNat (low v.b).toNat else relation (lo3 o.mod) (low v.a).toInt (low v.b).toInt)))
    ∧ LaneResult .icmp64 (fun o v => wide (truth (o.mod.getLsbD 4)
        (if o.mod.getLsbD 3 then relation (lo3 o.mod) v.a.toNat v.b.toNat else relation (lo3 o.mod) v.a.toInt v.b.toInt)))
    ∧ LaneResult .fcmp (fun o v =>
        let x := ofFP32 (low v.a)
        let y := ofFP32 (low v.b)
        let unordered := x.isNaN || y.isNaN
        wide (truth (o.mod.getLsbD 4)
          (if lo3 o.mod = 6 then unordered else if lo3 o.mod = 7 then !unordered
           else if unordered then o.mod.getLsbD 3
           else if lo3 o.mod = 0 then x.eqv y else if lo3 o.mod = 1 then !x.eqv y
           else if lo3 o.mod = 2 then !x.eqv y && x.lt y else if lo3 o.mod = 3 then x.eqv y || x.lt y
           else if lo3 o.mod = 4 then !x.eqv y && y.lt x else x.eqv y || y.lt x)))
    ∧ LaneResult .sel (fun _ v => wide (if low v.c = 0 then low v.b else low v.a))
    ∧ LaneResult .mov (fun _ v => wide (low v.a))
    ∧ LaneResult .movi (fun o v => wide (
        if o.mod = 0 then (v.old &&& 0xFFFF0000) ||| (low v.a &&& 0xFFFF) else (v.old &&& 0xFFFF) ||| (low v.a <<< 16)))
    ∧ LaneResult .mov64 (fun _ v => v.a)
    ∧ ∀ (o : Ops) (n : BitVec 8) (f : Form) (s : State) (k : Nat) (sh : Sheaf) (w : Workgroup), o.a = .imm n →
        Starts s (.movs o) o f k sh w →
        let e := (startCtx s o f k sh w).e
        let field (at_ len : Nat) : Nat := match mapFind s.nodes w.node with
          | some nd => nd.record.toNat / 2 ^ (8 * at_) % 2 ^ (8 * len)
          | none => 0
        let placed (x : Nat) : Nat := if (mapFind s.nodes w.node).isSome then x else 0
        let value (t : Nat) : Nat :=
          if n = 0x00 then t else if n = 0x01 then sh.idx else if n = 0x02 then w.nSheaf
          else if n = 0x03 then placed (w.lin % field 8 4) else if n = 0x04 then placed (w.lin / field 8 4 % field 12 2)
          else if n = 0x05 then placed (w.lin / field 8 4 / field 12 2)
          else if n = 0x06 then field 8 4 else if n = 0x07 then field 12 2 else if n = 0x08 then field 14 2
          else if n = 0x09 then slotLane k else if n = 0x0A then slotLgrp k else if n = 0x0B then slotCore k % 16 else if n = 0x0C then slotDie k
          else if n = 0x0D then s.pkg else if n = 0x0E then s.clk + ((threadsOf e).filter (fun u => u < t)).length
          else if n = 0x0F then sh.m.toNat else if n = 0x10 then w.asid.toNat else w.node
        ∃ sh' c, exec (.movs o) s = .next ((s.setSheaf k sh').finish k o.hd c) ∧ 1 ≤ c ∧ c ≤ 64 ∧
          LaneEffect sh.issued sh' (.movs o) o f.dst.width e (fun t => BitVec.ofNat 64 (value t)))

/-- R177, R202 to R204, R72 to R77: every FP32 instruction writes its exact result rounded once by MOD[1:0], inputs and output
flushed with MOD[2], a negated by MOD[3] and b by MOD[4]; the transcendentals write what the model takes for their bounded
results (log 20). FFRC is a less its floor, FSCL a times 2 to b (beyond ±4,096 every FP32 value rounds as it does there). -/
def Obligations.Fp32Results : Prop :=
  LaneResult .fadd (fun o v => fpOut o.mod (RMode.ofMod o.mod) (FVal.add (RMode.ofMod o.mod) (fpA o.mod v) (fpB o.mod v)))
  ∧ LaneResult .fmul (fun o v => fpOut o.mod (RMode.ofMod o.mod) (FVal.mul (fpA o.mod v) (fpB o.mod v)))
  ∧ LaneResult .ffma (fun o v => fpOut o.mod (RMode.ofMod o.mod)
      (FVal.add (RMode.ofMod o.mod) (FVal.mul (fpA o.mod v) (fpB o.mod v)) (fpC o.mod v)))
  ∧ LaneResult .fmin (fun o v => fpOut o.mod .rne (FVal.minmax false (fpA o.mod v) (fpB o.mod v)))
  ∧ LaneResult .fmax (fun o v => fpOut o.mod .rne (FVal.minmax true (fpA o.mod v) (fpB o.mod v)))
  ∧ LaneResult .frnd (fun o v => fpOut o.mod (RMode.ofMod o.mod) ((fpA o.mod v).rint (RMode.ofMod o.mod)))
  ∧ LaneResult .ffrc (fun o v =>
      let x := fpA o.mod v
      fpOut o.mod (RMode.ofMod o.mod) (if x.isInf then .nan else FVal.add (RMode.ofMod o.mod) x (x.rint .rdn).neg))
  ∧ LaneResult .fscl (fun o v =>
      let x := fpA o.mod v
      fpOut o.mod (RMode.ofMod o.mod) (if x.isZero then x else x.scale (min 4096 (max (-4096) (low v.b).toInt))))
  ∧ LaneResult .fsqrt (fun o v => fpOut o.mod (RMode.ofMod o.mod) (fpA o.mod v).sqrt)
  ∧ LaneResult .fdiv (fun o v => fpOut o.mod (RMode.ofMod o.mod) (FVal.div (fpA o.mod v) (fpB o.mod v)))
  ∧ LaneResult .frcp (fun o v => fpOut o.mod .rne (transcendental .rcp (fpA o.mod v)))
  ∧ LaneResult .frsq (fun o v => fpOut o.mod .rne (transcendental .rsq (fpA o.mod v)))
  ∧ LaneResult .fex2 (fun o v => fpOut o.mod .rne (transcendental .ex2 (fpA o.mod v)))
  ∧ LaneResult .flg2 (fun o v => fpOut o.mod .rne (transcendental .lg2 (fpA o.mod v)))
  ∧ LaneResult .fsin (fun o v => fpOut o.mod .rne (transcendental .sin (fpA o.mod v)))
  ∧ LaneResult .fcos (fun o v => fpOut o.mod .rne (transcendental .cos (fpA o.mod v)))

/-- R177, R205 to R213, R76, R77: the packed instructions, the dot products and the conversions complete and write the value
that their rules give for each executing thread: HADD2, HMUL2, HFMA2, HMIN2 and HMAX2 element by element in FP16 or BF16, FDP2
and FDP4 one rounding of the exact sum (that an exact zero sum is -0 in RDN and +0 otherwise, but for terms that are all zeros
of one sign, is log 26, DEDUCED), F2I saturated with NaN as 0, I2F rounded once, F2F, CVPK and DSENC narrowed in the mode of
MOD[1:0] with SR's bits from the thread's generator word, CVUP and DSDEC exactly. -/
def Obligations.PackedConvertResults : Prop :=
  let F (o : Ops) : Fmt := if o.mod.getLsbD 4 then fmtBF16 else fmtFP16
  let ftz (o : Ops) : Bool := o.mod.getLsbD 2
  let rm (o : Ops) : RMode := RMode.ofMod o.mod
  let el (o : Ops) (x : DWord) (e : Nat) : FVal := (F o).decodeFtz (ftz o) (x.extractLsb' (16 * e) 16).toNat
  let elA (o : Ops) (x : DWord) (e : Nat) : FVal :=
    (F o).decodeFtz (ftz o) (if o.mod.getLsbD 3 then (x.extractLsb' (16 * e) 16).toNat ^^^ 0x8000 else (x.extractLsb' (16 * e) 16).toNat)
  let pack (o : Ops) (m : RMode) (f : Nat → FVal) : DWord :=
    BitVec.ofNat 64 ((F o).encode m (ftz o) false (f 0) + 65536 * (F o).encode m (ftz o) false (f 1))
  let fp32 (o : Ops) (x : DWord) : FVal := fmtFP32.decodeFtz (ftz o) (low x).toNat
  let byte (o : Ops) (e5 : Bool) (x : DWord) (i : Nat) : FVal :=
    (if e5 then fmtE5M2 else fmtE4M3).decodeFtz (ftz o) (x.extractLsb' (8 * i) 8).toNat
  let dot (o : Ops) (xs : List FVal) : DWord := BitVec.ofNat 64 (fmtFP32.encode (rm o) (ftz o) false (FVal.sum (rm o) xs))
  let mode (o : Ops) (rnd : BitVec 16) : RMode := if o.mod.toNat % 4 = 0 then .rne else if o.mod.toNat % 4 = 1 then .rtz else .sr rnd
  let hi (v : LaneIn) : BitVec 16 := v.rnd.extractLsb' 16 16
  let lo (v : LaneIn) : BitVec 16 := v.rnd.extractLsb' 0 16
  LaneResult .hadd2 (fun o v => pack o (rm o) (fun e => FVal.add (rm o) (elA o v.a e) (el o v.b e)))
  ∧ LaneResult .hmul2 (fun o v => pack o (rm o) (fun e => FVal.mul (elA o v.a e) (el o v.b e)))
  ∧ LaneResult .hfma2 (fun o v => pack o (rm o) (fun e => FVal.add (rm o) (FVal.mul (elA o v.a e) (el o v.b e)) (el o v.c e)))
  ∧ LaneResult .hmin2 (fun o v => pack o .rne (fun e => FVal.minmax false (elA o v.a e) (el o v.b e)))
  ∧ LaneResult .hmax2 (fun o v => pack o .rne (fun e => FVal.minmax true (elA o v.a e) (el o v.b e)))
  ∧ LaneResult .fdp2 (fun o v => dot o [fp32 o v.c, FVal.mul (elA o v.a 0) (el o v.b 0), FVal.mul (elA o v.a 1) (el o v.b 1)])
  ∧ LaneResult .fdp4 (fun o v => dot o (fp32 o v.c ::
      [0, 1, 2, 3].map (fun i => FVal.mul (byte o (o.mod.getLsbD 3) v.a i) (byte o (o.mod.getLsbD 4) v.b i))))
  ∧ LaneResult .f2i (fun o v =>
      let bits : Nat := if o.mod.getLsbD 4 then 64 else 32
      let least : Int := if o.mod.getLsbD 3 then 0 else -(2 ^ (bits - 1))
      let most : Int := if o.mod.getLsbD 3 then 2 ^ bits - 1 else 2 ^ (bits - 1) - 1
      let k : Int := match fp32 o v.a with
        | .nan => 0
        | .inf neg => if neg then least else most
        | .fin neg m e =>
          let mag : Int := ((if 0 ≤ e then m * 2 ^ e.toNat else roundMag (rm o) neg m (-e).toNat : Nat) : Int)
          max least (min most (if neg then -mag else mag))
      if o.mod.getLsbD 4 then BitVec.ofInt 64 k else wide (BitVec.ofInt 32 k))
  ∧ LaneResult .i2f (fun o v =>
      let k : Int := if o.mod.getLsbD 4 then (if o.mod.getLsbD 3 then (v.a.toNat : Int) else v.a.toInt)
        else if o.mod.getLsbD 3 then ((low v.a).toNat : Int) else (low v.a).toInt
      wide (toFP32 (rm o) (.fin (k < 0) k.natAbs 0)))
  ∧ LaneResult .f2f (fun o v => BitVec.ofNat 64
      (narrow (match o.b with | .imm x => x.toNat | _ => 2) (mode o (hi v)) (ftz o) (o.mod.getLsbD 3) (ofFP32 (low v.a))))
  ∧ LaneResult .cvpk (fun o v =>
      let target := o.mod.toNat / 4
      let code := if target < 4 then target + 2 else if target = 4 then 5 else 6
      let x := narrow code (mode o (hi v)) false (decide (target = 4)) (ofFP32 (low v.a))
      let y := narrow code (mode o (lo v)) false (decide (target = 4)) (ofFP32 (low v.b))
      let c := (low v.c).toNat
      BitVec.ofNat 64 (if code ≤ 3 then x + 65536 * y else if code = 6 then c % 2 ^ 24 * 256 + 16 * y + x
        else c % 65536 * 65536 + 256 * y + x))
  ∧ LaneResult .cvup (fun o v =>
      let bits := elemBits (o.mod.toNat % 8 + 2)
      let i := (low v.b).toNat % (32 / bits)
      wide (toFP32 .rne (elemValue (o.mod.toNat % 8 + 2) ((low v.a).toNat / 2 ^ (bits * i) % 2 ^ bits))))
  ∧ LaneResult .dsenc (fun o v => BitVec.ofNat 64
      ((low v.c).toNat % 2 ^ 24 * 256 + ds8Encode (mode o (hi v)) (ofFP32 (low v.a))))
  ∧ LaneResult .dsdec (fun _ v =>
      wide (toFP32 .rne (ds8Value ((low v.a).toNat / 2 ^ (8 * ((low v.b).toNat % 4)) % 256))))

/-- R214 to R218, R81: a cross-thread instruction writes, for each executing thread, the stated function of what all executing
threads give; threads outside E give nothing. DEDUCED (log 119): A of FIRST.idx has the kinds it has for FIRST, and is read. -/
def Obligations.CrossResults : Prop :=
  CrossResult .relay (fun o e v t =>
      let b := low (v t).b
      let src : Int := if o.mod = 0 then b.toNat % 32 else if o.mod = 1 then t + b.toInt
        else if o.mod = 2 then ((t + b.toNat) % 32 : Nat) else ((t ^^^ (b.toNat % 32) : Nat) : Int)
      wide (low (v (if 0 ≤ src ∧ src < 32 ∧ e.getLsbD src.toNat = true then src.toNat else t)).a))
  ∧ CrossResult .poll (fun o e v _ =>
      let hit := (threadsOf e).filter (fun u => low (v u).a != 0)
      wide (if lo3 o.mod = 0 then truth (o.mod.getLsbD 4) (hit ≠ [])
        else if lo3 o.mod = 1 then truth (o.mod.getLsbD 4) (hit.length = (threadsOf e).length)
        else if lo3 o.mod = 2 then wordOfBits (fun u => e.getLsbD u && low (v u).a != 0)
        else if lo3 o.mod = 3 then truth (o.mod.getLsbD 4) ((threadsOf e).all (fun u => low (v u).a == low (v ((threadsOf e).headD 0)).a))
        else BitVec.ofNat 32 hit.length))
  ∧ (∀ m : BitVec 5,
      let step (x y : Word) : Word :=
        if m.getLsbD 3 then
          (if lo3 m = 0 then toFP32 .rne (FVal.add .rne (ofFP32 x) (ofFP32 y)) else if lo3 m = 1 then toFP32 .rtz (FVal.add .rtz (ofFP32 x) (ofFP32 y))
           else toFP32 .rne (FVal.minmax (lo3 m != 2) (ofFP32 x) (ofFP32 y)))
        else if lo3 m = 0 then x + y
        else if lo3 m = 1 then BitVec.ofInt 32 (min x.toInt y.toInt) else if lo3 m = 2 then BitVec.ofInt 32 (max x.toInt y.toInt)
        else if lo3 m = 3 then BitVec.ofNat 32 (min x.toNat y.toNat) else if lo3 m = 4 then BitVec.ofNat 32 (max x.toNat y.toNat)
        else if lo3 m = 5 then x &&& y else if lo3 m = 6 then x ||| y else x ^^^ y
      let fold (v : Nat → LaneIn) (ts : List Nat) : Word :=
        match ts with
        | [] => 0
        | t :: rest => rest.foldl (fun acc u => step acc (low (v u).a)) (low (v t).a)
      CrossResult (fun o => .sred { o with mod := m }) (fun _ e v _ => wide (fold v (threadsOf e)))
      ∧ CrossResult (fun o => .sscan { o with mod := m }) (fun _ e v t => wide (fold v ((threadsOf e).filter (fun u => u ≤ t)))))
  ∧ CrossResult .matchv (fun o e v t => wide (wordOfBits (fun u => e.getLsbD u &&
      (if o.mod = 0 then low (v u).a == low (v t).a else (v u).a == (v t).a))))
  ∧ CrossResult .firstv (fun o e v _ =>
      let f := (threadsOf e).headD 0
      if o.mod = 0 then wide (low (v f).a) else BitVec.ofNat 64 f)

/-- R171: one pass of the loop. Only the top entry is compared; a pending side is run, else the entry is popped. R171: the loop
goes on until it no longer applies. R173: a push keeps up to 32 hardware entries; with 32 held the oldest goes to the sheaf's
spill area at offset 16·i, as RPC, PMASK and POFF, in 12 cycles, and no block tag changes. -/
def Obligations.ReconvergenceStack : Prop :=
  (
    ∀ (s : State) (k : Nat) (sh : Sheaf), s.sheaf k = some sh →
      (sh.stack = [] → s.reconvergeOnce k = none) ∧
      ∀ (rest : List StackEntry) (top : StackEntry), sh.stack = rest ++ [top] →
        let pc := if sh.m = 0 then top.rpc else sh.pc
        (pc ≠ top.rpc → s.reconvergeOnce k = none) ∧
        (pc = top.rpc → top.ppc ≠ top.rpc →
          s.reconvergeOnce k = some (s.setSheaf k
            { sh with m := top.pmask &&& sh.live, pc := top.ppc, stack := rest ++ [{ rpc := top.rpc, pmask := sh.m ||| top.pmask, ppc := top.rpc }] })) ∧
        (pc = top.rpc → top.ppc = top.rpc → sh.spilled = [] →
          s.reconvergeOnce k = some (s.setSheaf k
            { sh with m := top.pmask &&& sh.live, pc := top.rpc &&& 0xFFFFFFFFFFFFFFFE, stack := rest })) ∧
        (∀ (older : List StackEntry) (e : StackEntry) (w : Workgroup), pc = top.rpc → top.ppc = top.rpc → sh.spilled = older ++ [e] →
          mapFind s.wgs sh.wg = some w → s.lsRead w.core (w.spillAt sh.idx older.length) 16 = e.bytes →
          ∃ t, s.reconvergeOnce k = some t ∧ t.clk = s.clk + 12 ∧ t.mem = s.mem ∧ t.ls = s.ls ∧
            t.sheaves = mapInsert s.sheaves k
              { sh with m := top.pmask &&& sh.live, pc := top.rpc &&& 0xFFFFFFFFFFFFFFFE, stack := e :: rest, spilled := older })) ∧
  (
    ∀ (s : State) (k : Nat), (s.reconverge k).reconvergeOnce k = none) ∧
  (
    ∀ (s : State) (k : Nat) (sh : Sheaf) (w : Workgroup) (e : StackEntry), s.sheaf k = some sh →
      (sh.stack.length < 32 → s.push k w e = s.setSheaf k { sh with stack := sh.stack ++ [e] }) ∧
      (∀ (old : StackEntry) (rest : List StackEntry), sh.stack = old :: rest → rest.length = 31 →
        let t := s.push k w e
        let a := w.lsBase + w.units * 65536 - 512 * (sh.idx + 1) + 16 * sh.spilled.length
        t.sheaf k = some { sh with stack := rest ++ [e], spilled := sh.spilled ++ [old] } ∧ t.clk = s.clk + 12 ∧
        leNat (t.lsRead w.core a 8) = old.rpc.toNat ∧ leNat (t.lsRead w.core (a + 8) 4) = old.pmask.toNat ∧
        leNat (t.lsRead w.core (a + 12) 4) = (BitVec.ofInt 32 ((old.ppc - old.rpc).toInt / 8)).toNat ∧
        (∀ key, key < lsKey w.core a ∨ lsKey w.core a + 16 ≤ key → mapGetD t.ls key 0 = mapGetD s.ls key 0) ∧
        t.lsTag = s.lsTag ∧ t.mem = s.mem ∧ ∀ j, j ≠ k → t.sheaf j = s.sheaf j))

/-- R154, R158, R160, R171: where an instruction leaves a sheaf with threads and away from its reconvergence point, its end
changes the chain position, the choice's records and the fetch buffer alone, and passes the cycles it occupies. R177: every
packed instruction, dot product and conversion comes to such an end, with a value for each executing thread that is a function
of what it supplies. The end of an instruction whose sheaf has no engine cause latched leaves everything but the clock, the
sheaf, the barriers of its workgroup, its node and its window entries as it was; the sheaf keeps registers, classes, pending
bits and trap registers; without a response-time trap outstanding its node and window entries stay too. -/
def Obligations.InstructionEnd : Prop :=
  (
    (
      ∀ (s : State) (k : Nat) (sh : Sheaf) (hd : Bool) (n : Nat), s.sheaf k = some sh → sh.m ≠ 0 →
        (∀ top, sh.stack.getLast? = some top → top.rpc ≠ sh.pc) →
        s.finish k hd n = (s.setSheaf k
          { sh with
            chain := if hd ∧ sh.chain < 7 then sh.chain + 1 else 0
            force := none
            yielded := false
            fresh := false
            lastOp := s.clk + n - 1
            readyAt := s.clk + n
            bpSkip := []
            fbuf := keepLines sh.pc sh.fbuf }).tick n) ∧
    (∀ mk ∈ [Instr.hadd2, .hmul2, .hfma2, .hmin2, .hmax2, .fdp2, .fdp4, .f2i, .i2f, .f2f, .cvpk, .cvup, .dsenc, .dsdec],
      ∃ val : Ops → LaneIn → DWord, LaneResult mk val)) ∧
  (
    ∀ (s : State) (k : Nat) (sh : Sheaf) (hd : Bool) (n : Nat), s.sheaf k = some sh → sh.errCopy = none → sh.errMatrix = none →
      let t := s.finish k hd n
      t = { s with clk := t.clk, sheaves := t.sheaves, wgs := t.wgs, nodes := t.nodes, win := t.win, free := t.free, reports := t.reports } ∧
      (∀ j, j ≠ k → t.sheaf j = s.sheaf j) ∧
      (∀ x, t.sheaf k = some x → x.regs = sh.regs ∧ x.cls = sh.cls ∧ x.pend = sh.pend ∧ x.trap = sh.trap ∧ x.level = sh.level ∧
        x.ctxAsid = sh.ctxAsid ∧ (x.live = sh.live ∨ x.live = 0)) ∧
      (∀ g w, mapFind s.wgs g = some w → ∃ v, mapFind t.wgs g = some v ∧ v = { w with bars := v.bars }) ∧
      (sh.respTraps = [] → t.nodes = s.nodes ∧ t.win = s.win ∧ t.reports = s.reports))

/-- R180, R186: NOP only moves the pc; YIELD also ranks its sheaf last; SLEEP keeps its sheaf from issuing for the clamped count
of its lowest executing thread; BRA sets the pc. None changes M or pushes. R183, R184: CALL pushes a call entry for M and jumps;
RET pops it where every thread of M executes it, raises STACK without a call entry on top, and ILLEGAL_CONVERGENCE where its
executing mask is not M. -/
def Obligations.PlainControlAndCalls : Prop :=
  (
    (∀ (o : Ops) (f : Form) (s : State) (k : Nat) (sh : Sheaf) (w : Workgroup), Starts s (.nop o) o f k sh w →
      exec (.nop o) s = .next ((s.setSheaf k { sh.issued with pc := sh.pc + BitVec.ofNat 64 (Instr.nop o).size }).finish k o.hd 1)) ∧
    (∀ (o : Ops) (f : Form) (s : State) (k : Nat) (sh : Sheaf) (w : Workgroup), Starts s (.yield o) o f k sh w →
      exec (.yield o) s = .next (((s.setSheaf k { sh.issued with pc := sh.pc + BitVec.ofNat 64 (Instr.yield o).size }).finish k o.hd 1).onSheaf k
        (fun x => { x with yielded := true }))) ∧
    (∀ (o : Ops) (f : Form) (s : State) (k : Nat) (sh : Sheaf) (w : Workgroup), Starts s (.sleep o) o f k sh w →
      let c := startCtx s o f k sh w
      let done := (s.setSheaf k { sh.issued with pc := sh.pc + BitVec.ofNat 64 (Instr.sleep o).size }).finish k o.hd 1
      let count := min (low (srcValue c.sh c.ext f.a o.a ((threadsOf c.e).headD 0))).toNat 1048575
      exec (.sleep o) s = .next (if c.e = 0 ∨ count = 0 then done else done.onSheaf k (fun x => { x with wait := .sleep (s.clk + count + 1) }))) ∧
    (∀ (o : BrOps) (s : State) (k : Nat) (sh : Sheaf) (w : Workgroup), StartsBranch s (.bra o) o k sh w →
      exec (.bra o) s = .next ((s.setSheaf k { sh.issued with pc := sh.pc + (o.tgt.signExtend 64 <<< 3) }).finish k false 1))) ∧
  (
    (∀ (o : BrOps) (s : State) (k : Nat) (sh : Sheaf) (w : Workgroup), StartsBranch s (.call o) o k sh w →
      (sh.stack.length + sh.spilled.length < (if 512 * w.nSheaf ≤ w.units * 65536 then 64 else 32) →
        exec (.call o) s = .next ((((s.setSheaf k sh.issued).push k w
          { rpc := (sh.pc + 8) ||| 1, pmask := sh.m, ppc := (sh.pc + 8) ||| 1 }).onSheaf k
            (fun x => { x with pc := sh.pc + (o.tgt.signExtend 64 <<< 3) })).finish k false 1)) ∧
      ((if 512 * w.nSheaf ≤ w.units * 65536 then 64 else 32) ≤ sh.stack.length + sh.spilled.length →
        exec (.call o) s = .next ((s.setSheaf k sh.atHead).issueTrap k (.call o) 0x0D 0 (branchCtx s o k sh w).e (branchCtx s o k sh w).e))) ∧
    (∀ (o : Ops) (f : Form) (s : State) (k : Nat) (sh : Sheaf) (w : Workgroup), Starts s (.ret o) o f k sh w →
      let e := (startCtx s o f k sh w).e
      (sh.stack = [] → exec (.ret o) s = .next ((s.setSheaf k sh.atHead).issueTrap k (.ret o) 0x0E 0 e e)) ∧
      ∀ top, sh.stack.getLast? = some top →
        (top.rpc.getLsbD 0 = false → exec (.ret o) s = .next ((s.setSheaf k sh.atHead).issueTrap k (.ret o) 0x0E 0 e e)) ∧
        (top.rpc.getLsbD 0 = true → e ≠ sh.m → exec (.ret o) s = .next ((s.setSheaf k sh.atHead).issueTrap k (.ret o) 0x04 0 e e)) ∧
        (top.rpc.getLsbD 0 = true → e = sh.m →
          exec (.ret o) s = .next ((((s.setSheaf k sh.issued).pop k).onSheaf k
            (fun x => { x with pc := top.rpc &&& 0xFFFFFFFFFFFFFFFE, m := top.pmask &&& x.live })).finish k o.hd 1))))

/-- R170, R181: BRC. One side empty: no push. Both sides: the taken side waits (at RPC where the target is RPC), the
fall-through side runs first. No room: RECONV_OVERFLOW before any effect (R173). -/
def Obligations.BranchDiverges : Prop :=
  ∀ (o : BrOps) (s : State) (k : Nat) (sh : Sheaf) (w : Workgroup), StartsBranch s (.brc o) o k sh w →
    let e := (branchCtx s o k sh w).e
    let fall := sh.m &&& ~~~e
    let target := sh.pc + (o.tgt.signExtend 64 <<< 3)
    let join := sh.pc + (o.rcv.setWidth 64 <<< 3)
    (fall = 0 → ∃ n, exec (.brc o) s = .next ((s.setSheaf k { sh.issued with pc := target }).finish k false n)) ∧
    (fall ≠ 0 → e = 0 → ∃ n, exec (.brc o) s = .next ((s.setSheaf k { sh.issued with pc := sh.pc + 8 }).finish k false n)) ∧
    (fall ≠ 0 → e ≠ 0 → sh.stack.length + sh.spilled.length < (if 512 * w.nSheaf ≤ w.units * 65536 then 64 else 32) →
      ∃ n, exec (.brc o) s = .next ((((s.setSheaf k sh.issued).push k w
          (if target = join then { rpc := target, pmask := sh.m, ppc := target } else { rpc := join, pmask := e, ppc := target })).onSheaf k
          (fun x => { x with m := fall, pc := sh.pc + 8 })).finish k false n)) ∧
    (fall ≠ 0 → e ≠ 0 → (if 512 * w.nSheaf ≤ w.units * 65536 then 64 else 32) ≤ sh.stack.length + sh.spilled.length →
      exec (.brc o) s = .next ((s.setSheaf k sh.atHead).issueTrap k (.brc o) 0x0D 0 e e))

/-- R172, R182: BRX and CALLX with every target valid. The threads that share the lowest executing thread's target run; the rest
of M waits in a peel entry; CALLX also pushes the call entry. With no executing thread only the pc moves. -/
def Obligations.PeelingBranches : Prop :=
  (∀ (o : Ops) (f : Form) (s : State) (k : Nat) (sh : Sheaf) (w : Workgroup), Starts s (.brx o) o f k sh w → PeelClaim (.brx o) o f s k sh w false) ∧
  (∀ (o : Ops) (f : Form) (s : State) (k : Nat) (sh : Sheaf) (w : Workgroup), Starts s (.callx o) o f k sh w → PeelClaim (.callx o) o f s k sh w true)

/-- R185, R39: EXIT takes its executing threads out of the live mask and of M; a sheaf with no live thread left has ended, and
its slot is free once nothing of it is outstanding. -/
def Obligations.ThreadsExit : Prop :=
  (∀ (o : Ops) (f : Form) (s : State) (k : Nat) (sh : Sheaf) (w : Workgroup), Starts s (.exit o) o f k sh w →
    let e := (startCtx s o f k sh w).e
    exec (.exit o) s = .next (((s.setSheaf k
      { sh.issued with pc := sh.pc + BitVec.ofNat 64 (Instr.exit o).size, live := sh.live &&& ~~~e, m := sh.m &&& ~~~e }).finish k o.hd 1).reap k)) ∧
  (∀ (s : State) (k : Nat) (sh : Sheaf), s.sheaf k = some sh → sh.m = 0 → sh.stack = [] → sh.ended = false → sh.respTraps = [] →
    ∃ t, (s.endIfDone k).sheaf k = some t ∧ t.ended = true ∧ t.live = 0 ∧ t.m = 0 ∧ t.regs = sh.regs) ∧
  (∀ (s : State) (k : Nat) (sh : Sheaf), s.sheaf k = some sh → sh.ended = true → s.outstanding k sh = false →
    s.reap k = { s with sheaves := mapErase s.sheaves k })

/-- R141: opcodes 0xF0 to 0xF5 raise PRIVILEGE at USER level; every other assigned opcode may run at every level. R142, R139,
R141, R161, R370, R371: the first of the steps 2 to 5 that fails raises its trap for the active mask, at the instruction, before
any effect, whatever general-form instruction it is; TRAP_INFO is the step, with the CSR number where a CSRRD or CSRWR raises
PRIVILEGE. That TRAP_RMASK is M where P names a register outside the allocation is log 15. R139, R142 step 1: a word whose
opcode is not assigned raises ILLEGAL_INSTRUCTION with step 1 for the active mask. -/
def Obligations.DecodeTraps : Prop :=
  (
    (∀ (l : Level) (op : BitVec 8) (ok : Bool), 0xF0 ≤ op.toNat → l = .user → decodeFails l op ok = some (0x03, 2)) ∧
    (∀ (l : Level) (op : BitVec 8), (op.toNat < 0xF0 ∨ l ≠ .user) → decodeFails l op true = none) ∧
    (∀ op : BitVec 8, opAssigned op = true → 0xF0 ≤ op.toNat → op.toNat ≤ 0xF5)) ∧
  (
    ∀ (i : Instr) (o : Ops) (f : Form) (s : State) (k : Nat) (sh : Sheaf) (w : Workgroup), i.form = some (o, f) →
      s.cur = some k → s.sheaf k = some sh → mapFind s.wgs sh.wg = some w → sh.issues = true → scoreboardFree sh o f = true →
      let privileged := 0xF0 ≤ (i.opcode.getD 0).toNat ∧ sh.level = .user
      let raise (cause info : Nat) : State := (s.setSheaf k sh.atHead).issueTrap k i cause (BitVec.ofNat 32 info) sh.m
        (if w.nReg ≤ o.p.toNat then sh.m else execMask sh.atHead o.pn o.p)
      let number := match o.a with | .imm n => n.toNat | _ => 0
      (privileged → exec i s = .next (raise 0x03 (2 + if i.opcode = some 0xF0 ∨ i.opcode = some 0xF1 then 256 * number else 0))) ∧
      (¬privileged → i.wfGeneral = false → exec i s = .next (raise 0x01 3)) ∧
      (¬privileged → i.wfGeneral = true → operandsOk w.nReg o f = false → exec i s = .next (raise 0x02 4)) ∧
      (¬privileged → i.wfGeneral = true → operandsOk w.nReg o f = true → latchesOk sh.atHead o = false → exec i s = .next (raise 0x02 5))) ∧
  (
    ∀ (word : DWord) (s : State) (k : Nat) (sh : Sheaf) (w : Workgroup),
      s.cur = some k → s.sheaf k = some sh → mapFind s.wgs sh.wg = some w → sh.issues = true →
      exec (.unassignedOpcode word) s = .next ((s.setSheaf k sh.atHead).issueTrap k (.unassignedOpcode word) 0x01 1 sh.m
        (trapExec w.nReg sh.atHead (word.getLsbD 62) (word.extractLsb' 54 8))))

/-- R156, R157: an instruction whose sheaf may not issue, or one of whose registers is pending, leaves the state as it is. R380:
an executing thread that reads a poisoned register raises DATA_ERROR (TRAP_INFO 1) for the threads concerned. -/
def Obligations.IssueChecks : Prop :=
  (
    ∀ (i : Instr) (o : Ops) (f : Form) (s : State) (k : Nat) (sh : Sheaf) (w : Workgroup), i.form = some (o, f) →
      s.cur = some k → s.sheaf k = some sh → mapFind s.wgs sh.wg = some w → (sh.issues = false ∨ scoreboardFree sh o f = false) →
      exec i s = .next s) ∧
  (
    ∀ (i : Instr) (o : Ops) (f : Form) (s : State) (k : Nat) (sh : Sheaf) (w : Workgroup), i.form = some (o, f) →
      s.cur = some k → s.sheaf k = some sh → mapFind s.wgs sh.wg = some w → sh.issues = true → scoreboardFree sh o f = true →
      decodeFails sh.level (i.opcode.getD 0) i.wfGeneral = none → operandsOk w.nReg o f = true → latchesOk sh.atHead o = true →
      let e := execMask sh.atHead o.pn o.p
      let bad := poisonedThreads sh.atHead e o f
      bad ≠ 0 → exec i s = .next ((s.setSheaf k sh.atHead).issueTrap k i 0x0C 1 bad e))

/-- R371: an issue-time trap keeps the instruction's address, the next sequential address, the threads concerned, and its
executing mask as the threads that TRET executes again. R187: BRK raises cause 0x12 and TRAP n raises 0x20 + n for the executing
threads; with none, only the pc moves. -/
def Obligations.SoftwareTraps : Prop :=
  (
    ∀ (s : State) (k : Nat) (sh : Sheaf) (i : Instr) (cause : Nat) (info : Word) (mask e : TMask), s.sheaf k = some sh → cause ≠ 0x0C →
      s.issueTrap k i cause info mask e = s.takeTrap k
        { cause := cause, info := info, mask := mask, rmask := e, pc := sh.pc, npc := sh.pc + BitVec.ofNat 64 i.size, resp := false,
          entry := none }) ∧
  (
    (∀ (o : Ops) (f : Form) (s : State) (k : Nat) (sh : Sheaf) (w : Workgroup), Starts s (.brk o) o f k sh w →
      let e := (startCtx s o f k sh w).e
      (e = 0 → exec (.brk o) s = .next ((s.setSheaf k { sh.issued with pc := sh.pc + BitVec.ofNat 64 (Instr.brk o).size }).finish k o.hd 1)) ∧
      (e ≠ 0 → exec (.brk o) s = .next ((s.setSheaf k sh.atHead).issueTrap k (.brk o) 0x12 0 e e))) ∧
    (∀ (o : Ops) (n : BitVec 8) (f : Form) (s : State) (k : Nat) (sh : Sheaf) (w : Workgroup), o.a = .imm n → Starts s (.trap o) o f k sh w →
      let e := (startCtx s o f k sh w).e
      (e = 0 → exec (.trap o) s = .next ((s.setSheaf k { sh.issued with pc := sh.pc + BitVec.ofNat 64 (Instr.trap o).size }).finish k o.hd 1)) ∧
      (e ≠ 0 → exec (.trap o) s = .next ((s.setSheaf k sh.atHead).issueTrap k (.trap o) (0x20 + n.toNat) 0 e e))))

/-- R368, R369, R370: entry to the context or system handler of a trap taken at USER level. The chain closes, v0 to v7 go to the
sheaf's frame, the trap registers are set, every live thread runs at the handler's address, 16 cycles pass, and everything else
of the sheaf, memory outside the frame and the other sheaves stay as they were. DEDUCED (log 27): the frame's bytes are in
memory in the entry's own step. R368, R370: the handlers. ACC_SPILL goes to SYS_BASE of the core, every other cause to TRAP_BASE
of the context, and none where that is 0. DESIGN CHOICE (log 88): a TRAP_BASE outside space 0 is the pc as it stands. -/
def Obligations.HandlerEntry : Prop :=
  (
    ∀ (s : State) (k : Nat) (sh : Sheaf) (r : TrapReq) (base : DWord), s.sheaf k = some sh → sh.level = .user →
      ((r.cause ≠ 0x12 ∧ r.cause ≠ 0x13) ∨ (s.core (slotCore k)).dbgAttach = false) → s.handlerBase k sh r.cause = some base →
      ∃ x, (s.takeTrap k r).sheaf k = some x ∧ x.pc = base ∧ x.m = sh.live ∧ x.chain = 0 ∧ x.valid0 = false ∧ x.valid1 = false ∧
        x.level = (if r.cause = 0x11 then .system else .handler) ∧
        x.trap = { cause := BitVec.ofNat 32 (r.cause + (if r.cause = 0x11 then 256 else 0) + (if r.resp then 512 else 0)), pc := r.pc,
                   npc := r.npc, mask := r.mask, rmask := r.rmask, amask := sh.m, info := r.info } ∧
        x.regs = sh.regs ∧ x.stack = sh.stack ∧ x.spilled = sh.spilled ∧ x.live = sh.live ∧ x.cls = sh.cls ∧ x.pend = sh.pend ∧
        x.cCopy = sh.cCopy ∧ x.cMatrix = sh.cMatrix ∧ x.cCode = sh.cCode ∧ x.cRemote = sh.cRemote ∧
        x.errCopy = sh.errCopy ∧ x.errMatrix = sh.errMatrix ∧ x.ctxAsid = sh.ctxAsid ∧ x.conv = sh.conv ∧
        (s.takeTrap k r).clk = s.clk + 16 ∧
        (∀ v t, v < 8 → t < 32 → leNat ((s.takeTrap k r).memRead (s.frameDpa k + 128 * v + 4 * t) 4) = (sh.reg v t).toNat) ∧
        (∀ a, a < s.frameDpa k ∨ s.frameDpa k + 1024 ≤ a → (s.takeTrap k r).memByte a = s.memByte a) ∧
        ∀ j, j ≠ k → (s.takeTrap k r).sheaf j = s.sheaf j) ∧
  (
    ∀ (s : State) (k : Nat) (sh : Sheaf) (w : Workgroup) (c : Context) (cause : Nat), mapFind s.wgs sh.wg = some w → s.ctx w.asid = some c →
      s.handlerBase k sh cause = (if cause = 0x11 then some (s.core (slotCore k)).sysBase else if c.trapBase = 0 then none else some c.trapBase))

/-- R368, R372, R106: a trap without a handler, or above USER level, kills the sheaf: no thread of it is live, its node is in
error, and a kill at SYSTEM level is reported. -/
def Obligations.TrapKills : Prop :=
  ∀ (s : State) (k : Nat) (sh : Sheaf) (r : TrapReq) (w : Workgroup) (n : Node), s.sheaf k = some sh →
    mapFind s.wgs sh.wg = some w → mapFind s.nodes w.node = some n →
    ((r.cause ≠ 0x12 ∧ r.cause ≠ 0x13) ∨ (s.core (slotCore k)).dbgAttach = false) →
    (sh.level ≠ .user ∨ s.handlerBase k sh r.cause = none) →
    (∀ x, (s.takeTrap k r).sheaf k = some x → x.ended = true ∧ x.live = 0 ∧ x.m = 0) ∧
    (∃ m, mapFind (s.takeTrap k r).nodes w.node = some m ∧ m.errored = true) ∧
    (sh.level = .system → (s.takeTrap k r).reports = s.reports ++ [(k, BitVec.ofNat 32 r.cause)]) ∧
    (sh.level ≠ .system → (s.takeTrap k r).reports = s.reports)

/-- R372: TRET. Outside a handler it raises ILLEGAL_INSTRUCTION (step 0); with another stack depth than at entry it kills the
sheaf; otherwise v0 to v7 come back from the frame, level and M are those of the trap, and the sheaf goes on: behind the
instruction with .skip or without threads to execute again; at it, with those threads forced, after an issue-time trap; behind
it, with the kept entry released to replay, after a response-time trap. It waits while a store of its sheaf to the frame is not
ordered (R229), and its 16 reads of the frame count at their home (R247). That the registers are read whole in its step, behind
what is on its way to the frame, is log 27; the threads forced on the next instruction are log 28; that the frame is read as
NORMAL is log 112, and the class of the registers log 117; the read's 315 cycles rest on R251. -/
def Obligations.TrapReturn : Prop :=
  ∀ (o : Ops) (f : Form) (s : State) (k : Nat) (sh : Sheaf) (w : Workgroup), Starts s (.tret o) o f k sh w →
    (sh.handler = none → exec (.tret o) s = .next ((s.setSheaf k sh.atHead).issueTrap k (.tret o) 0x01 0 (startCtx s o f k sh w).e
      (startCtx s o f k sh w).e)) ∧
    ∀ h, sh.handler = some h →
      (sh.stack.length + sh.spilled.length ≠ h.depth →
        exec (.tret o) s = .next ((s.setSheaf k sh.atHead).killReported k sh.level 0x0E)) ∧
      (sh.stack.length + sh.spilled.length = h.depth → s.frameBusy k = true → exec (.tret o) s = .next (s.setSheaf k sh.atHead)) ∧
      (sh.stack.length + sh.spilled.length = h.depth → s.frameBusy k = false →
        let m := sh.trap.amask &&& sh.live
        let e := sh.trap.rmask &&& m
        ∃ x, (∀ v t, v < 8 → t < 32 → x.reg v t = BitVec.ofNat 32 (leNat ((List.range 4).map (fun i => s.frameByte k (128 * v + 4 * t + i))))) ∧
          (∀ i, s.frameWrites k = [] → (∀ y ∈ mapGetD (s.core (slotCore k)).sb (slotLgrp k) [], s.inFrame k y.asid y.va = false) →
            (∀ l ∈ (s.core (slotCore k)).l1, l.atomic = true → s.inFrame k l.asid l.va = false) →
            s.frameByte k i = s.memByte (s.frameDpa k + i)) ∧
          (∀ v t, 8 ≤ v → t < 32 → x.reg v t = sh.reg v t) ∧
          x.level = h.level ∧ x.m = m ∧ x.handler = none ∧ x.ctxAsid = w.asid ∧ x.stack = sh.stack ∧ x.live = sh.live ∧
          x.wait = .frame (s.clk + 1 + frameCycles) ∧
          (o.mod.getLsbD 0 = true ∨ e = 0 → x.pc = sh.trap.npc ∧ x.force = none ∧ x.replays = sh.replays ∧
            exec (.tret o) s = .next (((({ s.readFrame k with win := (match h.entry with | some id => mapErase s.win id | none => s.win) } : State).setSheaf k x).tick 1).reconverge k |>.endIfDone k)) ∧
          (o.mod.getLsbD 0 = false → e ≠ 0 → h.resp = false → x.pc = sh.trap.pc ∧ x.force = some e ∧ x.chain = 0 ∧
            exec (.tret o) s = .next (((s.readFrame k).setSheaf k x).tick 1)) ∧
          (o.mod.getLsbD 0 = false → e ≠ 0 → h.resp = true → x.pc = sh.trap.npc ∧
            x.replays = sh.replays ++ (match h.entry with | some id => [(id, false)] | none => []) ∧
            exec (.tret o) s = .next (((({ s.readFrame k with win := (match h.entry with
                | some id => mapModify s.win id (fun y => { y with left := e, kept := false })
                | none => s.win) } : State).setSheaf k x).tick 1).reconverge k |>.endIfDone k)))

/-- R387, R388: CSRRD gives every executing thread the value of the register its A field names, and CSRWR writes the lowest
executing thread's value, each at the register's level or above; below it PRIVILEGE with the number in TRAP_INFO; with no
executing thread only the pc moves. R370, R388: what the control registers read as, and the fields a write sets; the trap
registers, CTX_FLAGS, LS_CAP and the owner registers do not change by a write. DESIGN CHOICE (log 88): TRAP_BASE takes all 64
bits of what is written, a misaligned value too. -/
def Obligations.ControlRegisters : Prop :=
  (
    (∀ (o : Ops) (n : BitVec 8) (f : Form) (s : State) (k : Nat) (sh : Sheaf) (w : Workgroup), o.a = .imm n → Starts s (.csrrd o) o f k sh w →
      let c := startCtx s o f k sh w
      (c.e = 0 → exec (.csrrd o) s = .next ((s.setSheaf k { sh.issued with pc := sh.pc + BitVec.ofNat 64 (Instr.csrrd o).size }).finish k o.hd 1)) ∧
      (c.e ≠ 0 → sh.level.code < csrReadLevel n.toNat →
        exec (.csrrd o) s = .next ((s.setSheaf k sh.atHead).issueTrap k (.csrrd o) 0x03 (BitVec.ofNat 32 (256 * n.toNat)) c.e c.e)) ∧
      (c.e ≠ 0 → csrReadLevel n.toNat ≤ sh.level.code →
        GivesLate (.csrrd o) o f s s k sh c.e (fun _ => c.s.csrRead k c.sh w n.toNat))) ∧
    (∀ (o : Ops) (n : BitVec 8) (f : Form) (s : State) (k : Nat) (sh : Sheaf) (w : Workgroup), o.a = .imm n → Starts s (.csrwr o) o f k sh w →
      let c := startCtx s o f k sh w
      (c.e = 0 → exec (.csrwr o) s = .next ((s.setSheaf k { sh.issued with pc := sh.pc + BitVec.ofNat 64 (Instr.csrwr o).size }).finish k o.hd 1)) ∧
      (c.e ≠ 0 → sh.level.code < csrWriteLevel n.toNat →
        exec (.csrwr o) s = .next ((s.setSheaf k sh.atHead).issueTrap k (.csrwr o) 0x03 (BitVec.ofNat 32 (256 * n.toNat)) c.e c.e)) ∧
      (c.e ≠ 0 → csrWriteLevel n.toNat ≤ sh.level.code →
        exec (.csrwr o) s = .next (((s.setSheaf k { sh.issued with pc := sh.pc + BitVec.ofNat 64 (Instr.csrwr o).size }).csrWrite k w n.toNat
          (srcValue c.sh c.ext f.b o.b ((threadsOf c.e).headD 0))).finish k o.hd 1)))) ∧
  (
    ∀ (s : State) (k : Nat) (sh : Sheaf) (w : Workgroup) (v : DWord) (c : Context), s.sheaf k = some sh → s.ctx w.asid = some c →
      s.csrRead k sh w 0x00 = sh.trap.cause.setWidth 64 ∧ s.csrRead k sh w 0x01 = sh.trap.pc ∧ s.csrRead k sh w 0x02 = sh.trap.npc ∧
      s.csrRead k sh w 0x03 = sh.trap.mask.setWidth 64 ∧ s.csrRead k sh w 0x04 = sh.trap.rmask.setWidth 64 ∧
      s.csrRead k sh w 0x05 = sh.trap.amask.setWidth 64 ∧ s.csrRead k sh w 0x06 = sh.trap.info.setWidth 64 ∧
      s.csrRead k sh w 0x07 = s.frameVa k ∧ s.csrRead k sh w 0x10 = c.trapBase ∧ s.csrRead k sh w 0x11 = sh.ctxAsid.setWidth 64 ∧
      s.csrRead k sh w 0x13 = (if c.repro then 1 else 0) ∧ s.csrRead k sh w 0x14 = c.seed.setWidth 64 ∧
      s.csrRead k sh w 0x20 = (s.quantum.getD c.partition 0).setWidth 64 ∧ s.csrRead k sh w 0x21 = (s.preWait.getD c.partition 0).setWidth 64 ∧
      s.csrRead k sh w 0x30 = (s.core (slotCore k)).mxSel.setWidth 64 ∧
      (∀ n, n < 4 → s.csrRead k sh w (0x40 + n) = (s.core (slotCore k)).bp.getD n 0) ∧
      (∀ n, n ∈ [0x00, 0x01, 0x02, 0x03, 0x05, 0x06, 0x07, 0x08, 0x12, 0x15, 0x31, 0x32] → s.csrWrite k w n v = s) ∧
      s.csrWrite k w 0x04 v = s.setSheaf k { sh with trap := { sh.trap with rmask := low v } } ∧
      s.csrWrite k w 0x10 v = { s with ctxs := mapInsert s.ctxs w.asid.toNat { c with trapBase := v } } ∧
      s.csrWrite k w 0x11 v = s.setSheaf k { sh with ctxAsid := v.extractLsb' 0 16 } ∧
      s.csrWrite k w 0x13 v = { s with ctxs := mapInsert s.ctxs w.asid.toNat { c with repro := v.getLsbD 0 } } ∧
      s.csrWrite k w 0x14 v = { s with ctxs := mapInsert s.ctxs w.asid.toNat { c with seed := low v } } ∧
      s.csrWrite k w 0x20 v = { s with quantum := s.quantum.set c.partition (low v) } ∧
      s.csrWrite k w 0x21 v = { s with preWait := s.preWait.set c.partition (low v) } ∧
      s.csrWrite k w 0x30 v = s.setCore (slotCore k) { s.core (slotCore k) with mxSel := v.extractLsb' 0 8 } ∧
      ∀ n, n < 4 → s.csrWrite k w (0x40 + n) v =
        s.setCore (slotCore k) { s.core (slotCore k) with bp := (s.core (slotCore k)).bp.set n (v &&& 0xFFFFFFFFFFFFFFF9) })

/-- R386: with a debug port attached, BRK and STEP stop the sheaf with its trap registers set and are reported; no handler, no
frame. R386: the debug port resumes a stopped sheaf with TRET's choices, and reads and writes its registers. -/
def Obligations.DebugPort : Prop :=
  (
    ∀ (s : State) (k : Nat) (sh : Sheaf) (r : TrapReq), s.sheaf k = some sh → (r.cause = 0x12 ∨ r.cause = 0x13) →
      (s.core (slotCore k)).dbgAttach = true →
      ∃ x, s.takeTrap k r = { s.setSheaf k x with reports := s.reports ++ [(k, BitVec.ofNat 32 r.cause)] } ∧ x.stopped = true ∧ x.force = none ∧ x.trap = r.regs sh.m ∧ x.level = sh.level ∧ x.m = sh.m ∧ x.pc = sh.pc ∧
        x.regs = sh.regs) ∧
  (
    (∀ (s : State) (k : Nat) (sh : Sheaf) (skip : Bool), s.sheaf k = some sh → sh.stopped = true →
      let m := sh.trap.amask &&& sh.live
      let e := sh.trap.rmask &&& m
      (skip = true ∨ e = 0 → sh.force = none → exec (.debugResume k skip) s =
          .next (((s.setSheaf k { sh with stopped := false, m := m, pc := sh.trap.npc, bpSkip := [] }).reconverge k).endIfDone k)) ∧
        (skip = false → e ≠ 0 → exec (.debugResume k skip) s = .next (s.setSheaf k
          { sh with stopped := false, m := m, pc := sh.trap.pc, force := some e, chain := 0 }))) ∧
    (∀ (s : State) (k : Nat) (sh : Sheaf) (r t : Nat) (v : Word), s.sheaf k = some sh → sh.stopped = true → r < 256 → t < 32 →
      exec (.debugRegisterAccess k r t (some v)) s = .next (s.setSheaf k ((sh.setReg r t v).setClasses [r] .var)) ∧
      exec (.debugRegisterAccess k r t none) s = .next { s with reports := s.reports ++ [(r * 32 + t, sh.reg r t)] }))

/-- R227, R253 to R256: LD and ST. Every executing thread's access goes into one window entry, aligned to the access size. R257
to R259: LDTG brings the element index, STTG the word and the tag, TAGWR the tag; a counter's or a reserved format code in a tag
operand raises FORMAT at issue; STTG aligns to 4 bytes, the others need no alignment. R256, R258: the bytes that the threads of
one store lay into their block, and its tag. Each byte that some thread covers is the one of the highest-numbered such thread,
at the little-endian place of its operand; no other byte is written. ST and STB leave the tag; STTG sets it to C[15:0] of the
highest-numbered thread; TAGWR sets it to B[15:0] of that thread and writes no byte. -/
def Obligations.LoadStoreStart : Prop :=
  (
    (∀ (o : Ops) (f : Form) (s : State) (k : Nat) (sh : Sheaf) (w : Workgroup), Starts s (.ld o) o f k sh w →
      EntryClaim (.ld o) o f s k sh w (2 ^ (o.mod.toNat % 8)) (fun _ => none)
        (fun t => { addr := pointerEa (startCtx s o f k sh w) o t, data := 0, data2 := 0 })) ∧
    (∀ (o : Ops) (f : Form) (s : State) (k : Nat) (sh : Sheaf) (w : Workgroup), Starts s (.st o) o f k sh w →
      EntryClaim (.st o) o f s k sh w (2 ^ (o.mod.toNat % 8)) (fun _ => none)
        (fun t => { addr := pointerEa (startCtx s o f k sh w) o t,
                    data := srcValue128 (startCtx s o f k sh w).sh (startCtx s o f k sh w).ext f.b o.b t, data2 := 0 }))) ∧
  (
    (∀ (o : Ops) (f : Form) (s : State) (k : Nat) (sh : Sheaf) (w : Workgroup), Starts s (.ldtg o) o f k sh w →
      let c := startCtx s o f k sh w
      EntryClaim (.ldtg o) o f s k sh w 1 (fun _ => none)
        (fun t => { addr := pointerEa c o t, data := (srcValue c.sh c.ext f.b o.b t).setWidth 128, data2 := 0 })) ∧
    (∀ (o : Ops) (f : Form) (s : State) (k : Nat) (sh : Sheaf) (w : Workgroup), Starts s (.tagrd o) o f k sh w →
      EntryClaim (.tagrd o) o f s k sh w 1 (fun _ => none)
        (fun t => { addr := pointerEa (startCtx s o f k sh w) o t, data := 0, data2 := 0 })) ∧
    (∀ (o : Ops) (f : Form) (s : State) (k : Nat) (sh : Sheaf) (w : Workgroup), Starts s (.sttg o) o f k sh w →
      let c := startCtx s o f k sh w
      EntryClaim (.sttg o) o f s k sh w 4
        (fun e => if (threadsOf e).any (fun t => 8 < (srcValue c.sh c.ext f.c o.c t).toNat / 256 % 256) then some 0x08 else none)
        (fun t => { addr := pointerEa c o t, data := (srcValue c.sh c.ext f.b o.b t).setWidth 128, data2 := srcValue c.sh c.ext f.c o.c t })) ∧
    (∀ (o : Ops) (f : Form) (s : State) (k : Nat) (sh : Sheaf) (w : Workgroup), Starts s (.tagwr o) o f k sh w →
      let c := startCtx s o f k sh w
      EntryClaim (.tagwr o) o f s k sh w 1
        (fun e => if (threadsOf e).any (fun t => 8 < (srcValue c.sh c.ext f.b o.b t).toNat / 256 % 256) then some 0x08 else none)
        (fun t => { addr := pointerEa c o t, data := (srcValue c.sh c.ext f.b o.b t).setWidth 128, data2 := 0 })) ∧
    (∀ (o : Ops) (f : Form) (s : State) (k : Nat) (sh : Sheaf) (w : Workgroup), Starts s (.tagwr o) o f k sh w →
      let c := startCtx s o f k sh w
      let bad := maskOf (fun t => c.e.getLsbD t && decide (8 < (srcValue c.sh c.ext f.b o.b t).toNat / 256 % 256))
      bad ≠ 0 → s.windowFree k (.tagwr o) = true → (∀ t, t < 32 → c.e.getLsbD t = true → ∃ h, s.locate w (pointerEa c o t) = some (.dev h)) →
        exec (.tagwr o) s = .next ((s.setSheaf k sh.atHead).issueTrap k (.tagwr o) 0x08 0 bad c.e)) ∧
    (∀ (o : Ops) (f : Form) (s : State) (k : Nat) (sh : Sheaf) (w : Workgroup), Starts s (.sttg o) o f k sh w →
      let c := startCtx s o f k sh w
      let bad := maskOf (fun t => c.e.getLsbD t && decide (8 < (srcValue c.sh c.ext f.c o.c t).toNat / 256 % 256))
      bad ≠ 0 → s.windowFree k (.sttg o) = true →
        (∀ t, t < 32 → c.e.getLsbD t = true → (pointerEa c o t).toNat % 4 = 0 ∧ ∃ h, s.locate w (pointerEa c o t) = some (.dev h)) →
        exec (.sttg o) s = .next ((s.setSheaf k sh.atHead).issueTrap k (.sttg o) 0x08 0 bad c.e))) ∧
  (
    ∀ (i : Instr) (thr : Map ThreadReq) (m : TMask),
      let r := storeBytesOf i thr m
      let has (t : Nat) (y : ThreadReq) : Prop := t < 32 ∧ m.getLsbD t = true ∧ mapFind thr t = some y
      let covers (n b t : Nat) : Prop := ∃ y, has t y ∧ y.addr.toNat % 64 ≤ b ∧ b < y.addr.toNat % 64 + n
      let laid (n : Nat) : Prop := ∀ b, b < 64 →
        (r.2.1.getLsbD b = true ↔ ∃ t, covers n b t) ∧
        ∀ t y, has t y → covers n b t → (∀ u, t < u → ¬covers n b u) →
          r.1.extractLsb' (8 * b) 8 = y.data.extractLsb' (8 * (b - y.addr.toNat % 64)) 8
      let last (t : Nat) (y : ThreadReq) : Prop := has t y ∧ ∀ u z, t < u → ¬has u z
      (∀ o, i = .st o ∨ i = .stb o → laid (2 ^ (o.mod.toNat % 8)) ∧ r.2.2 = none) ∧
      (∀ o, i = .sttg o → laid 4 ∧ ((∀ t y, ¬has t y) → r.2.2 = none) ∧ ∀ t y, last t y → r.2.2 = some (y.data2.extractLsb' 0 16)) ∧
      (∀ o, i = .tagwr o → r.1 = 0 ∧ r.2.1 = 0 ∧ ((∀ t y, ¬has t y) → r.2.2 = none) ∧ ∀ t y, last t y → r.2.2 = some (y.data.extractLsb' 0 16)))

/-- R228: an entry's requests are one for each distinct 64-byte block, each with exactly the threads whose address lies in it.
R227 to R230, R225, R226: sending the requests of a sheaf changes no register, no byte of device memory or local store and no
tag; it does not pass time. -/
def Obligations.SendingRequests : Prop :=
  (
    ∀ (thr : Map ThreadReq), mapSorted thr = true → (∀ x ∈ thr, x.1 < 32) →
      ((blkReqs thr).map (fun b => b.base)).Nodup ∧
      (∀ x ∈ thr, ∃ b ∈ blkReqs thr, b.base = blkBase x.2.addr) ∧
      (∀ b ∈ blkReqs thr, b.stage = .held ∧ ∀ t, t < 32 →
        (b.mask.getLsbD t = true ↔ ∃ r, (t, r) ∈ thr ∧ blkBase r.addr = b.base))) ∧
  (
    ∀ (s : State) (k : Nat), (s.pump k).mem = s.mem ∧ (s.pump k).memTag = s.memTag ∧ (s.pump k).ls = s.ls ∧ (s.pump k).lsTag = s.lsTag ∧
      (s.pump k).clk = s.clk ∧ ∀ j x, s.sheaf j = some x → ∃ y, (s.pump k).sheaf j = some y ∧ y.regs = x.regs ∧ y.pc = x.pc ∧ y.m = x.m ∧
        y.live = x.live ∧ y.stack = x.stack ∧ y.level = x.level ∧ y.trap = x.trap)

/-- R127, R156, R228: the answer to a block of a load gives each of its threads without a result its value, under D and NW
alone; a latch is written at issue only. The block is done. While another block of the entry is open, the entry stays with the
threads that are left and its registers stay pending. At its last block the entry leaves the window and its registers are no
longer pending. Threads that fail at the response keep the entry, held for their response-time trap (R223, R371), and get no
value; their registers are no longer pending either (log 91, DEDUCED). R256, R136: what LD takes from its block for a thread,
and that a block tagged 0xA0 or poisoned words answer with a cause instead (R254, R381). R257, R66, R67: LDTG takes element b
mod k of the k of its block's format, scaled and rounded to FP32 by RNE; a tag of 0xA0 raises ALLOWANCE_OBJECT, code 0 or a
reserved one FORMAT. R259: TAGRD takes the tag, of any code. -/
def Obligations.LoadedValue : Prop :=
  (
    ∀ (s : State) (id : Nat) (base : DWord) (e : WinEntry) (b : BlkReq) (o : Ops) (f : Form) (sh : Sheaf),
      mapFind s.win id = some e → e.instr.form = some (o, f) → f.dst ≠ .none → s.sheaf e.sheaf = some sh →
      e.blks.find? (fun y => y.base == base && y.stage == .sent) = some b → e.kept = false → e.order = none → e.remote = false →
      e.instr.acquires = false → e.fails = [] →
      let m := b.mask &&& e.left
      let alone : Prop := ∀ y ∈ e.blks, y.base = base ∨ y.stage = .done
      let gave (vals : Map (BitVec 128)) (x : Sheaf) : Prop :=
        (o.nw = false → ∀ v ∈ vals, m.getLsbD v.1 = true → ∀ j, j < f.dst.width.span → x.reg (o.d.toNat + j) v.1 = v.2.extractLsb' (32 * j) 32) ∧
        (∀ u r, u < 32 → ((∀ v ∈ vals, v.1 ≠ u) ∨ m.getLsbD u = false ∨ o.nw = true ∨ r < o.d.toNat ∨ o.d.toNat + f.dst.width.span ≤ r) →
          x.reg r u = sh.reg r u)
      (∀ vals : Map (BitVec 128), mapSorted vals = true → ¬alone →
        ∃ (g : State) (x : Sheaf) (e' : WinEntry), s.answerBlk id base vals [] = g ∧
          g = { s with win := mapInsert s.win id e', sheaves := g.sheaves } ∧ g.sheaf e.sheaf = some x ∧
          (∀ j, j ≠ e.sheaf → g.sheaf j = s.sheaf j) ∧ gave vals x ∧
          x = { sh with regs := x.regs, rpoison := x.rpoison } ∧
          e' = { e with left := e.left &&& ~~~m, blks := e.blks.map (fun y => if y.base = base then { y with stage := .done } else y) }) ∧
      (∀ vals : Map (BitVec 128), mapSorted vals = true → alone →
        ∃ (g : State) (x : Sheaf), s.answerBlk id base vals [] = (g.pump e.sheaf).reap e.sheaf ∧
          g = { s.setSheaf e.sheaf x with win := mapErase s.win id } ∧ gave vals x ∧
          x = { sh with regs := x.regs, rpoison := x.rpoison, pend := x.pend, pendTill := x.pendTill, cls := x.cls } ∧
          ∀ r, r < 256 → x.pend.getLsbD r = (sh.pend.getLsbD r && !(dstRegs o f.dst).contains r)) ∧
      (∀ (fails : List (Nat × Nat)) (c : BitVec 8) (bad : TMask), alone → sh.ended = false → Instr.takesEntry e.instr = true → c ≠ 0x0C → bad ≠ 0 →
        (∀ y ∈ fails, y.2 = c.toNat) → (∀ t, t < 32 → (bad.getLsbD t = true ↔ m.getLsbD t = true ∧ ∃ y ∈ fails, y.1 = t)) →
        ∃ (g : State) (x : Sheaf) (e' : WinEntry), s.answerBlk id base [] fails = (g.pump e.sheaf).reap e.sheaf ∧
          g = { s.setSheaf e.sheaf x with win := g.win } ∧ mapFind g.win id = some e' ∧ (∀ j, j ≠ id → mapFind g.win j = mapFind s.win j) ∧
          e'.kept = true ∧ e'.left = bad ∧ e'.instr = e.instr ∧ e'.thr = e.thr ∧ e'.pc = e.pc ∧ e'.npc = e.npc ∧
          x = { sh with pend := x.pend, pendTill := x.pendTill,
                        respTraps := sh.respTraps ++ [{ seq := id, cause := c, info := 0, mask := bad, pc := e.pc, level := e.level, entry := some id }] } ∧
          ∀ r, r < 256 → x.pend.getLsbD r = (sh.pend.getLsbD r && !(dstRegs o f.dst).contains r))) ∧
  (
    (∀ (o : Ops) (r : ThreadReq) (x : BlkAns),
      let n := 2 ^ (o.mod.toNat % 8)
      let off := r.addr.toNat % 64
      let v := x.blk.toNat / 2 ^ (8 * off) % 2 ^ (8 * n)
      (x.tag = 0xA000 → loadValue (.ld o) r x = .error 0x09) ∧
      (x.tag ≠ 0xA000 → x.poison &&& wordsOf off n ≠ 0 → loadValue (.ld o) r x = .error 0x0C) ∧
      (x.tag ≠ 0xA000 → x.poison &&& wordsOf off n = 0 →
        loadValue (.ld o) r x = .ok (if o.mod.getLsbD 3 ∧ n < 4 ∧ 2 ^ (8 * n - 1) ≤ v then BitVec.ofNat 128 (2 ^ 32 + v - 2 ^ (8 * n))
          else BitVec.ofNat 128 v))) ∧
    (∀ (o : Ops) (r : ThreadReq) (x : BlkAns),
      let code := x.tag.toNat / 256
      let bits := if code = 1 then 32 else if code = 2 ∨ code = 3 then 16 else if code = 6 then 4 else 8
      let k := r.data.toNat % 2 ^ 32 % (512 / bits)
      let v := x.blk.toNat / 2 ^ (k * bits) % 2 ^ bits
      let scale := x.tag.toNat % 256
      let lies : BitVec 16 := BitVec.ofNat 16 (2 ^ (k * bits / 32))
      (code = 0xA0 → loadValue (.ldtg o) r x = .error 0x09) ∧
      (code ≠ 0xA0 → (code = 0 ∨ 8 < code) → loadValue (.ldtg o) r x = .error 0x08) ∧
      (1 ≤ code → code ≤ 8 → x.poison &&& lies ≠ 0 → loadValue (.ldtg o) r x = .error 0x0C) ∧
      (1 ≤ code → code ≤ 8 → x.poison &&& lies = 0 →
        (scale = 0 → loadValue (.ldtg o) r x = .ok 0) ∧
        (scale = 255 → loadValue (.ldtg o) r x = .ok 0x7FC00000) ∧
        (scale ≠ 0 → scale ≠ 255 →
          loadValue (.ldtg o) r x = .ok ((toFP32 .rne ((elemValue code v).scale ((scale : Int) - 127))).setWidth 128)))) ∧
    (∀ (o : Ops) (r : ThreadReq) (x : BlkAns),
      (x.poison ≠ 0 → loadValue (.tagrd o) r x = .error 0x0C) ∧
      (x.poison = 0 → loadValue (.tagrd o) r x = .ok (x.tag.setWidth 128))))

/-- R260, R261: PREF and CCTL move the pc, change no value: no register, no byte of memory or local store and no tag. CCTL traps
with ADDRESS where an executing thread's address is not in space 0; PREF never traps. -/
def Obligations.CacheHints : Prop :=
  (∀ (o : Ops) (f : Form) (s : State) (k : Nat) (sh : Sheaf) (w : Workgroup), Starts s (.pref o) o f k sh w →
    ∃ u n, exec (.pref o) s = .next (((u : State).setSheaf k { sh.issued with pc := sh.pc + BitVec.ofNat 64 (Instr.pref o).size }).finish k o.hd n) ∧
      u = { s with net := u.net, sheaves := u.sheaves } ∧ u.sheaves = mapInsert s.sheaves k sh.atHead) ∧
  (∀ (o : Ops) (f : Form) (s : State) (k : Nat) (sh : Sheaf) (w : Workgroup), Starts s (.cctl o) o f k sh w →
    let c := startCtx s o f k sh w
    ((∀ t, t < 32 → c.e.getLsbD t = true → ∃ h, s.locate w (pointerEa c o t) = some (.dev h)) →
      ∃ (u : State) (y : List FetchLine) (n : Nat), exec (.cctl o) s = .next (u.finish k o.hd n) ∧
        u.mem = s.mem ∧ u.memTag = s.memTag ∧ u.ls = s.ls ∧ u.lsTag = s.lsTag ∧ u.wgs = s.wgs ∧ u.win = s.win ∧ u.nodes = s.nodes ∧
        u.sheaf k = some { sh.issued with pc := sh.pc + BitVec.ofNat 64 (Instr.cctl o).size, fbuf := y } ∧
        ∀ j, j ≠ k → (u.sheaf j).map (fun x => { x with fbuf := [] }) = (s.sheaf j).map (fun x => { x with fbuf := [] })) ∧
    ((∃ t, t < 32 ∧ c.e.getLsbD t = true ∧ ¬∃ h, s.locate w (pointerEa c o t) = some (.dev h)) →
      ∃ bad, bad ≠ 0 ∧ exec (.cctl o) s = .next ((s.setSheaf k sh.atHead).issueTrap k (.cctl o) 0x06 0 bad c.e)))

/-- R263, R265: LDB and STB. Each thread's element lies at its record's place for it; out of bounds, BOUNDS 0 raises BOUNDS
before any effect, BOUNDS 1 accesses nothing and LDB's thread gets 0, BOUNDS 2 clamps. A record pointer outside the workgroup's
region raises ADDRESS, a record off a 32-byte boundary MISALIGNED; poisoned words DATA_ERROR; a malformed record, E2M1 or a base
in space 3 ILLEGAL_OPERAND. -/
def Obligations.RecordAccess : Prop :=
  (∀ (o : Ops) (f : Form) (s : State) (k : Nat) (sh : Sheaf) (w : Workgroup), Starts s (.ldb o) o f k sh w →
    RecordClaim (.ldb o) o f s k sh w (fun _ => 0)) ∧
  (∀ (o : Ops) (f : Form) (s : State) (k : Nat) (sh : Sheaf) (w : Workgroup), Starts s (.stb o) o f k sh w →
    RecordClaim (.stb o) o f s k sh w (fun t => srcValue128 (startCtx s o f k sh w).sh (startCtx s o f k sh w).ext f.c o.c t)) ∧
  (∀ (c : Ctx) (o : Ops) (r : BitVec 8) (t : Nat), o.a = .reg r →
    let end_ := c.w.lsBase + c.w.units * 65536
    ((∀ off, c.s.locate c.w (c.sh.pair r.toNat t) ≠ some (.own off)) → c.record o t = .error 0x06) ∧
    ∀ off, c.s.locate c.w (c.sh.pair r.toNat t) = some (.own off) →
      (off % 32 ≠ 0 → c.record o t = .error 0x05) ∧
      (off % 32 = 0 → end_ < off + 32 → c.record o t = .error 0x06) ∧
      (off % 32 = 0 → off + 32 ≤ end_ →
        c.record o t = .ok (bufRec ((List.range 8).map (fun i => BitVec.ofNat 32 (leNat (c.s.lsRead c.w.core (off + 4 * i) 4)))))))

/-- R334, R338 to R340: an atomic puts each executing thread's address, b and c into one window entry, aligned to its operand; a
location without a point for it raises ATOMIC_UNSUPPORTED at issue. R339, R340, R336: what an atomic computes at its point. The
operations on integers, FP32 and packed elements; for each instruction the new value from the old one and its operands; one
thread's operation on its block: the old value is what the block held, the operand's bytes become the new value, every other
byte stays, and a failed compare writes nothing; and the threads of one request one after another in ascending order, each with
the value immediately before its own. -/
def Obligations.AtomicStart : Prop :=
  (
    (∀ (o : Ops) (f : Form) (s : State) (k : Nat) (sh : Sheaf) (w : Workgroup), Starts s (.atom o) o f k sh w → AtomicClaim (.atom o) o f s k sh w 4) ∧
    (∀ (o : Ops) (f : Form) (s : State) (k : Nat) (sh : Sheaf) (w : Workgroup), Starts s (.atom64 o) o f k sh w → AtomicClaim (.atom64 o) o f s k sh w 8) ∧
    (∀ (o : Ops) (f : Form) (s : State) (k : Nat) (sh : Sheaf) (w : Workgroup), Starts s (.cas o) o f k sh w → AtomicClaim (.cas o) o f s k sh w 4) ∧
    (∀ (o : Ops) (f : Form) (s : State) (k : Nat) (sh : Sheaf) (w : Workgroup), Starts s (.cas64 o) o f k sh w → AtomicClaim (.cas64 o) o f s k sh w 8) ∧
    (∀ (o : Ops) (f : Form) (s : State) (k : Nat) (sh : Sheaf) (w : Workgroup), Starts s (.fatom o) o f k sh w → AtomicClaim (.fatom o) o f s k sh w 4) ∧
    (∀ (o : Ops) (f : Form) (s : State) (k : Nat) (sh : Sheaf) (w : Workgroup), Starts s (.hatom2 o) o f k sh w → AtomicClaim (.hatom2 o) o f s k sh w 4) ∧
    (∀ (o : Ops) (f : Form) (s : State) (k : Nat) (sh : Sheaf) (w : Workgroup), Starts s (.red o) o f k sh w →
      AtomicClaim (.red o) o f s k sh w (if o.mod.getLsbD 4 then 8 else 4)) ∧
    (∀ (o : Ops) (f : Form) (s : State) (k : Nat) (sh : Sheaf) (w : Workgroup), Starts s (.fred o) o f k sh w → AtomicClaim (.fred o) o f s k sh w 4)) ∧
  (
    (∀ (n : Nat) (old b : BitVec n),
      atomInt 0 old b = old + b ∧
      (atomInt 1 old b).toInt = min old.toInt b.toInt ∧ (atomInt 2 old b).toInt = max old.toInt b.toInt ∧
      (atomInt 3 old b).toNat = min old.toNat b.toNat ∧ (atomInt 4 old b).toNat = max old.toNat b.toNat ∧
      atomInt 5 old b = old &&& b ∧ atomInt 6 old b = old ||| b ∧ atomInt 7 old b = old ^^^ b ∧ atomInt 8 old b = b ∧
      (b.toNat ≤ old.toNat → atomInt 9 old b = 0) ∧ (old.toNat < b.toNat → atomInt 9 old b = old + 1) ∧
      (old = 0 ∨ b.toNat < old.toNat → atomInt 10 old b = b) ∧ (old ≠ 0 → old.toNat ≤ b.toNat → atomInt 10 old b = old - 1)) ∧
    (∀ old b : Word,
      atomFp 0 old b = toFP32 .rne (FVal.add .rne (ofFP32 old) (ofFP32 b)) ∧
      atomFp 1 old b = toFP32 .rne (FVal.minmax false (ofFP32 old) (ofFP32 b)) ∧
      atomFp 2 old b = toFP32 .rne (FVal.minmax true (ofFP32 old) (ofFP32 b)) ∧
      ∀ bf : Bool, ∀ op e, op ≤ 2 → e < 2 →
        let g := if bf then fmtBF16 else fmtFP16
        let x := g.decode (old.extractLsb' (16 * e) 16).toNat
        let y := g.decode (b.extractLsb' (16 * e) 16).toNat
        ((atomPacked bf op old b).extractLsb' (16 * e) 16).toNat =
          g.encode .rne false false (if op = 0 then FVal.add .rne x y else FVal.minmax (op == 2) x y)) ∧
    (∀ (o : Ops) (old b c : DWord),
      let op := o.mod.toNat % 16
      let lo (x : DWord) : Word := x.extractLsb' 0 32
      let narrow : DWord := (atomInt op (lo old) (lo b)).setWidth 64
      let whole : DWord := atomInt op old b
      let fp : DWord := (atomFp op (lo old) (lo b)).setWidth 64
      let packed (p : Nat) : DWord := (atomPacked (o.mod.getLsbD 4) p (lo old) (lo b)).setWidth 64
      atomNew (.atom o) old b c = some narrow ∧ atomNew (.atom64 o) old b c = some whole ∧
      atomNew (.red o) old b c = some (if o.mod.getLsbD 4 then whole else narrow) ∧
      (lo old = lo c → atomNew (.cas o) old b c = some ((lo b).setWidth 64)) ∧ (lo old ≠ lo c → atomNew (.cas o) old b c = none) ∧
      (old = c → atomNew (.cas64 o) old b c = some b) ∧ (old ≠ c → atomNew (.cas64 o) old b c = none) ∧
      atomNew (.fatom o) old b c = some fp ∧ atomNew (.hatom2 o) old b c = some (packed op) ∧
      (op < 3 → atomNew (.fred o) old b c = some fp) ∧ (op = 3 → atomNew (.fred o) old b c = some (packed 0))) ∧
    (∀ (i : Instr) (blk : Blk) (x : AtomItem),
      let n := atomBytes i
      let off := x.addr.toNat % 64
      let old : DWord := BitVec.ofNat 64 (blk.toNat / 2 ^ (8 * off) % 2 ^ (8 * n))
      let r := atomStep i blk x
      (∀ o, (i = .atom64 o ∨ i = .cas64 o → n = 8) ∧ (i = .red o → n = if o.mod.getLsbD 4 then 8 else 4) ∧
        (i = .atom o ∨ i = .cas o ∨ i = .fatom o ∨ i = .hatom2 o ∨ i = .fred o → n = 4)) ∧
      r.1 = old ∧
      (atomNew i old x.b x.c = none → r.2.1 = blk ∧ r.2.2 = 0) ∧
      (∀ v, atomNew i old x.b x.c = some v → ∀ j, j < 64 →
        r.2.2.getLsbD j = (decide (off ≤ j) && decide (j < off + n)) ∧
        r.2.1.extractLsb' (8 * j) 8 = if off ≤ j ∧ j < off + n then v.extractLsb' (8 * (j - off)) 8 else blk.extractLsb' (8 * j) 8)) ∧
    (∀ (i : Instr) (blk : Blk) (xs : List AtomItem) (x : AtomItem),
      atomApply (.instr i) blk [] = ([], blk, 0) ∧
      let r := atomApply (.instr i) blk xs
      let t := atomStep i r.2.1 x
      atomApply (.instr i) blk (xs ++ [x]) = (mapInsert r.1 x.thread t.1, t.2.1, r.2.2 ||| t.2.2)) ∧
    (∀ (thr : Map ThreadReq) (m : TMask), ((atomItems thr m).map (fun x => x.thread)).Pairwise (· < ·) ∧
      ∀ x, x ∈ atomItems thr m ↔ x.thread < 32 ∧ m.getLsbD x.thread = true ∧
        ∃ y, mapFind thr x.thread = some y ∧ x = { thread := x.thread, addr := y.addr, b := y.data.extractLsb' 0 64, c := y.data2 }))

/-- R345, R317: FENCE with an executing thread holds its sheaf at itself, with a release begun at its scope (only the waiting
for earlier accesses with .acq alone, DEDUCED, log 49) and the acquire kept for when it is over; without one only the pc moves.
R317, R318, R345: RELEASE_DONE at a release that waits for nothing more and whose scope asks for no later stage ends it: a FENCE
makes its acquire and its sheaf goes on past it, a barrier arrives, an entry's requests may leave. One that still waits stays.
R318: what an acquire drops from its core's L1 and, at DEVICE scope and wider, from the remote sections of its die; it keeps
lines in the atomic state, and everything at LANES and CORE scope. -/
def Obligations.FencesAndReleases : Prop :=
  (
    ∀ (o : Ops) (f : Form) (s : State) (k : Nat) (sh : Sheaf) (w : Workgroup), Starts s (.fence o) o f k sh w →
      let i : Instr := .fence o
      let e := (startCtx s o f k sh w).e
      (e = 0 → exec i s = .next ((s.setSheaf k { sh.issued with pc := sh.pc + BitVec.ofNat 64 i.size }).finish k o.hd 1)) ∧
      (e ≠ 0 → s.acquirePending k = false → s.releasePending k = false →
        exec i s = .next (heldRelease s k sh o.hd 1 (if o.attr.order.getLsbD 1 then actsAs o.attr.scope.toNat else 0)
          (.fence i (if o.attr.order.getLsbD 0 then some (actsAs o.attr.scope.toNat) else none))))) ∧
  (
    ∀ (s : State) (k id : Nat) (r : Release) (sh : Sheaf), s.rels.find? (fun x => x.2.sheaf == some k) = some (id, r) →
      mapSorted s.rels = true → r.sheaf = some k → s.sheaf k = some sh → (∀ g ∈ s.net, g.p.msg ≠ .marked (.rel id)) →
      (s.stageDone id r = false → exec (.releaseDone k) s = .next s) ∧
      (s.stageDone id r = true → (5 ≤ r.stage ∨ r.scope < stageScope (r.stage + 1)) →
        let u : State := { s with rels := mapErase s.rels id }
        (∀ i acq, r.then_ = .fence i acq →
          exec (.releaseDone k) s = .next (wentPast (match acq with | some sc => u.acquire r.core sc | none => u) k i sh)) ∧
        (∀ i b count e, r.then_ = .barrier i b count e → exec (.releaseDone k) s = .next (u.arrive k i b count e true)) ∧
        (∀ n, r.then_ = .entry n →
          exec (.releaseDone k) s = .next ((({ u with win := mapModify u.win n (fun e => { e with order := none }) } : State).pump k).closeNone n)))) ∧
  (
    ∀ (s : State) (core scope : Nat),
      (scope < 3 → s.acquire core scope = s) ∧
      (3 ≤ scope → ((s.acquire core scope).core core).l1 = (s.core core).l1.filter (fun l => l.atomic)) ∧
      (3 ≤ scope → scope < 5 → (s.acquire core scope).slices = s.slices) ∧
      (5 ≤ scope → ∀ n x, mapFind s.slices n = some x → ∃ y, mapFind (s.acquire core scope).slices n = some y ∧
        y.lines = if n / 16 = coreDie core then x.lines.filter (fun l => !isRemote (coreDie core) l.va) else x.lines) ∧
      (s.acquire core scope).mem = s.mem ∧ (s.acquire core scope).sheaves = s.sheaves)

/-- R347: an arrival takes the count (or the live sheaves) at the start of a phase, counts, and flips the phase when the
expected count is reached; a .cnt count that differs within a phase makes no arrival. R346, R347: BAR, BARA and BARW. A barrier
number above 15 or a count outside 1 to S raises ILLEGAL_OPERAND at issue; a relaxed BAR goes on past itself and waits while the
phase it found stays; BARA gives the phase it found as its token; BARW waits while the phase equals bit 0 of its token. DEDUCED
(log 65): BAR and BARA with a release stay at their pc until it is done, and then arrive. -/
def Obligations.WorkgroupBarriers : Prop :=
  (
    ∀ (b : Barrier) (live : Nat) (count : Option Nat),
      let expected := if b.arrived = 0 then count.getD live else b.expected
      (b.arrived ≠ 0 → (∃ n, count = some n ∧ n ≠ b.expected) → b.arrive live count = none) ∧
      ((b.arrived = 0 ∨ ∀ n, count = some n → n = b.expected) → ∃ nb, b.arrive live count = some nb ∧ nb.expected = expected ∧
        (expected ≤ b.arrived + 1 → nb.arrived = 0 ∧ nb.phase = !b.phase) ∧
        (b.arrived + 1 < expected → nb.arrived = b.arrived + 1 ∧ nb.phase = b.phase))) ∧
  (
    (∀ (o : Ops) (f : Form) (s : State) (k : Nat) (sh : Sheaf) (w : Workgroup), Starts s (.bar o) o f k sh w → BarClaim (.bar o) o f s k sh w) ∧
    (∀ (o : Ops) (f : Form) (s : State) (k : Nat) (sh : Sheaf) (w : Workgroup), Starts s (.bara o) o f k sh w → BarClaim (.bara o) o f s k sh w) ∧
    (∀ (o : Ops) (s : State) (k b : Nat) (sh : Sheaf) (w : Workgroup) (count : Option Nat) (nb : Barrier) (e : TMask),
      s.sheaf k = some sh → mapFind s.wgs sh.wg = some w → b < w.bars.length → (w.bar b).arrive (s.liveSheaves sh.wg) count = some nb →
      let u : State := { s with wgs := mapInsert s.wgs sh.wg { w with bars := w.bars.set b nb } }
      s.arrive k (.bar o) b count e false =
        ((u.setSheaf k { sh with pc := sh.pc + BitVec.ofNat 64 (Instr.bar o).size }).finish k o.hd 1).onSheaf k (fun x =>
          if nb.phase = (w.bar b).phase ∧ x.ended = false then { x with wait := .barrier b (w.bar b).phase } else x) ∧
      (∃ y n, s.arrive k (.bara o) b count e false = (u.setSheaf k y).finish k o.hd n ∧
        LaneEffect sh y (.bara o) o .w32 e (fun _ => if (w.bar b).phase then 1 else 0)) ∧
      s.arrive k (.bar o) b count e true = (wentPast u k (.bar o) sh).onSheaf k (fun x =>
        if nb.phase = (w.bar b).phase ∧ x.ended = false then { x with wait := .barrier b (w.bar b).phase } else x) ∧
      (∃ y, s.arrive k (.bara o) b count e true = wentPast u k (.bara o) y ∧
        y = { sh with regs := y.regs, rpoison := y.rpoison, cls := y.cls } ∧
        (∀ t, t < 32 → e.getLsbD t = true → o.nw = false → y.reg o.d.toNat t = if (w.bar b).phase then 1 else 0) ∧
        ∀ t r, t < 32 → (e.getLsbD t = false ∨ o.nw = true ∨ r ≠ o.d.toNat) → y.reg r t = sh.reg r t)) ∧
    (∀ (o : Ops) (f : Form) (s : State) (k : Nat) (sh : Sheaf) (w : Workgroup), Starts s (.barw o) o f k sh w →
      let c := startCtx s o f k sh w
      let lead := (threadsOf c.e).headD 0
      let b := (low (srcValue c.sh c.ext f.a o.a lead)).toNat
      let token := (srcValue c.sh c.ext f.b o.b lead).getLsbD 0
      let done := (s.setSheaf k { sh.issued with pc := sh.pc + BitVec.ofNat 64 (Instr.barw o).size }).finish k o.hd 1
      (c.e = 0 → exec (.barw o) s = .next done) ∧
      (c.e ≠ 0 → 15 < b → exec (.barw o) s = .next ((s.setSheaf k sh.atHead).issueTrap k (.barw o) 0x02 0 c.e c.e)) ∧
      (c.e ≠ 0 → b ≤ 15 → exec (.barw o) s = .next
        (done.onSheaf k (fun x => if (w.bar b).phase = token then { x with wait := .barrier b token } else x)))))

/-- R348 to R350: BOINIT takes a count to 2^31 - 1, BOEXP keeps EXPECTED in that range, BOEXP and BOARR need INIT; BOWAIT waits
while PHASE equals bit 0 of its token and then acquires. R349: an update adds to EXPECTED and ARRIVED, and flips PHASE at most
once, taking EXPECTED off ARRIVED. R347, R349, R350, R186: what ends a wait. A barrier's or an object's flip makes the waiting
sheaf ready 2 cycles later, after an object's acquire; SLEEP's time passes. Until then nothing changes. -/
def Obligations.BarrierObjects : Prop :=
  (
    (∀ (o : Ops) (f : Form) (s : State) (k : Nat) (sh : Sheaf) (w : Workgroup), Starts s (.boinit o) o f k sh w →
      ObjectClaim (.boinit o) o f s k sh w (fun _ b => decide (b.toNat < 2 ^ 31))) ∧
    (∀ (o : Ops) (f : Form) (s : State) (k : Nat) (sh : Sheaf) (w : Workgroup), Starts s (.boexp o) o f k sh w →
      ObjectClaim (.boexp o) o f s k sh w (fun x b => x.init && decide ((x.expected + b).toNat < 2 ^ 31))) ∧
    (∀ (o : Ops) (f : Form) (s : State) (k : Nat) (sh : Sheaf) (w : Workgroup), Starts s (.boarr o) o f k sh w →
      ObjectClaim (.boarr o) o f s k sh w (fun x _ => x.init)) ∧
    (∀ (o : Ops) (f : Form) (s : State) (k off : Nat) (sh : Sheaf) (w : Workgroup), Starts s (.bowait o) o f k sh w →
      let c := startCtx s o f k sh w
      let lead := (threadsOf c.e).headD 0
      let token := (srcValue c.sh c.ext f.b o.b lead).getLsbD 0
      let done := (s.setSheaf k { sh.issued with pc := sh.pc + BitVec.ofNat 64 (Instr.bowait o).size }).finish k o.hd 1
      (c.e = 0 → exec (.bowait o) s = .next done) ∧
      (c.e ≠ 0 → s.acquirePending k = false → s.releasePending k = false → c.boBusy o = false → s.locate w (pointerEa c o lead) = some (.own off) → off % 16 = 0 →
        (s.boAt w.core off).init = true →
        let acq := if o.attr.order.getLsbD 0 then some (actsAs o.attr.scope.toNat) else none
        exec (.bowait o) s = .next (if (s.boAt w.core off).phase = token
          then done.onSheaf k (fun x => { x with wait := .object (pointerEa c o lead) token acq })
          else match acq with | some sc => done.acquire (slotCore k) sc | none => done)))) ∧
  (
    (∀ (b : BObj) (dexp darr : Word), 0 < (b.expected + dexp).toNat → (b.expected + dexp).toNat ≤ (b.arrived + darr).toNat →
      b.update dexp darr = { b with expected := b.expected + dexp, arrived := b.arrived + darr - (b.expected + dexp), phase := !b.phase }) ∧
    (∀ (b : BObj) (dexp darr : Word), ((b.expected + dexp).toNat = 0 ∨ (b.arrived + darr).toNat < (b.expected + dexp).toNat) →
      b.update dexp darr = { b with expected := b.expected + dexp, arrived := b.arrived + darr }) ∧
    (∀ (s : State) (core off : Nat) (dexp darr : Word), mapFind s.bos (lsKey core off / 16) ≠ some true →
      (s.boUpdate core off dexp darr).boAt core off = (s.boAt core off).update dexp darr) ∧
    (∀ (s : State) (core off d a : Nat) (dexp darr : Word), mapFind s.bos (lsKey core off / 16) ≠ some true →
      (lsKey d a < lsKey core off ∨ lsKey core off + 16 ≤ lsKey d a) → (s.boUpdate core off dexp darr).lsByte d a = s.lsByte d a)) ∧
  (
    (∀ (s : State) (k b : Nat) (p : Bool) (sh : Sheaf) (w : Workgroup), s.sheaf k = some sh → sh.wait = .barrier b p → mapFind s.wgs sh.wg = some w →
      exec (.barrierWake k) s = .next (if (w.bar b).phase = p then s else s.setSheaf k { sh with wait := .none, readyAt := s.clk + 2 })) ∧
    (∀ (s : State) (k : Nat) (a : DWord) (p : Bool) (acq : Option Nat) (sh : Sheaf), s.sheaf k = some sh → sh.wait = .object a p acq →
      exec (.boWake k) s = .next (if (s.boAt (slotCore k) (a.toNat % 2 ^ 24)).phase = p then s
        else (match acq with | some sc => s.acquire (slotCore k) sc | none => s).setSheaf k { sh with wait := .none, readyAt := s.clk + 2 })) ∧
    (∀ (s : State) (k till : Nat) (sh : Sheaf), s.sheaf k = some sh → sh.wait = .sleep till →
      exec (.sleepExpiry k) s = .next (if till ≤ s.clk then s.setSheaf k { sh with wait := .none, readyAt := s.clk } else s)))

/-- R188, R121, R122: CFETCH, CPIN and CUNPIN. No thread outside space 0 may be named. CFETCH of lines that are all present
leaves CODE as it was, or counted until the sheaf's earlier ones are over, one of absent lines adds one operation to CODE and
asks for each; CPIN gives 1 to the threads of a present line that is or becomes pinned and 0 where the limits refuse, and asks
for an absent line, whose threads' register is pending until it comes; CUNPIN unpins the lines named and nothing else. -/
def Obligations.CodeLines : Prop :=
  ∀ (i : Instr) (o : Ops) (f : Form) (s : State) (k : Nat) (sh : Sheaf) (w : Workgroup),
    (i = .cfetch o ∨ i = .cpin o ∨ i = .cunpin o) → Starts s i o f k sh w →
    let c := startCtx s o f k sh w
    let core := slotCore k
    let addr (t : Nat) : DWord :=
      let a := srcValue c.sh c.ext f.a o.a t
      if o.mod.getLsbD 0 then sh.pc + (((a.extractLsb' 0 32).signExtend 64) <<< 3) else a
    let line (t : Nat) : DWord := addr t &&& 0x01FFFFFFFFFFFF80
    let outside := maskOf (fun t => c.e.getLsbD t && decide ((addr t).toNat / 2 ^ 60 ≠ 0))
    let present (t : Nat) : Prop := (s.icFind core w.asid (line t)).isSome = true
    (c.e = 0 → PassesOver i o s k sh) ∧
    (c.e ≠ 0 → outside ≠ 0 → TrapsWith i s k sh 0x06 0 outside c.e) ∧
    (i = .cfetch o → c.e ≠ 0 → outside = 0 → 63 ≤ sh.cCode → StaysAt i s k sh) ∧
    (i = .cfetch o → c.e ≠ 0 → outside = 0 → sh.cCode < 63 → (∀ y ∈ (s.core core).code, y.id ≠ s.winNext ∧ 0 < y.left) →
      ∃ (u : State) (x : Sheaf) (n : Nat), exec i s = .next (u.finish k o.hd n) ∧ u.sheaf k = some x ∧ x.pc = sh.pc + BitVec.ofNat 64 i.size ∧ x.regs = sh.regs ∧
        ((∃ t, t < 32 ∧ c.e.getLsbD t = true ∧ ¬present t) → x.cCode = sh.cCode + 1 ∧
          ∀ t, t < 32 → c.e.getLsbD t = true → ¬present t → ∃ m ∈ (u.core core).icMiss, m.asid = w.asid ∧ m.va = line t) ∧
        ((∀ t, t < 32 → c.e.getLsbD t = true → present t) → (u.core core).icMiss = (s.core core).icMiss ∧
          ((∀ y ∈ (s.core core).code, ¬(y.wg = sh.wg ∧ y.idx = sh.idx)) → x.cCode = sh.cCode ∧ (u.core core).code = (s.core core).code) ∧
          ((∃ y ∈ (s.core core).code, y.wg = sh.wg ∧ y.idx = sh.idx) → x.cCode = sh.cCode + 1))) ∧
    (i = .cpin o → c.e ≠ 0 → outside = 0 → (∃ t, t < 32 ∧ c.e.getLsbD t = true ∧ ∀ t', t' < 32 → c.e.getLsbD t' = true → line t' = line t) →
      ∀ t l, t < 32 → c.e.getLsbD t = true → s.icFind core w.asid (line t) = some l → o.nw = false →
        ∃ (u : State) (x : Sheaf) (n : Nat), exec i s = .next (u.finish k o.hd n) ∧ u.sheaf k = some x ∧ x.pc = sh.pc + BitVec.ofNat 64 i.size ∧
          (x.reg o.d.toNat t = if l.pinned || (s.core core).pinRoom (line t) then 1 else 0) ∧
          (∀ r t', r ≠ o.d.toNat → t' < 32 → x.reg r t' = sh.reg r t')) ∧
    (i = .cpin o → c.e ≠ 0 → outside = 0 → o.nw = false → (∀ t, t < 32 → c.e.getLsbD t = true → present t) →
      ∃ (u : State) (x : Sheaf) (n : Nat), exec i s = .next (u.finish k o.hd n) ∧ u.sheaf k = some x ∧ x.pc = sh.pc + BitVec.ofNat 64 i.size ∧
        (∀ r t, t < 32 → (r ≠ o.d.toNat ∨ c.e.getLsbD t = false) → x.reg r t = sh.reg r t) ∧
        ∀ t l, t < 32 → c.e.getLsbD t = true → s.icFind core w.asid (line t) = some l →
          ∃ l', u.icFind core w.asid (line t) = some l' ∧ l'.lo = l.lo ∧ l'.hi = l.hi ∧ (l.pinned = true → l'.pinned = true) ∧
            x.reg o.d.toNat t = (if l'.pinned then 1 else 0) ∧ (l'.pinned = false → (u.core core).pinRoom (line t) = false)) ∧
    (∀ va : DWord, i = .cpin o → c.e ≠ 0 → outside = 0 → o.nw = false → (∀ t, t < 32 → c.e.getLsbD t = true → line t = va) →
      s.icFind core w.asid va = none → (∀ m ∈ (s.core core).icMiss, m.want = []) →
      ∃ (u : State) (x : Sheaf) (n : Nat), exec i s = .next (u.finish k o.hd n) ∧ u.sheaf k = some x ∧ x.pc = sh.pc + BitVec.ofNat 64 i.size ∧
        (∃ m ∈ (u.core core).icMiss, m.asid = w.asid ∧ m.va = va ∧
          ((s.core core).pinRoom va = true → .pin sh.wg sh.idx (some o.d.toNat) c.e ∈ m.want)) ∧
        ((s.core core).pinRoom va = true → x.pend.getLsbD o.d.toNat = true ∧ x.regs = sh.regs) ∧
        ((s.core core).pinRoom va = false → ∀ t, t < 32 → c.e.getLsbD t = true → x.reg o.d.toNat t = 0)) ∧
    (i = .cunpin o → c.e ≠ 0 → outside = 0 →
      exec i s = .next (((s.onCore core (fun x => { x with ic := x.ic.map (fun l =>
          if l.asid == w.asid && (List.range 32).any (fun t => c.e.getLsbD t && l.va == line t) then { l with pinned := false } else l) })).setSheaf k
        { sh.issued with pc := sh.pc + BitVec.ofNat 64 i.size }).finish k o.hd (if o.mod.getLsbD 0 = true ∨ (srcClass c.sh c.ext f.a o.a).isUni = true then 1 else max 1 (countThreads c.e))))

/-- R362, R353, R356, R357: the six allowance instructions take their counter from the lowest executing thread and one amount
per thread; a counter outside spaces 0 and 5 raises ADDRESS, a misaligned one MISALIGNED, ALINIT's quanta or total out of range
ILLEGAL_OPERAND; otherwise their window entry starts. R363 to R366, R389: LAUNCH, NDEC, EVSIG, CTXSV and CTXLD ask the hub, with
the operands of the lowest executing thread; the pointer of LAUNCH must lie in the workgroup's region and be a multiple of 64,
and EVSIG's vector be at most 63. R390: XLINV's checks at issue, no effect for no page; else the named translations leave the
translation caches, every L1 of its scope and every slice of its scope hold no line of the range, and the sheaf waits. -/
def Obligations.RequestsToUnits : Prop :=
  (
    ∀ (i : Instr) (o : Ops) (f : Form) (s : State) (k : Nat) (sh : Sheaf) (w : Workgroup),
      (i = .alinit o ∨ i = .altake o ∨ i = .algive o ∨ i = .alread o ∨ i = .alpeek o ∨ i = .alclose o) → Starts s i o f k sh w →
      let c := startCtx s o f k sh w
      let lead := (threadsOf c.e).headD 0
      let a := pointerEa c o lead
      let q : Word := (srcValue c.sh c.ext f.c o.c lead).extractLsb' 0 32
      let there : Prop := (∃ h, s.locate w a = some (.dev h)) ∨ ∃ h b, s.locate w a = some (.pod h b)
      let badInit : Prop := i = .alinit o ∧ (q.toNat / 65536 < q.toNat % 65536 ∨ 2 ^ 63 ≤ (srcValue c.sh c.ext f.b o.b lead).toNat)
      let thr : Map ThreadReq := (threadsOf c.e).map (fun t => (t,
        { addr := a, data := (srcValue c.sh c.ext f.b o.b t).setWidth 128, data2 := q.setWidth 64 }))
      (c.e = 0 → PassesOver i o s k sh) ∧
      (c.e ≠ 0 → s.windowFree k i = false → StaysAt i s k sh) ∧
      (c.e ≠ 0 → s.windowFree k i = true → ¬there → TrapsWith i s k sh 0x06 0 c.e c.e) ∧
      (c.e ≠ 0 → s.windowFree k i = true → there → a.toNat % 64 ≠ 0 → TrapsWith i s k sh 0x05 0 c.e c.e) ∧
      (c.e ≠ 0 → s.windowFree k i = true → there → a.toNat % 64 = 0 → badInit → TrapsWith i s k sh 0x02 0 c.e c.e) ∧
      (c.e ≠ 0 → s.windowFree k i = true → there → a.toNat % 64 = 0 → ¬badInit →
        ∃ u n, EntryMade s u i o f k sh thr ∧ exec i s = .next ((u.pump k).finish k o.hd n))) ∧
  (
    ∀ (o : Ops) (f : Form) (s : State) (k : Nat) (sh : Sheaf) (w : Workgroup),
      let c := startCtx s o f k sh w
      let a := (srcValue c.sh c.ext f.a o.a ((threadsOf c.e).headD 0)).toNat % 2 ^ 32
      let b := (srcValue c.sh c.ext f.b o.b ((threadsOf c.e).headD 0)).toNat % 2 ^ 32
      let p := srcValue c.sh c.ext f.b o.b ((threadsOf c.e).headD 0)
      let occ := sh.issued.occupied (dstRegs o f.dst) c.e 1
      (∀ a : DWord, s.blockBusy k a = true ↔ ∃ e ∈ s.win, e.2.sheaf = k ∧ ∃ b ∈ e.2.blks,
        blkName (slotCore k) b.base = blkName (slotCore k) (blkBase a) ∧ b.open_ = true) ∧
      (Starts s (.launch o) o f k sh w →
        let i : Instr := .launch o
        (c.e = 0 → PassesOver i o s k sh) ∧
        (c.e ≠ 0 → (s.acquirePending k = true ∨ s.releasePending k = true) → StaysAt i s k sh) ∧
        (c.e ≠ 0 → s.acquirePending k = false → s.releasePending k = false →
          ((∀ off, s.locate w p ≠ some (.own off)) → TrapsWith i s k sh 0x06 0 c.e c.e) ∧
          ∀ off, s.locate w p = some (.own off) →
            (off % 64 ≠ 0 → TrapsWith i s k sh 0x05 0 c.e c.e) ∧
            (off % 64 = 0 → s.blockBusy k p = true → StaysAt i s k sh) ∧
            (off % 64 = 0 → s.blockBusy k p = false → s.lsPoisonMask w.core off ≠ 0 →
              exec i s = .next ((s.setSheaf k sh.atHead).issueTrapAt k i 0x0C 2 c.e c.e p)) ∧
            (off % 64 = 0 → s.blockBusy k p = false → s.lsPoisonMask w.core off = 0 →
              ∃ u, HubAsked s u i o f k sh w c.e w.asid (.launch a (blkOfBytes (s.lsRead w.core off 64))) ∧
                exec i s = .next (u.finish k o.hd occ)))) ∧
      (Starts s (.ndec o) o f k sh w →
        (c.e = 0 → PassesOver (.ndec o) o s k sh) ∧ (c.e ≠ 0 → HubClaim (.ndec o) o f s k sh w (.ndec a))) ∧
      (Starts s (.evsig o) o f k sh w →
        (c.e = 0 → PassesOver (.evsig o) o s k sh) ∧ (c.e ≠ 0 → 63 < a → TrapsWith (.evsig o) s k sh 0x06 0 c.e c.e) ∧
        (c.e ≠ 0 → a ≤ 63 → HubClaim (.evsig o) o f s k sh w (.evsig a (BitVec.ofNat 32 b)))) ∧
      (Starts s (.ctxsv o) o f k sh w →
        (c.e = 0 → PassesOver (.ctxsv o) o s k sh) ∧
        (c.e ≠ 0 → ∃ u, HubAsked s u (.ctxsv o) o f k sh w c.e sh.ctxAsid (.ctxsv a b (o.mod.getLsbD 0)) ∧
          exec (.ctxsv o) s = .next (u.finish k o.hd occ))) ∧
      (Starts s (.ctxld o) o f k sh w →
        (c.e = 0 → PassesOver (.ctxld o) o s k sh) ∧
        (c.e ≠ 0 → ∃ u, HubAsked s u (.ctxld o) o f k sh w c.e sh.ctxAsid (.ctxld a) ∧ exec (.ctxld o) s = .next (u.finish k o.hd occ)))) ∧
  (
    ∀ (o : Ops) (f : Form) (s : State) (k : Nat) (sh : Sheaf) (w : Workgroup), Starts s (.xlinv o) o f k sh w →
      let i : Instr := .xlinv o
      let c := startCtx s o f k sh w
      let lead := (threadsOf c.e).headD 0
      let a := srcValue c.sh c.ext f.a o.a lead
      let n := (srcValue c.sh c.ext f.b o.b lead).toNat % 2 ^ 32
      let asid := BitVec.ofNat 16 ((srcValue c.sh c.ext f.c o.c lead).toNat % 2 ^ 32)
      let start := a.toNat % 2 ^ 57
      let inRange (x : BitVec 16) (va : DWord) (size : Nat) : Prop :=
        x = asid ∧ va.toNat < start + 65536 * n ∧ start < va.toNat + size
      (c.e = 0 → PassesOver i o s k sh) ∧
      (c.e ≠ 0 → a.toNat / 2 ^ 60 ≠ 0 → TrapsWith i s k sh 0x06 0 c.e c.e) ∧
      (c.e ≠ 0 → a.toNat / 2 ^ 60 = 0 → a.toNat % 65536 ≠ 0 → TrapsWith i s k sh 0x05 0 c.e c.e) ∧
      (c.e ≠ 0 → a.toNat / 2 ^ 60 = 0 → a.toNat % 65536 = 0 → 2 ^ 24 < n → TrapsWith i s k sh 0x02 0 c.e c.e) ∧
      (c.e ≠ 0 → a.toNat / 2 ^ 60 = 0 → a.toNat % 65536 = 0 → n = 0 → PassesOver i o s k sh) ∧
      (c.e ≠ 0 → a.toNat / 2 ^ 60 = 0 → a.toNat % 65536 = 0 → 0 < n → n ≤ 2 ^ 24 →
        ∃ (u : State) (id : Nat), exec i s = .next ((u.finish k o.hd 1).onSheaf k (fun x => if x.ended then x else { x with wait := .xlinv id })) ∧
          s.winNext ≤ id ∧ u.winNext = id + 1 ∧ mapFind u.xls id = some { id := id, slot := k, wg := sh.wg, idx := sh.idx, asid := asid, va := a, pages := n, dies := c.xlDies o, sent := false, left := 0 } ∧
          (∀ q xs, mapFind u.tc q = some xs → ∀ e ∈ xs, ¬inRange e.asid e.va e.size) ∧
          (∀ d x, d ∈ c.xlDies o → x / 16 = d → ∀ l ∈ (u.core x).l1, ¬inRange l.asid l.va 64) ∧
          (∀ key x, key / 16 ∈ c.xlDies o → mapFind u.slices key = some x → ∀ l ∈ x.lines, ¬inRange l.asid l.va 64)))

/-- R266: a copy-and-gather instruction with no executing thread only passes over; it stays while its engine holds 64
operations, COPY reads 63 or the sheaf's own orders hold it; else its operation joins the engine's queue with the operands of
the lowest executing thread, COPY rises by one and the pc moves on. -/
def Obligations.EngineStart : Prop :=
  ∀ (i : Instr) (o : Ops) (f : Form) (s : State) (k : Nat) (sh : Sheaf) (w : Workgroup),
    (i = .cpy o ∨ i = .gath o ∨ i = .bags o ∨ i = .scad o ∨ i = .fill o) → Starts s i o f k sh w →
    let c := startCtx s o f k sh w
    let core := slotCore k
    let lead := (threadsOf c.e).headD 0
    let full : Prop := 64 ≤ ((s.core core).eng.filter (fun x => !x.matrix)).length ∨ 63 ≤ sh.cCopy
    let value (p : Pos) (x : Src) : DWord :=
      if p = .unused then 0 else if p = .recd then (match x with | .reg r => c.sh.pair r.toNat lead | _ => 0) else srcValue c.sh c.ext p x lead
    (c.e = 0 → PassesOver i o s k sh) ∧
    (c.e ≠ 0 → (full ∨ s.acquirePending k = true ∨ s.releasePending k = true) → StaysAt i s k sh) ∧
    (c.e ≠ 0 → ¬full → s.acquirePending k = false → s.releasePending k = false →
      (extRecord o f = true → s.windowAligned w o = false → TrapsWith i s k sh 0x05 0 c.e c.e) ∧
      ((extRecord o f = false ∨ s.windowAligned w o = true) →
        ∃ (u : State) (x : Sheaf) (op : EngOp) (n : Nat), exec i s = .next ((u.setSheaf k x).finish k o.hd n) ∧
          u = { s with winNext := s.winNext + 1 }.setCore core { s.core core with eng := (s.core core).eng ++ [op] } ∧
          op.id = s.winNext ∧ op.instr = i ∧ op.wg = sh.wg ∧ op.idx = sh.idx ∧ op.core = core ∧ op.matrix = false ∧ op.begun = false ∧
          op.mask = c.e ∧ op.asid = sh.ctxAsid ∧ op.a = value f.a o.a ∧ op.b = value f.b o.b ∧
          ((i = .cpy o ∨ i = .fill o) → op.c = value f.c o.c) ∧
          ((i = .gath o ∨ i = .bags o ∨ i = .scad o) → op.cs = (threadsOf c.e).map (fun t => (t, (srcValue c.sh c.ext f.c o.c t).extractLsb' 0 32))) ∧
          op.bo = (if o.mod.getLsbD 3 then some o.attr.offset.toNat else none) ∧
          x.pc = sh.pc + BitVec.ofNat 64 i.size ∧ x.cCopy = sh.cCopy + 1 ∧ x.regs = sh.regs ∧ x.m = sh.m ∧ x.pend = sh.pend ∧
          x.cMatrix = sh.cMatrix ∧ x.cCode = sh.cCode ∧ x.cRemote = sh.cRemote))

/-- R281, R282: WAITC holds its sheaf while the counter of its class is above n, raises a cause latched for the class once it is
not (the latch is cleared), and else only passes over; CNTRD gives the four counters, or the two latched causes. -/
def Obligations.CounterInstructions : Prop :=
  (∀ (o : Ops) (f : Form) (s : State) (k : Nat) (sh : Sheaf) (w : Workgroup), Starts s (.waitc o) o f k sh w →
    let i : Instr := .waitc o
    let c := startCtx s o f k sh w
    let cls := o.mod.toNat % 4
    let n := (srcValue c.sh c.ext f.a o.a ((threadsOf c.e).headD 0)).toNat % 64
    let count := if cls = 0 then sh.cCopy else if cls = 1 then sh.cMatrix else if cls = 2 then sh.cCode else sh.cRemote
    (c.e = 0 → PassesOver i o s k sh) ∧
    (c.e ≠ 0 → n < count → exec i s = .next (s.setSheaf k { sh.issued with wait := .counter cls n, force := some c.e })) ∧
    (c.e ≠ 0 → count ≤ n → (cls = 0 → sh.errCopy = none) → (cls = 1 → sh.errMatrix = none) → PassesOver i o s k sh) ∧
    (∀ e, c.e ≠ 0 → count ≤ n → cls = 0 → sh.errCopy = some e →
      exec i s = .next ((s.setSheaf k { sh.issued with errCopy := none }).issueTrap k i 0x0B (BitVec.ofNat 32 e.toNat) c.e c.e)) ∧
    (∀ e, c.e ≠ 0 → count ≤ n → cls = 1 → sh.errMatrix = some e →
      exec i s = .next ((s.setSheaf k { sh.issued with errMatrix := none }).issueTrap k i 0x0B (BitVec.ofNat 32 (e.toNat + 256)) c.e c.e))) ∧
  (∀ (o : Ops) (f : Form) (s : State) (k : Nat) (sh : Sheaf) (w : Workgroup), Starts s (.cntrd o) o f k sh w →
    ((startCtx s o f k sh w).e = 0 → PassesOver (.cntrd o) o s k sh) ∧
    ((startCtx s o f k sh w).e ≠ 0 → GivesLate (.cntrd o) o f s s k sh (startCtx s o f k sh w).e (fun _ => (BitVec.ofNat 32
      (if o.mod.getLsbD 0 then ((sh.errCopy.map (fun c => c.toNat)).getD 0) + 256 * ((sh.errMatrix.map (fun c => c.toNat)).getD 0)
       else sh.cCopy % 64 + 64 * (sh.cMatrix % 64) + 4096 * (sh.cCode % 64) + 262144 * (sh.cRemote % 64))).setWidth 64)))

/-- R289, R301: SCLAIM and ACLAIM claim the lowest free run of n slots or tiles for the workgroup and give its base to every
executing thread; where only parked entries stand in the way they raise ACC_SPILL, where no run exists they give 0xFFFF_FFFF.
R288, R290, R301: SREL and AREL release n entries that the workgroup holds; the claim ends, and the content owner is nobody. -/
def Obligations.MatrixClaims : Prop :=
  (
    ∀ (i : Instr) (o : Ops) (f : Form) (s : State) (k : Nat) (sh : Sheaf) (w : Workgroup) (tile : Bool),
      i = (if tile then .aclaim o else .sclaim o) → Starts s i o f k sh w →
      let c := startCtx s o f k sh w
      let core := slotCore k
      let n := (srcValue c.sh c.ext f.a o.a ((threadsOf c.e).headD 0)).toNat % 2 ^ 32
      let size := if tile then 16 else 32
      let st (x : Nat) : EntryState := s.entryState core (mxEntry (slotLgrp k) tile x)
      let run (ok : EntryState → Prop) (b : Nat) : Prop := b + n ≤ size ∧ ∀ j, j < n → ok (st (b + j))
      let lowest (ok : EntryState → Prop) (b : Nat) : Prop := run ok b ∧ ∀ b', b' < b → ¬run ok b'
      let free (x : EntryState) : Prop := x = .free
      let parked (x : EntryState) : Prop := x = .free ∨ x = .parked
      (c.e = 0 → PassesOver i o s k sh) ∧
      (c.e ≠ 0 → (n = 0 ∨ size < n) → TrapsWith i s k sh 0x02 0 c.e c.e) ∧
      (∀ b, c.e ≠ 0 → 0 < n → lowest free b →
        ∃ u : State, GivesLate i o f s u k sh c.e (fun _ => BitVec.ofNat 64 b) ∧ u = { s with cores := u.cores } ∧
          (∀ j, j < n → mapFind (u.core core).claims (mxEntry (slotLgrp k) tile (b + j)) = some sh.wg ∧
            mapFind (u.core core).owners (mxEntry (slotLgrp k) tile (b + j)) = some w.ident) ∧
          (∀ x, (∀ j, j < n → x ≠ mxEntry (slotLgrp k) tile (b + j)) →
            mapFind (u.core core).claims x = mapFind (s.core core).claims x ∧ mapFind (u.core core).owners x = mapFind (s.core core).owners x)) ∧
      (∀ b, c.e ≠ 0 → 0 < n → n ≤ size → (∀ b', ¬run free b') → lowest parked b →
        TrapsWith i s k sh 0x11 (spillInfo 0 (slotLgrp k) tile (((List.range n).map (fun j => b + j)).filter (fun x => st x == .parked))) c.e c.e) ∧
      (c.e ≠ 0 → 0 < n → n ≤ size → (∀ b', ¬run parked b') → GivesLate i o f s s k sh c.e (fun _ => 0xFFFFFFFF))) ∧
  (
    ∀ (i : Instr) (o : Ops) (f : Form) (s : State) (k : Nat) (sh : Sheaf) (w : Workgroup) (tile : Bool),
      i = (if tile then .arel o else .srel o) → Starts s i o f k sh w →
      let c := startCtx s o f k sh w
      let core := slotCore k
      let base := (srcValue c.sh c.ext f.a o.a ((threadsOf c.e).headD 0)).toNat % 2 ^ 32
      let n := (srcValue c.sh c.ext f.b o.b ((threadsOf c.e).headD 0)).toNat % 2 ^ 32
      let entry (j : Nat) : Nat := mxEntry (slotLgrp k) tile (base + j)
      let size := if tile then 16 else 32
      (c.e = 0 → PassesOver i o s k sh) ∧
      (c.e ≠ 0 → (n = 0 ∨ size < base + n) → TrapsWith i s k sh 0x02 0 c.e c.e) ∧
      (c.e ≠ 0 → 0 < n → base + n ≤ size → (∃ j, j < n ∧ mapFind (s.core core).claims (entry j) ≠ some sh.wg) →
        TrapsWith i s k sh 0x02 0 c.e c.e) ∧
      (c.e ≠ 0 → 0 < n → base + n ≤ size → (∀ j, j < n → mapFind (s.core core).claims (entry j) = some sh.wg ∧ s.entryState core (entry j) ≠ .absent) →
        s.mxQ core (slotLgrp k) = [] → (s.core core).rows = [] →
        ∃ u : State, exec i s = .next ((u.setSheaf k { sh.issued with pc := sh.pc + BitVec.ofNat 64 i.size }).finish k o.hd 1) ∧
          u = { s with cores := u.cores } ∧ (∀ j, j < n → mapFind (u.core core).claims (entry j) = none) ∧
          (∀ x, (∀ j, j < n → x ≠ entry j) →
            mapFind (u.core core).claims x = mapFind (s.core core).claims x ∧ mapFind (u.core core).owners x = mapFind (s.core core).owners x) ∧
          (∀ j, j < n → mapFind (s.core core).owners (entry j) = some w.ident → mapFind (u.core core).owners (entry j) = none)))

/-- R295, R300, R302: SWR hands its row of 32 words and two tags to its lane's row buffer once that is free, behind the MMAs
that read the slot; SRD gives thread t word t of a row that no uncommitted write names, or with .tag the two tags, its
destination pending until the last is there (R156, R299); a poisoned word traps. DEDUCED: a pending acquire holds SWR and SRD
(log 50), a poisoned word traps by log 62. R293, R300, R303, R304, R306, R307: MMA, ACLR, ARD, AWR, AOP and ADRN: every thread
must execute, the tiles and slots they name must be in range, claimed and present; AOP's operands are checked; then the
operation goes to the queue, AOP.bias behind the sheaf's own requests to its vector (R229, R325). DEDUCED (log 61): a misaligned
vector outside the region raises MISALIGNED. -/
def Obligations.MatrixOperations : Prop :=
  (
    (∀ (o : Ops) (f : Form) (s : State) (k : Nat) (sh : Sheaf) (w : Workgroup), Starts s (.swr o) o f k sh w →
      let c := startCtx s o f k sh w
      let i : Instr := .swr o
      let row := (srcValue c.sh c.ext f.b o.b 0).toNat % 2 ^ 32
      let tags : Word := (srcValue c.sh c.ext f.c o.c 0).setWidth 32
      let bad : Prop := 8 < tags.toNat / 256 % 256 ∨ 8 < tags.toNat / 2 ^ 24
      let waits : Prop := (∃ r ∈ (s.core (slotCore k)).rows, r.lane = slotLane k) ∨ s.acquirePending k = true ∨ s.releasePending k = true
      MatrixChecks i s k sh c.e (row < 2048) [] [row / 64] []
        ((bad → TrapsWith i s k sh 0x08 0 c.e c.e) ∧
         (¬bad → waits → StaysAt i s k sh) ∧
         (¬bad → ¬waits → exec i s = .next (((s.onCore (slotCore k) (fun x => { x with rows := x.rows ++
            [{ lane := slotLane k, wg := sh.wg, idx := sh.idx, row := row,
               words := (List.range 32).map (fun t => (srcValue c.sh c.ext f.a o.a t).setWidth 32), tags := tags,
               before := readersOf (s.mxQ (slotCore k) (slotLgrp k)) (row / 64) }] })).setSheaf k
            { sh.issued with pc := sh.pc + BitVec.ofNat 64 i.size }).finish k o.hd 32)))) ∧
    (∀ (o : Ops) (f : Form) (s : State) (k : Nat) (sh : Sheaf) (w : Workgroup), Starts s (.srd o) o f k sh w →
      let c := startCtx s o f k sh w
      let i : Instr := .srd o
      let core := slotCore k
      let row := (srcValue c.sh c.ext f.a o.a 0).toNat % 2 ^ 32
      let off := mxOff (slotLgrp k) false (row / 64) (128 * (row % 64))
      let poisoned := maskOf (fun t => !o.mod.getLsbD 0 && s.mxPoisoned core (off + 4 * t))
      let waits : Prop := (∃ r ∈ (s.core core).rows, r.lane / 64 = slotLgrp k ∧ r.row = row) ∨ s.acquirePending k = true
      MatrixChecks i s k sh c.e (row < 2048) [] [row / 64] []
        ((waits → StaysAt i s k sh) ∧
         (¬waits → poisoned ≠ 0 → TrapsWith i s k sh 0x0C 4 poisoned c.e) ∧
         (¬waits → poisoned = 0 →
            let v (t : Nat) : DWord := if o.mod.getLsbD 0 then ((s.mxTag core (off + 64)).setWidth 64 <<< 16) ||| (s.mxTag core off).setWidth 64
              else (s.mxWord core (off + 4 * t)).setWidth 64
            ∃ sh', exec i s = .next ((s.setSheaf k (sh'.pendUntil (dstRegs o f.dst) (s.clk + 37))).finish k o.hd 32) ∧
              LaneEffect sh.issued sh' i o f.dst.width c.e v)))) ∧
  (
    ∀ (o : Ops) (f : Form) (s : State) (k : Nat) (sh : Sheaf) (w : Workgroup),
      let c := startCtx s o f k sh w
      let va := srcValue c.sh c.ext f.a o.a 0
      let vb := srcValue c.sh c.ext f.b o.b 0
      let vc := srcValue c.sh c.ext f.c o.c 0
      let a := va.toNat % 2 ^ 32
      let b := vb.toNat % 2 ^ 32
      let g := vc.toNat % 2 ^ 32
      let upTo (base n : Nat) : List Nat := (List.range n).map (fun j => base + j)
      (Starts s (.mma o) o f k sh w → o.attr.ispec.toNat < 3 →
        let span := 2 ^ o.attr.ispec.toNat
        let as := span * (if o.mod.toNat % 16 = 7 then 2 else 1)
        MatrixChecks (.mma o) s k sh c.e (a < 16 ∧ b + as ≤ 32 ∧ g + span ≤ 32) [a] (upTo b as) (upTo g span)
          (QueueClaim (.mma o) o f s k sh va vb vc [])) ∧
      (Starts s (.aclr o) o f k sh w → MatrixChecks (.aclr o) s k sh c.e (a < 16) [a] [] [] (QueueClaim (.aclr o) o f s k sh va 0 0 [])) ∧
      (Starts s (.ard o) o f k sh w → MatrixChecks (.ard o) s k sh c.e (a < 1024) [a / 64] [] [] (QueueClaim (.ard o) o f s k sh va 0 0 [])) ∧
      (Starts s (.awr o) o f k sh w → MatrixChecks (.awr o) s k sh c.e (a < 1024) [a / 64] [] []
        (QueueClaim (.awr o) o f s k sh va vb 0 ((List.range 32).map (fun t => (t, srcValue c.sh c.ext f.b o.b t))))) ∧
      (Starts s (.aop o) o f k sh w → MatrixChecks (.aop o) s k sh c.e (a < 16) [a] [] []
        ((o.mod.toNat % 4 = 0 ∨ o.mod.toNat % 4 = 2 → QueueClaim (.aop o) o f s k sh va
            (if f.b = .unused then 0 else vb) (if f.c = .unused then 0 else vc) []) ∧
         (o.mod.toNat % 4 = 1 → vb.toNat % 256 ≠ 0 → TrapsWith (.aop o) s k sh 0x05 0 c.e c.e) ∧
         (o.mod.toNat % 4 = 1 → vb.toNat % 256 = 0 → (∀ off, s.locate w vb ≠ some (.own off)) → TrapsWith (.aop o) s k sh 0x06 0 c.e c.e) ∧
         (∀ off, o.mod.toNat % 4 = 1 → vb.toNat % 256 = 0 → s.locate w vb = some (.own off) → off + 256 ≤ w.lsBase + 65536 * w.units →
              s.acquirePending k = false → (∀ r ∈ s.rels, r.2.sheaf ≠ some k) →
              ((∀ d ∈ [0, 64, 128, 192, 255], s.blockBusy k (vb + BitVec.ofNat 64 d) = false) →
                QueueClaim (.aop o) o f s k sh va (if f.b = .unused then 0 else vb) (if f.c = .unused then 0 else vc) []) ∧
              ((∃ d ∈ [0, 64, 128, 192, 255], s.blockBusy k (vb + BitVec.ofNat 64 d) = true) → StaysAt (.aop o) s k sh)) ∧
         (∀ off, o.mod.toNat % 4 = 1 → vb.toNat % 256 = 0 → s.locate w vb = some (.own off) → w.lsBase + 65536 * w.units < off + 256 →
            TrapsWith (.aop o) s k sh 0x06 0 c.e c.e) ∧
         (o.mod.toNat % 4 = 3 →
            let lo := ofFP32 (vb.setWidth 32)
            let hi := ofFP32 (vc.setWidth 32)
            ((lo.isNaN = true ∨ hi.isNaN = true) → TrapsWith (.aop o) s k sh 0x02 0 c.e c.e) ∧
            (lo.isNaN = false → hi.isNaN = false → FVal.lt hi lo = true → FVal.eqv hi lo = false → TrapsWith (.aop o) s k sh 0x02 0 c.e c.e) ∧
            (lo.isNaN = false → hi.isNaN = false → FVal.lt hi lo = false →
              QueueClaim (.aop o) o f s k sh va (if f.b = .unused then 0 else vb) (if f.c = .unused then 0 else vc) [])))) ∧
      (Starts s (.adrn o) o f k sh w → (extRecord o f = false ∨ s.windowAligned w o = true) → s.acquirePending k = false →
        s.releasePending k = false →
        let value (p : Pos) (x : Src) : DWord :=
          if p = .unused then 0 else if p = .recd then (match x with | .reg r => c.sh.pair r.toNat 0 | _ => 0) else srcValue c.sh c.ext p x 0
        MatrixChecks (.adrn o) s k sh c.e (a < 16) [a] [] [] (QueueClaim (.adrn o) o f s k sh va (value f.b o.b) (value f.c o.c) [])))

/-- R343, R421: LINK_PORT_RECEIVE puts the oldest packet of a link into the far die's crossbar input; LINK_PORT_SEND sends,
where no normal or bulk head has waited 64 cycles, the head of the lowest class; CROSSBAR_GRANT passes one head packet that no
other head at the output comes before, and the output remembers its input as the last granted. -/
def Obligations.NetworkSteps : Prop :=
  (∀ (s : State) (die from_ : Nat) (pre rest : List Flight) (f : Flight), s.net = pre ++ f :: rest → f.place = .wire die from_ →
    (∀ g ∈ pre, g.place ≠ .wire die from_) →
    exec (.linkPortReceive die from_) s = .next { s with net := pre ++ rest ++ [{ f with place := .input die (32 + from_), age := 0, since := s.clk }] }) ∧
  (∀ (s : State) (die to_ c : Nat) (f : Flight), (s.txQueue die to_ c).head? = some f → c ≤ 2 →
    (∀ c', c' < c → (s.txQueue die to_ c').head? = none) →
    (∀ g, (s.txQueue die to_ 1).head? = some g → s.clk < g.since + 64) → (∀ g, (s.txQueue die to_ 2).head? = some g → s.clk < g.since + 64) →
    ∃ n, exec (.linkPortSend die to_) s = .next { s with net := n ++ [{ f with place := .wire to_ die, age := 0, since := s.clk }] } ∧
      n.length + 1 = s.net.length) ∧
  (∀ (s : State) (die output : Nat),
    let hs := (s.heads die output).filter (fun h => s.outputFree die output h.2.p)
    let granted := mapGetD s.granted (die * 128 + output) []
    (hs = [] → exec (.crossbarGrant die output) s = .next s) ∧
    (hs ≠ [] → ∃ (win : Nat × Flight) (t : State), win ∈ hs ∧ (∀ x ∈ hs, x ≠ win → headBefore granted x win = false) ∧
      exec (.crossbarGrant die output) s = .next t ∧ t = { s with net := t.net, granted := t.granted } ∧
      mapFind t.granted (die * 128 + output) = some (granted.filter (fun c => c != win.1) ++ [win.1]) ∧
      ((output < 32 ∨ 48 ≤ output) → win.2.p.mcast = [] → t.net.getLast? = some { p := win.2.p, place := .inbox, age := 0, since := s.clk })))

/-- R235, R237: SLICE_READ answers a hit with the line under the slice's pending writes; a miss that may not join takes a free
merge entry and goes on to the home of its heap; a confirmation that misses goes straight to the home. SLICE_FILL_RETURN answers
the requester of its merge entry, frees the entry and keeps the line where its policy allows. DEDUCED (log 37): an entry that an
atomic, an acquire or an invalidation has closed keeps no line. R319, R320, R342: WRITE_THROUGH_ARRIVE enters a write or an
atomic into the pending write table and sends it on to the home of its heap; WRITE_ACK frees its entry, and an engine's
acknowledgement goes on to its core; SLICE_MARKER notes a marker behind the writes forwarded so far and answers it once none of
them is pending. DESIGN CHOICE (log 42): how many entries the pending write table has is Config.pendingWrites. -/
def Obligations.SliceSteps : Prop :=
  (
    (∀ (s u : State) (p : Packet) (d i : Nat) (q : ReadReq), Received s p u → p.dst = .slice d i → p.src ≠ .slice d i → p.msg = .read q →
      let x := s.slice d i
        let core := match p.src with | .core c => c | _ => 0
        x.holds q.asid q.va = false →
      (∀ l, u.sliceHit x q core = some l → (q.asker ≠ .prefetch ∨ q.l1 = true) →
        ∃ t, exec (.sliceRead d i) s = .next t ∧ t = { s with net := t.net, slices := t.slices } ∧
          t.net = u.net ++ [sentFlight s.clk (.slice d i) p.src q.prio (s.partOf q.asid) (.data q (if isRemote d l.va then l.ans else l.ans.under (x.pendingOf l.asid l.va)))] ∧
          (t.slice d i).pend = x.pend ∧ (t.slice d i).merge = x.merge) ∧
      (u.sliceHit x q core = none → q.kind = .store →
        exec (.sliceRead d i) s = .next { u with net := u.net ++ [sentFlight s.clk (.slice d i) (.home (eaHeap q.va)) q.prio (s.partOf q.asid)
            (.homeRead q core)] }) ∧
      (u.sliceHit x q core = none → q.kind ≠ .store → (∀ m ∈ x.merge, ¬(m.asid = q.asid ∧ m.va = q.va)) → x.merge.length < 32 →
        ∃ t, exec (.sliceRead d i) s = .next t ∧ t = { s with net := t.net, slices := t.slices } ∧
          (t.slice d i) = { x with merge := x.merge ++ [{ asid := q.asid, va := q.va, kind := q.kind, recs := [(p.src, [], q)], open_ := true, before := (x.pendingOf q.asid q.va).map (fun y => y.id), later := [] }] } ∧
          t.net = u.net ++ [sentFlight s.clk (.slice d i) (.home (eaHeap q.va)) q.prio (s.partOf q.asid)
            (.homeRead q core)])) ∧
    (∀ (s u : State) (p : Packet) (d i : Nat) (q r : ReadReq) (a : BlkAns) (m : MergeEntry) (src : Agent) (rest : List MergeEntry),
      Received s p u → p.dst = .slice d i → p.msg = .fill q a →
      let x := s.slice d i
      x.merge = m :: rest → m.asid = q.asid → m.va = q.va → (∀ y ∈ rest, ¬(y.asid = q.asid ∧ y.va = q.va)) → r.kind = m.kind → m.recs = [(src, [], r)] → src ≠ .slice d i →
      (r.asker ≠ .prefetch ∨ r.l1 = true) → a.status = .ok →
      let now := x.pendingOf q.asid q.va
      let b := a.under (if isRemote d q.va then m.later ++ now.filter (fun y => !m.before.contains y.id) else now)
      ∃ t, exec (.sliceFillReturn d i none) s = .next t ∧ t = { s with net := t.net, slices := t.slices } ∧ (t.slice d i).merge = rest ∧
        t.net = u.net ++ [sentFlight s.clk (.slice d i) src r.prio (s.partOf r.asid) (.data r b)] ∧
        (m.open_ = true → r.pol ≠ 4 → ∃ l ∈ (t.slice d i).lines, l.asid = q.asid ∧ l.va = q.va ∧
          l.blk = b.blk ∧ l.tag = b.tag ∧ l.perm = a.perm) ∧
        ((m.open_ = false ∨ r.pol = 4) → (t.slice d i).lines = x.lines))) ∧
  (
    (∀ (s u : State) (p : Packet) (d i : Nat) (w : WriteReq), Received s p u → p.dst = .slice d i → p.msg = .write w →
        ((s.slice d i).pend = [] ∨ (s.slice d i).pend.length ≤ Config.pendingWrites) →
      ∃ t, exec (.writeThroughArrive d i) s = .next t ∧ t = { s with net := t.net, slices := t.slices } ∧
        (t.slice d i).pend = (s.slice d i).pend ++ [
            { id := w.id, asid := w.asid, va := w.va, blk := w.blk,
              mask := w.mask, tag := w.tag, poison := w.poison != 0, wait := false }] ∧
          (t.slice d i).lines = (s.slice d i).lines.map (fun l => if l.asid = w.asid ∧ l.va = w.va ∧ isRemote d w.va = true then l.written w else l) ∧
          t.net = u.net ++ [sentFlight s.clk (.slice d i) (.home (eaHeap w.va)) w.prio (s.partOf w.asid) (.homeWrite w)]) ∧
    (∀ (s u : State) (p : Packet) (d i : Nat) (a : AtomReq) (c : Contributor), Received s p u → p.dst = .slice d i → p.msg = .atom a →
      a.from_.head? = some c →
        ((s.slice d i).pend = [] ∨ (s.slice d i).pend.length ≤ Config.pendingWrites) →
      ∃ t, exec (.writeThroughArrive d i) s = .next t ∧ t = { s with net := t.net, slices := t.slices } ∧
        (t.slice d i).pend = (s.slice d i).pend ++ [
            { id := c.id, asid := a.asid, va := a.va, blk := 0, mask := 0, tag := none, poison := false, wait := true }] ∧
          (t.slice d i).lines = (s.slice d i).lines.filter (fun l => !(l.asid == a.asid && l.va == a.va && isRemote d a.va)) ∧
          t.net = u.net ++ [sentFlight s.clk (.slice d i) (.home (eaHeap a.va)) a.prio (s.partOf a.asid) (.homeAtom a)]) ∧
    (∀ (s u : State) (p : Packet) (d i : Nat) (w : WriteReq) (a : BlkAns), Received s p u → p.dst = .slice d i → p.msg = .writeAck w a →
      ∃ t, exec .writeAck s = .next t ∧ t = { s with net := t.net, slices := t.slices } ∧
        (t.slice d i).pend = (s.slice d i).pend.filter (fun y => y.id != w.id) ∧ (t.slice d i).marks = (s.slice d i).marks ∧
          (a.status = .ok → (t.slice d i).lines = (s.slice d i).lines ∧
            (t.slice d i).merge = (s.slice d i).merge.map (fun m => if m.asid = w.asid ∧ m.va = w.va ∧ w.id ∉ m.before then
              { m with later := m.later ++ (s.slice d i).pend.filter (fun y => y.id == w.id) } else m)) ∧
          (a.status ≠ .ok → (t.slice d i).merge = (s.slice d i).merge ∧
            (t.slice d i).lines = (s.slice d i).lines.filter (fun l => !(l.asid == w.asid && l.va == w.va))) ∧
        ((∀ core op item, w.writer ≠ .engine core op item) → t.net = u.net) ∧
        (∀ core op item, w.writer = .engine core op item →
          t.net = u.net ++ [sentFlight s.clk (.slice d i) (.core core) (a.prio 2) (s.partOf w.asid) (.writeAck w a)])) ∧
    (∀ (s u : State) (p : Packet) (d i scope : Nat) (f : MarkFor), Received s p u → p.dst = .slice d i → p.msg = .mark f scope →
      ∃ t, exec .sliceMarker s = .next t ∧ t = { s with net := u.net, slices := t.slices } ∧
        t.slice d i = { s.slice d i with marks := (s.slice d i).marks ++ [{ who := f, back := p.src, before := (s.slice d i).pend.map (fun y => y.id) }] }) ∧
    (∀ (s : State) (key : Nat) (x : Slice) (m : SliceMark) (ms : List SliceMark) (rest : Map Slice), (∀ f ∈ s.net, f.place ≠ .inbox) →
      s.slices = (key, x) :: rest → x.marks = m :: ms → (∀ y ∈ x.pend, y.id ∉ m.before) → m.back ≠ .slice (key / 16) (key % 16) →
      ∃ t, exec .sliceMarker s = .next t ∧ t = { s with net := t.net, slices := t.slices } ∧ (t.slice (key / 16) (key % 16)).marks = ms ∧
        t.net = s.net ++ [sentFlight s.clk (.slice (key / 16) (key % 16)) m.back 0 none (.marked m.who)]))

/-- R236, R242, R243, R340, R422: HOME_READ answers with the block as it stands, or with the page's fault; HOME_WRITE changes
exactly the bytes that its write names; HOME_ATOMIC applies its operation to the block and answers; an access whose page is not
yet translated waits, and TRANSLATION_WALK enters its translation. DEDUCED: a confirmed store to a block tagged 0xA000 is
discarded and acknowledged as failed (log 38), and the walk and the look-up after it are a step each (log 86). R337, R383, R395,
R399: host memory answers a read with what it holds, and an atomic that its port refuses raises ATOMIC_UNSUPPORTED; an expander
answers in the same way, poisoning its block where the device says so; a link drop or an access that waits 60,000 cycles loses
heap 14, and system software restores it. DEDUCED (log 116): the first access that then fails makes the record. -/
def Obligations.HomeSteps : Prop :=
  (
    (∀ (s u : State) (p : Packet) (h core : Nat) (q : ReadReq), Received s p u → p.dst = .home h → p.msg = .homeRead q core →
      let look := u.homeLook q.asid q.va q.kind q.asker core
      let back (a : BlkAns) : Flight := if q.kind = .store then sentFlight s.clk (.home h) (.core core) (a.prio q.prio) (s.partOf q.asid) (.data q a)
          else sentFlight s.clk (.home h) p.src (a.prio q.prio) (s.partOf q.asid) (.fill q a)
      (∀ d, p.src ≠ .home d) →
      (∀ token, look = .pending token → exec .homeRead s = .next { u with net := u.net ++ [back (BlkAns.failed (.fault token))] }) ∧
      (∀ dpa perm, look = .ok dpa perm → h < 13 → q.kind ≠ .store → s.channelWaits dpa = true → (∀ g ∈ s.net, g.place = .inbox → g.p = p) →
        exec .homeRead s = .next s) ∧
      (∀ dpa perm, look = .ok dpa perm → h < 13 → (q.kind = .store ∨ s.channelWaits dpa = false) →
        ∃ t, exec .homeRead s = .next t ∧ t = { s with net := t.net, hbm := t.hbm, trk := t.trk, msc := t.msc } ∧
          t.net = u.net ++ [back { blk := s.memBlk dpa, tag := s.memTagAt dpa, poison := poisonMask (s.memPoisonAt dpa), perm := perm,
                                   dpa := dpa / 64 * 64, status := .ok }])) ∧
    (∀ (s u : State) (p : Packet) (h dpa : Nat) (w : WriteReq), Received s p u → p.dst = .home h → p.msg = .homeWrite w → w.dpa = some dpa →
      h < 13 → s.channelWaits dpa = false → s.memTagAt dpa ≠ 0xA000 → (∀ n, w.writer ≠ .cword n) →
      ∃ t, exec .homeWrite s = .next t ∧ t.sheaves = s.sheaves ∧ t.ls = s.ls ∧
        (dpaTarget dpa ≠ 13 → t.memTagAt dpa = w.tag.getD (s.memTagAt dpa)) ∧
        ∀ a, t.memByte a = if a / 64 = dpa / 64 ∧ w.mask.getLsbD (a % 64) = true then w.blk.extractLsb' (8 * (a % 64)) 8 else s.memByte a) ∧
    (∀ (s u : State) (p : Packet) (h dpa : Nat) (w : WriteReq), Received s p u → p.dst = .home h → p.msg = .homeWrite w → w.dpa = some dpa →
      h < 13 → s.channelWaits dpa = false → s.memTagAt dpa = 0xA000 → (∀ d, p.src ≠ .home d) →
      ∃ t, exec .homeWrite s = .next t ∧ t = { s with net := t.net, hbm := t.hbm, trk := t.trk, msc := t.msc } ∧
        t.net = u.net ++ [sentFlight s.clk (.home h) p.src w.prio (s.partOf w.asid) (.writeAck w (BlkAns.failed (.bad 0x09)))]) ∧
    (∀ (s u : State) (p : Packet) (h dpa : Nat) (a : AtomReq) (c : Contributor) (perm : Perm) (i : Instr), Received s p u → p.dst = .home h →
      p.msg = .homeAtom a → h < 13 → a.from_ = [c] → a.op = .instr i → u.homeLook a.asid a.va .atomic c.asker c.core = .ok dpa perm →
      s.channelWaits dpa = false → s.memTagAt dpa ≠ 0xA000 → s.memPoisonAt dpa = false →
      let r := atomApply a.op (u.readAs a.asid (u.homeAns dpa ⟨true, true, false⟩)).blk a.items
      ∃ t y, exec .homeAtomic s = .next t ∧ t.sheaves = s.sheaves ∧ t.ls = s.ls ∧
        (∀ b, t.memByte b = if b / 64 = dpa / 64 ∧ r.2.2.getLsbD (b % 64) = true then r.2.1.extractLsb' (8 * (b % 64)) 8 else s.memByte b) ∧
        t.net = (u.homeCopies dpa r.2.1 r.2.2 none a.poison).net ++ [sentFlight s.clk (.home h) (.slice c.die (sliceOf a.va)) 1 (s.partOf a.asid)
          (.atomAns { to_ := c, asid := a.asid, va := a.va, olds := r.1, ans := y })] ∧ y.blk = r.2.1 ∧ y.status = .ok) ∧
    (∀ (s u : State) (p : Packet) (h : Nat) (a : HomeAsk) (e : TcEntry), Received s p u → p.dst = .home h → homeAsk p.msg = some a →
      s.homeLook a.asid a.va a.kind a.asker a.core = .miss → s.settle a.asid a.va a.kind (s.askerLevel a.asker a.core) = .ok e →
      (∀ d ∈ s.tablePlaces a.asid a.va, s.channelWaits d = false) →
      let old := (mapGetD s.tc (eaHeap a.va) []).filter (fun x => !(x.asid == e.asid && x.va == e.va && x.size == e.size))
      exec (.translationWalk h) s = .next { s.tableReads a.asid a.va with tc := mapInsert s.tc (eaHeap a.va) (old ++ [e]) })) ∧
  (
    (∀ (s u : State) (p : Packet) (dpa core : Nat) (perm : Perm) (q : ReadReq), Received s p u → p.dst = .home 13 → p.msg = .homeRead q core →
      q.kind ≠ .store → (∀ d, p.src ≠ .home d) → u.homeLook q.asid q.va q.kind q.asker core = .ok dpa perm →
      exec (.hostReadCompletion none) s = .next { u with net := u.net ++
        [sentFlight s.clk (.home 13) p.src q.prio (s.partOf q.asid) (.fill q (s.homeAns dpa perm))] }) ∧
    (∀ (s u : State) (p : Packet) (dpa : Nat) (perm : Perm) (a : AtomReq) (c : Contributor), Received s p u → p.dst = .home 13 →
      p.msg = .homeAtom a → a.from_ = [c] → u.homeLook a.asid a.va .atomic c.asker c.core = .ok dpa perm →
      exec (.hostAtomicopCompletion none) s = .next { u with net := u.net ++ [sentFlight s.clk (.home 13) (.slice c.die (sliceOf a.va)) a.prio (s.partOf a.asid)
        (.atomAns { to_ := c, asid := a.asid, va := a.va, olds := [], ans := BlkAns.failed (.bad 0x0F) })] }) ∧
    (∀ (s u : State) (p : Packet) (dpa : Nat) (perm : Perm) (a : AtomReq) (c : Contributor) (i : Instr) (x : AtomItem) (xs : List AtomItem) (v : DWord),
      Received s p u → p.dst = .home 13 → p.msg = .homeAtom a → a.from_ = [c] → a.op = .instr i → a.items = x :: xs → dpaTarget dpa = 13 →
      u.homeLook a.asid a.va .atomic c.asker c.core = .ok dpa perm → s.memPoisonAt dpa = false →
      let held := u.memWrite (dpa / 64 * 64 + x.addr.toNat % 64) (leBytes (atomBytes i) v.toNat)
      let r := atomApply a.op (held.readAs a.asid (held.homeAns dpa ⟨true, true, false⟩)).blk a.items
      ∃ t y, exec (.hostAtomicopCompletion (some v)) s = .next t ∧ t.sheaves = s.sheaves ∧ t.ls = s.ls ∧
        (∀ b, t.memByte b = if b / 64 = dpa / 64 ∧ r.2.2.getLsbD (b % 64) = true then r.2.1.extractLsb' (8 * (b % 64)) 8 else held.memByte b) ∧
        t.net = u.net ++ [sentFlight s.clk (.home 13) (.slice c.die (sliceOf a.va)) 1 (s.partOf a.asid)
          (.atomAns { to_ := c, asid := a.asid, va := a.va, olds := r.1, ans := y })] ∧ y.blk = r.2.1 ∧ y.status = .ok) ∧
    (∀ (s u : State) (p : Packet) (dpa core : Nat) (perm : Perm) (q : ReadReq) (poisoned : Bool), Received s p u → p.dst = .home 14 →
      p.msg = .homeRead q core → q.kind ≠ .store → (∀ d, p.src ≠ .home d) → s.heap14Lost = false →
      u.homeLook q.asid q.va q.kind q.asker core = .ok dpa perm →
      ∃ t, exec (.expanderAccessCompletion poisoned) s = .next t ∧ t = { s with net := t.net, memPoison := t.memPoison } ∧
        (poisoned = false → t.memPoison = s.memPoison) ∧ (poisoned = true → t.memPoisonAt dpa = true) ∧
        t.net = u.net ++ [sentFlight s.clk (.home 14) p.src q.prio (s.partOf q.asid) (.fill q (t.homeAns dpa perm))]) ∧
    (∀ (s : State) (port : Nat), exec (.expanderLinkDrop port) s =
      .next (if port < 2 ∧ s.heap14Lost = false then { s with heap14Lost := true, heap14Owed := true } else s)) ∧
    (∀ (s : State) (dpa : Nat),
      let r : FaultRec :=
        { va := BitVec.ofNat 64 dpa, asid := 0, kind := 0x12, access := 0x80, mask := 0, node := 0, place := 0, lane := 0, slot := 0, level := 0,
          batch := 0, token := 0, time := BitVec.ofNat 32 s.clk }
      s.lostAccess dpa = if s.heap14Owed = true then ({ s with heap14Owed := false } : State).fqRecord r else s) ∧
    (∀ (s u : State) (p : Packet) (dpa core : Nat) (perm : Perm) (q : ReadReq), Received s p u → p.dst = .home 14 → p.msg = .homeRead q core →
      q.kind ≠ .store → (∀ d, p.src ≠ .home d) → s.heap14Lost = true → u.homeLook q.asid q.va q.kind q.asker core = .ok dpa perm →
      let v := u.lostAccess dpa
      exec .homeRead s = .next { v with net := v.net ++
        [sentFlight s.clk (.home 14) p.src q.prio (s.partOf q.asid) (.fill q (BlkAns.failed (.bad 0x10)))] }) ∧
    (∀ (s u : State) (p : Packet) (dpa core : Nat) (perm : Perm) (q : ReadReq) (f : Flight), Received s p u → f ∈ s.net → f.p = p →
      s.net.filter (fun g => g.place == .inbox) = [f] → p.dst = .home 14 → p.msg = .homeRead q core → q.kind ≠ .store → (∀ d, p.src ≠ .home d) →
      s.homeLook q.asid q.va q.kind q.asker core = .ok dpa perm →
      (s.clk < f.since + 60000 → exec .expanderAccessTimeout s = .next s) ∧
      (f.since + 60000 ≤ s.clk →
        let v := (if s.heap14Lost = true then u else { u with heap14Lost := true, heap14Owed := true }).lostAccess dpa
        exec .expanderAccessTimeout s = .next { v with net := v.net ++
          [sentFlight s.clk (.home 14) p.src q.prio (s.partOf q.asid) (.fill q (BlkAns.failed (.bad 0x10)))] })) ∧
    (∀ s : State, exec .heap14Restore s = .next { s with heap14Lost := false, heap14Owed := false }))

/-- R228, R230, R335, R336: what reaches a core answers its window entries: a load's block under the bytes of the store buffer,
a confirmed store's block through a place in the store buffer, an atomic's old values. The store buffer's oldest entry drains to
the slice of its block; a line idle in the atomic state for 4,096 cycles is written through. R225, R226, R223: a bank accepts
one of its waiting requests, one that no other comes before, and acts on its block; an access from another core waits at its
bank with them and is performed where one region of the ASID holds it, else answered with ADDRESS for each of its threads; the
acknowledgement of a peer store ends its wait. -/
def Obligations.CoreResponses : Prop :=
  (
    (∀ (s u : State) (p : Packet) (c id : Nat) (q : ReadReq) (a : BlkAns) (e : WinEntry), Received s p u → p.dst = .core c → p.msg = .data q a →
      q.asker = .entry id → q.kind = .load → q.l1 = false → (∀ t, a.status ≠ .fault t) → mapFind s.win id = some e →
      let r := loadAnswers e q.va ((u.readAs q.asid a).ovl q.ovl q.overM q.overT)
      exec (.loadResponse c none) s = .next ((u.readDone q.asid a).answerBlk id q.va r.1 r.2)) ∧
    (∀ (s u : State) (p : Packet) (c id : Nat) (q : ReadReq) (a : BlkAns) (e : WinEntry) (b : BlkReq), Received s p u → p.dst = .core c →
      p.msg = .data q a → q.asker = .entry id → q.kind = .store → mapFind s.win id = some e →
      e.blks.find? (fun b => b.base == q.va && b.stage == .sent) = some b → a.status = .ok →
      let x := storeBytesOf e.instr e.thr (b.mask &&& e.left)
      let sb := s.sbOf c (slotLgrp e.sheaf)
      (a.tag = 0xA000 → exec (.storeConfirm c) s = .next (u.answerBlk id q.va [] ((threadsOf (b.mask &&& e.left)).map (fun t => (t, 0x09))))) ∧
      (a.tag ≠ 0xA000 → eaHeap q.va ≠ 13 → b.mask &&& e.left ≠ 0 → sb = [] →
          exec (.storeConfirm c) s = .next ((u.setSb c (slotLgrp e.sheaf)
            [{ seq := id, asid := q.asid, va := q.va, dpa := a.dpa, blk := x.1, mask := x.2.1, tag := x.2.2 }]).answerBlk id q.va [] []))) ∧
    (∀ (s : State) (c lgrp : Nat) (x : SbEntry) (rest : List SbEntry), s.sbOf c lgrp = x :: rest →
      ∃ t, exec (.storeBufferDrain c lgrp) s = .next t ∧ t = { s with net := t.net, cores := t.cores, winNext := s.winNext + 1 } ∧
        t.sbOf c lgrp = rest.filter (fun y => y.seq != x.seq || y.asid != x.asid || y.va != x.va) ∧
        t.net = s.net ++ [sentFlight s.clk (.core c) (.slice (coreDie c) (sliceOf x.va)) 1 (s.partOf x.asid)
          (.write { id := s.winNext, asid := x.asid, va := x.va, dpa := some x.dpa, blk := x.blk, mask := x.mask, tag := x.tag, poison := 0,
                      writer := .through c, made := x.seq })]) ∧
    (∀ (s u : State) (p : Packet) (c id : Nat) (q : ReadReq) (a : BlkAns) (e : WinEntry) (b : BlkReq) (l : Line), Received s p u → p.dst = .core c →
      p.msg = .data q a → q.asker = .entry id → q.kind = .atomic → a.status = .ok → mapFind s.win id = some e →
      s.sbOf c (slotLgrp e.sheaf) = [] → s.l1Find c q.asid q.va = some l → l.perm.r = true → l.perm.w = true → l.tag ≠ 0xA000 → l.poison = 0 → l.place = 0 →
      e.blks.find? (fun b => b.base == l.va && b.stage == .sent) = some b →
      let r := atomApply (.instr e.instr) (u.readAs l.asid l.ans).blk (atomItems e.thr (b.mask &&& e.left))
      exec (.l1Atomic c none) s = .next (((u.readDone l.asid l.ans).onCore c (fun k => { k with l1 := k.l1.map (fun x => if x.asid == l.asid && x.va == l.va then
        { l with blk := r.2.1, atomic := true, dirty := l.dirty ||| r.2.2, lastAtomic := s.clk, used := s.clk + 1 } else x) })).answerBlk id l.va
        (r.1.map (fun o => (o.1, o.2.setWidth 128))) [])) ∧
    (∀ (s : State) (c n : Nat) (l : Line), (s.core c).l1[n]? = some l →
      ((l.atomic = false ∨ l.dirty = 0 ∨ s.clk < l.lastAtomic + 4096) → exec (.atomicLineIdleWriteThrough c n) s = .next s) ∧
      (l.atomic = true → l.dirty ≠ 0 → l.lastAtomic + 4096 ≤ s.clk →
        ∃ t, exec (.atomicLineIdleWriteThrough c n) s = .next t ∧ t = { s with net := t.net, cores := t.cores, winNext := s.winNext + 1 } ∧
          (∀ x ∈ (t.core c).l1, x.asid = l.asid → x.va = l.va → x.dirty = 0) ∧
          t.net = s.net ++ [sentFlight s.clk (.core c) (.slice (coreDie c) (sliceOf l.va)) 1 (s.partOf l.asid)
            (.write { id := s.winNext, asid := l.asid, va := l.va, dpa := some l.dpa, blk := l.blk, mask := l.dirty, tag := none, poison := 0,
                        writer := .through c, made := s.winNext })])) ∧
    (∀ (s u : State) (p : Packet) (c id : Nat) (a : AtomAns), Received s p u → p.dst = .core c → p.msg = .atomAns a → a.to_.asker = .entry id →
      (a.ans.status = .ok → exec (.atomicResponse c) s = .next (u.answerBlk id a.va (a.olds.map (fun o => (o.1, o.2.setWidth 128))) [])) ∧
      (∀ cause, a.ans.status = .bad cause →
        exec (.atomicResponse c) s = .next (u.answerBlk id a.va [] (a.to_.items.map (fun x => (x.thread, cause.toNat))))))) ∧
  (
    (∀ (s : State) (c bank : Nat),
      let waiting := (s.core c).bankQ.filter (fun q => bankOf q.base == bank)
      let free := mapGetD (s.core c).bankAt bank 0
      ((waiting = [] ∨ s.clk < free) → exec (.lsBankAccept c bank) s = .next s) ∧
      (waiting ≠ [] → free ≤ s.clk → ∃ q ∈ waiting, (∀ x ∈ waiting, x ≠ q → LsReq.first x q = false) ∧
        let u := s.onCore c (fun k => { k with bankQ := k.bankQ.erase q, bankAt := mapInsert k.bankAt bank (s.clk + 1) })
        exec (.lsBankAccept c bank) s = .next (if eaSpace q.va = 1 then ((u.lsPerform q).1.lsCount q).lsAnswer q (u.lsPerform q).2 else u.lsServe q))) ∧
    (∀ (s u : State) (p : Packet) (c : Nat) (q : LsReq), Received s p u → p.dst = .core c → p.msg = .ls q →
      exec (.peerLsAccess c) s = .next (if eaSpace q.va = 3 then u.lsServe q
          else u.onCore c (fun k => { k with bankQ := k.bankQ ++ [{ q with since := s.clk }] }))) ∧
      (∀ (s : State) (q : LsReq),
        (s.lsAdmits q = true → s.lsServe q = ((s.lsPerform q).1.lsCount q).lsAnswer q (s.lsPerform q).2) ∧
        ((∀ c op item n, q.who ≠ .put c op item n) → s.lsCount q = s) ∧
        (s.lsAdmits q = false → ∃ a : LsAns, s.lsServe q = s.lsAnswer q a ∧ a.vals = [] ∧ a.blk.status = .bad 0x06 ∧
          a.fails = q.threads.map (fun t => (t, 0x06)))) ∧
    (∀ (s : State) (q : LsReq) (blk : Blk) (mask : BMask), q.act = .write blk mask none 0 → eaSpace q.va = 1 → q.base % 64 = 0 →
      q.base + 64 ≤ 2 ^ 24 →
      ∃ t a, s.lsPerform q = (t, a) ∧ t.mem = s.mem ∧ ∀ off, off < 2 ^ 24 →
        t.lsByte q.core off = if q.base ≤ off ∧ off < q.base + 64 ∧ mask.getLsbD (off - q.base) = true then blk.extractLsb' (8 * (off - q.base)) 8
          else s.lsByte q.core off) ∧
    (∀ (s u : State) (p : Packet) (c core id : Nat) (a : LsAns) (e : WinEntry), Received s p u → p.dst = .core c → p.msg = .lsAns a →
      a.who = .peer core id → mapFind s.win id = some e → memClass e.instr ≠ .load → e.instr.answers = false →
      exec .remoteStoreAck s = .next ((u.onCore c (fun k => { k with peerOut := k.peerOut.erase id })).answerBlk id a.va a.vals a.fails)))

/-- R353, R354, R415: a take at a die is granted from the die's units, or goes on to the home for Q_DIE more; a take at the home
of a NORMAL counter is granted from the reserve, its die noted in DIE_MASK; at a SCARCE counter it is answered exactly. R353 to
R356, R359, R415: grants, recalls, returns, gives and answers. The units of a grant join the level it reaches and serve the take
that asked; a recalled core or die gives back all its units and frees its entry; returned and given units join the reserve; an
answer reaches its thread. DEDUCED (log 123): what needs a place in a full die waits until its least recently used allowance has
left. R351, R357, R360: at the home ALREAD of a counter with empty masks gives its reserve and sets the state that goes with it,
ALCLOSE gives it and leaves it as plain data with tag 0, ALINIT makes a block a counter with its tag; a block that is no counter
raises ALLOWANCE_STATE; AL_POISON makes the counter POISONED. -/
def Obligations.AllowanceCounters : Prop :=
  (
    (∀ (s u : State) (p : Packet) (d i x : Nat) (t : AlTake) (e : AlDie), Received s p u → p.dst = .slice d i → p.msg = .al (.take x t) →
      s.alDieOf d t.key = some e → t.exact = false → e.scarce = false → e.recalling = [] → e.poison = false →
      let here := Agent.slice d (sliceOf t.key.va)
      (t.want ≤ e.units → ∃ v, exec .alTakeAtDie s = .next v ∧ v = { s with net := v.net, alDie := v.alDie } ∧
        v.alDieOf d t.key = some { e with units := e.units - t.want, cores := if e.cores.contains t.core then e.cores else e.cores ++ [t.core], used := s.clk } ∧
        v.net = u.net ++ [alFlight s here (.core t.core) (.grant d t t.want 0) t.key]) ∧
      (e.units < t.want → exec .alTakeAtDie s =
          .next (u.sendUp d t.key (.take d { t with wantHome := (s.quanta t.key).2 + t.want - e.units })))) ∧
    (∀ (s u : State) (p : Packet) (d i x : Nat) (t : AlTake) (e : AlDie), Received s p u → p.dst = .slice d i → p.msg = .al (.take x t) →
      s.alDieOf d t.key = some e → e.poison = true →
      exec .alTakeAtDie s = .next { u with net := u.net ++
        [alFlight s (.slice d (sliceOf t.key.va)) (.core t.core) (.fail t.key t.core t.entry t.thread 0x14 none) t.key] }) ∧
      (∀ (s : State) (die : Nat) (k : AlKey) (m : AlMsg), eaSpace k.va ≠ 5 →
        s.sendUp die k m = { s with net := s.net ++ [alFlight s (.slice die (sliceOf k.va)) (.home (eaHeap k.va)) m k] }) ∧
    (∀ (s u : State) (p : Packet) (h die dpa : Nat) (t : AlTake) (perm : Perm), Received s p u → p.dst = .home h → p.msg = .al (.take die t) →
      u.homeLook t.key.asid t.key.va .atomic (.entry t.entry) t.core = .ok dpa perm → s.memTagAt dpa = 0xA000 →
      (s.alHomeAt t.key).recalling = false → s.channelWaits dpa = false → s.lostAt t.key.va = false →
      let b := s.memBlk dpa
      let home := Agent.home (eaHeap t.key.va)
      let n := if t.part then min t.n (ctrReserve b) else if t.n ≤ ctrReserve b then t.n else 0
      (ctrState b = 0 → t.exact = false → t.wantHome ≤ ctrReserve b → ∃ v, exec .alTakeAtHome s = .next v ∧
        let x := blkSetNat (blkSetNat b 0 8 (ctrReserve b - t.wantHome)) 16 2 (ctrDieMask b ||| 2 ^ die)
        BlockBecomes s v dpa x ∧
        v.net = (u.homeCopies dpa x (BitVec.allOnes 64) none false).net ++ [alFlight s home (.slice die (sliceOf t.key.va)) (.grant die t t.wantHome 0) t.key]) ∧
      (ctrState b = 1 → ∃ v, exec .alTakeAtHome s = .next v ∧
        let x := blkSetNat b 0 8 (ctrReserve b - n)
        BlockBecomes s v dpa x ∧
        v.net = (u.homeCopies dpa x (BitVec.allOnes 64) none false).net ++
          [alFlight s home (.slice die (sliceOf t.key.va)) (.answer die t n (some 1)) t.key])) ∧
    (∀ (s u : State) (p : Packet) (h die dpa : Nat) (t : AlTake) (perm : Perm), Received s p u → p.dst = .home h → p.msg = .al (.take die t) →
      u.homeLook t.key.asid t.key.va .atomic (.entry t.entry) t.core = .ok dpa perm → s.channelWaits dpa = false →
      s.lostAt t.key.va = false → (s.memTagAt dpa ≠ 0xA000 ∨ ctrState (s.memBlk dpa) = 2) →
      ∃ v, exec .alTakeAtHome s = .next v ∧ v = { s with net := v.net, hbm := v.hbm, trk := v.trk, msc := v.msc } ∧ v.net = u.net ++
        [alFlight s (.home (eaHeap t.key.va)) (.slice (coreDie t.core) (sliceOf t.key.va)) (.fail t.key t.core t.entry t.thread
          (if s.memTagAt dpa = 0xA000 then 0x14 else 0x0A) (if s.memTagAt dpa = 0xA000 then some 2 else none)) t.key])) ∧
  (
    (∀ (s u : State) (p : Packet) (c die n st : Nat) (t t0 : AlTake) (e : AlCore), Received s p u → p.dst = .core c → t.core = c →
      p.msg = .al (.grant die t n st) → s.alCore c t.key = some e → e.scarce = false → e.poison = false →
      (∀ x, (mapGetD s.alDie x []).length < 1024) → e.queue = [t0] → t0.entry = t.entry →
      t0.thread = t.thread → t0.n ≤ e.units + n →
      ∃ v, exec .alGrant s = .next v ∧ v = { s with net := v.net, cores := v.cores } ∧
        v.alCore c t.key = some { e with units := e.units + n - t0.n, held := true, queue := [], asked := false, used := s.clk } ∧
        v.net = u.net ++ [sentFlight s.clk (.core c) (.core c) 0 none (.al (.answer (coreDie c) t0 t0.n none))]) ∧
    (∀ (s u : State) (p : Packet) (d i die n st : Nat) (t : AlTake) (e : AlDie), Received s p u → p.dst = .slice d i →
      p.msg = .al (.grant die t n st) → s.alDieOf d t.key = some e → e.recalling = [] → e.poison = false →
      (∀ x, (mapGetD s.alDie x []).length < 1024) → t.exact = false → t.want ≤ e.units + n →
      ∃ v, exec .alGrant s = .next v ∧ v = { s with net := v.net, alDie := v.alDie } ∧
        v.alDieOf d t.key = some { e with
          units := e.units + n - t.want, held := true, scarce := false, used := s.clk
          cores := if e.cores.contains t.core then e.cores else e.cores ++ [t.core] } ∧
        v.net = u.net ++ [alFlight s (.slice d (sliceOf t.key.va)) (.core t.core) (.grant d t t.want 0) t.key]) ∧
    (∀ (s u : State) (p : Packet) (d i die n st : Nat) (t : AlTake) (v : AlDie), Received s p u → p.dst = .slice d i →
      (p.msg = .al (.grant die t n st) ∨ p.msg = .al (.answer die t n (some 1))) →
      s.alDieOf d t.key = none → 1024 ≤ (mapGetD s.alDie d []).length → (∀ x ∈ mapGetD s.alDie d [], x.recalling = []) →
      v ∈ mapGetD s.alDie d [] → (∀ x ∈ mapGetD s.alDie d [], x = v ∨ v.used < x.used) →
      (p.msg = .al (.grant die t n st) → exec .alGrant s = .next (s.evictDie d v)) ∧
      (p.msg = .al (.answer die t n (some 1)) → exec .alAnswer s = .next (s.evictDie d v))) ∧
    (∀ (s : State) (d : Nat) (v : AlDie),
      (v.cores = [] → s.evictDie d v = (s.dropAlDie d v.key).sendUp d v.key (.give v.key d v.units none)) ∧
      (∀ c, v.cores = [c] → ∃ t, s.evictDie d v = t ∧ t = { s with net := t.net, alDie := t.alDie } ∧
        t.alDieOf d v.key = some { v with recalling := [c], evict := true } ∧
        t.net = s.net ++ [alFlight s (.slice d (sliceOf v.key.va)) (.core c) (.recalling v.key true) v.key])) ∧
    (∀ (s u : State) (p : Packet) (c : Nat) (k : AlKey) (b : Bool) (e : AlCore), Received s p u → p.dst = .core c → p.msg = .al (.recalling k b) →
      s.alCore c k = some e → e.queue = [] →
      ∃ v, exec .alRecall s = .next v ∧ v = { s with net := v.net, cores := v.cores } ∧ v.alCore c k = none ∧
        v.net = u.net ++ [alFlight s (.core c) (.slice (coreDie c) (sliceOf k.va)) (.ret k (coreDie c) c e.units e.poison) k]) ∧
    (∀ (s u : State) (p : Packet) (d i : Nat) (k : AlKey) (b : Bool) (e : AlDie), Received s p u → p.dst = .slice d i → p.msg = .al (.recalling k b) →
      s.alDieOf d k = some e → e.recalling = [] → eaSpace k.va ≠ 5 →
        ∃ v, exec .alRecall s = .next v ∧ v = { s with net := v.net, alDie := v.alDie } ∧
        (e.cores = [] → v.alDieOf d k = none ∧
          v.net = u.net ++ [alFlight s (.slice d (sliceOf k.va)) (.home (eaHeap k.va)) (.ret k d 256 e.units e.poison) k]) ∧
        (∀ c, e.cores = [c] → v.alDieOf d k = some { e with recalling := [c], evict := false } ∧
          v.net = u.net ++ [alFlight s (.slice d (sliceOf k.va)) (.core c) (.recalling k false) k])) ∧
    (∀ (s u : State) (p : Packet) (d i die core n : Nat) (k : AlKey) (b : Bool) (e : AlDie), Received s p u → p.dst = .slice d i →
      p.msg = .al (.ret k die core n b) → s.alDieOf d k = some e → e.recalling = [core] → e.evict = false → eaSpace k.va ≠ 5 →
      ∃ v, exec .alReturn s = .next v ∧ v = { s with net := v.net, alDie := v.alDie } ∧ v.alDieOf d k = none ∧
        v.net = u.net ++ [alFlight s (.slice d (sliceOf k.va)) (.home (eaHeap k.va)) (.ret k d 256 (e.units + n) (e.poison || b)) k]) ∧
    (∀ (s u : State) (p : Packet) (h die core n dpa d : Nat) (k : AlKey), Received s p u → p.dst = .home h →
      p.msg = .al (.ret k die core n false) → s.dpaOf k.asid k.va = some dpa → s.channelWaits dpa = false → d ∈ (s.alHomeAt k).dies → d ≠ die →
      ∃ v, exec .alReturn s = .next v ∧ v.net.length = u.net.length ∧
        BlockBecomes s v dpa (blkSetNat (s.memBlk dpa) 0 8 (ctrReserve (s.memBlk dpa) + n))) ∧
    (∀ (s u : State) (p : Packet) (d i die n : Nat) (k : AlKey) (f : Option (Nat × Nat × Nat)), Received s p u → p.dst = .slice d i →
      p.msg = .al (.give k die n f) →
      (s.alDieOf d k = none → exec .alGiveForward s = .next (u.sendUp d k (.give k d n f))) ∧
      (∀ e, s.alDieOf d k = some e → f = none → e.held = true → e.scarce = false → e.recalling = [] → e.units + n ≤ 2 * (s.quanta k).2 →
        ∃ v, exec .alGiveForward s = .next v ∧ v = { u with alDie := v.alDie } ∧ v.alDieOf d k = some { e with units := e.units + n, used := s.clk })) ∧
    (∀ (s u : State) (p : Packet) (h die n dpa : Nat) (k : AlKey), Received s p u → p.dst = .home h → p.msg = .al (.give k die n none) →
      s.dpaOf k.asid k.va = some dpa → s.channelWaits dpa = false → s.memTagAt dpa = 0xA000 → ctrState (s.memBlk dpa) = 0 →
      ∃ v, exec .alGiveForward s = .next v ∧ v.net.length = u.net.length ∧
        BlockBecomes s v dpa (blkSetNat (s.memBlk dpa) 0 8 (ctrReserve (s.memBlk dpa) + n))) ∧
    (∀ (s u : State) (p : Packet) (h die n dpa core entry thread : Nat) (k : AlKey) (perm : Perm), Received s p u → p.dst = .home h →
      p.msg = .al (.give k die n (some (core, entry, thread))) → u.homeLook k.asid k.va .atomic (.entry entry) core = .ok dpa perm →
      s.channelWaits dpa = false → s.lostAt k.va = false → s.memTagAt dpa = 0xA000 → ctrState (s.memBlk dpa) ≠ 2 → ctrNoGive (s.memBlk dpa) = false →
      let x := blkSetNat (s.memBlk dpa) 0 8 (ctrReserve (s.memBlk dpa) + n)
      let y := if ctrState x = 1 ∧ s.scarceBound k x < ctrReserve x then ctrSetState x (ctrRecalling x) 0 else x
      ∃ v, exec .alGiveForward s = .next v ∧ BlockBecomes s v dpa y ∧
        v.net.getLast? = some (alFlight s (.home (eaHeap k.va)) (.slice (coreDie core) (sliceOf k.va))
          (.value k core entry (BitVec.ofNat 64 thread) (some (ctrState y))) k)) ∧
    (∀ (s : State) (k : AlKey) (core entry thread n : Nat), s.alCore core k = none → s.alAllowed k = true → s.alCause k = none →
      s.alNoGive k = false →
      let here := Agent.slice (coreDie core) (sliceOf k.va)
      (s.alScarce k = true → s.giveAtCore k core entry thread n = { s with net := s.net ++ [alFlight s (.core core) here (.give k (coreDie core) n none) k,
        sentFlight s.clk (.core core) (.core core) 0 none (.al (.value k core entry (BitVec.ofNat 64 thread) none))] }) ∧
      (s.alScarce k = false → s.giveAtCore k core entry thread n = { s with net := s.net ++
        [alFlight s (.core core) here (.give k (coreDie core) n (some (core, entry, thread))) k] })) ∧
    (∀ (s u : State) (p : Packet) (d i c : Nat) (st : Option Nat) (k : AlKey) (m : AlMsg), Received s p u → p.dst = .slice d i → p.msg = .al m →
      m.key = k → ((∃ die t n, m = .answer die t n st ∧ t.core = c) ∨ (∃ e t x, m = .fail k c e t x st) ∨ ∃ e v, m = .value k c e v st) →
      (∀ x, (mapGetD s.alDie x []).length < 1024) →
      let go (x : State) : State := { x with net := x.net ++ [alFlight s (.slice d (sliceOf k.va)) (.core c) m k] }
      ((st = none ∨ (st ≠ some 1 ∧ ∀ e, s.alDieOf d k = some e → e.scarce = false)) → exec .alAnswer s = .next (go u)) ∧
      (∀ e, s.alDieOf d k = some e → st = some 1 → ∃ x, exec .alAnswer s = .next (go x) ∧ x = { u with alDie := x.alDie } ∧
        x.alDieOf d k = some { e with scarce := true, used := s.clk }) ∧
      (∀ e n, s.alDieOf d k = some e → st = some n → n ≠ 1 → e.scarce = true → ∃ x, exec .alAnswer s = .next (go x) ∧ x = { u with alDie := x.alDie } ∧
        x.alDieOf d k = if e.held = true ∨ e.recalling ≠ [] then some { e with scarce := false } else none)) ∧
    (∀ (s : State) (c n : Nat) (k : AlKey) (e : AlCore), s.alCore c k = some e →
      (s.recordAtCore c k none = s) ∧
      (s.recordAtCore c k (some 1)).alCore c k = some { e with scarce := true, used := s.clk } ∧
      (n ≠ 1 → (s.recordAtCore c k (some n)).alCore c k =
        if e.scarce = true ∧ e.held = false ∧ e.queue = [] then none else some { e with scarce := false })) ∧
    (∀ (s u : State) (p : Packet) (die n : Nat) (t : AlTake), Received s p u → p.dst = .core t.core →
      p.msg = .al (.answer die t n none) → (∀ x, (mapGetD s.alDie x []).length < 1024) → s.threadWaits t.entry t.key.va t.thread = true →
      exec .alAnswer s = .next (u.answerThread t.entry t.key.va t.thread (some (BitVec.ofNat 128 n)) 0)) ∧
    (∀ (s u : State) (p : Packet) (die n st : Nat) (t : AlTake), Received s p u → p.dst = .core t.core →
      p.msg = .al (.answer die t n (some st)) → (∀ x, (mapGetD s.alDie x []).length < 1024) → s.threadWaits t.entry t.key.va t.thread = true →
      s.alCore t.core t.key = none →
      exec .alAnswer s = .next (((u.recordAtCore t.core t.key (some st)).answerThread t.entry t.key.va t.thread
        (some (BitVec.ofNat 128 n)) 0).alServeAll t.core t.key)) ∧
    (∀ (s u : State) (p : Packet) (c entry : Nat) (k : AlKey) (v : DWord) (st : Option Nat) (e : WinEntry), Received s p u → p.dst = .core c →
      p.msg = .al (.value k c entry v st) → (∀ x, (mapGetD s.alDie x []).length < 1024) → mapFind s.win entry = some e → (∀ o, e.instr ≠ .algive o) →
      exec .alAnswer s = .next (((u.recordAtCore c k st).answerBlk entry k.va ((threadsOf e.left).map (fun t => (t, v.setWidth 128))) []).alServeAll c k))) ∧
  (
    (∀ (s u : State) (p : Packet) (h core entry lead dpa : Nat) (k : AlKey) (o : Ops) (r : ThreadReq) (perm : Perm), Received s p u →
      p.dst = .home h → p.msg = .al (.op (.alread o) k core entry lead r) → u.homeLook k.asid k.va .atomic (.entry entry) core = .ok dpa perm → s.channelWaits dpa = false →
      s.lostAt k.va = false →
      let b := s.memBlk dpa
      let v := if ctrState b = 2 then 2 ^ 64 - 1 else ctrReserve b
      let st := if ctrState b = 2 then 2 else if ctrReserve b ≤ s.scarceBound k b then 1 else 0
      (s.memTagAt dpa = 0xA000 → (∀ x ∈ s.alHome, x.key ≠ k) → ctrDieMask b = 0 → ctrPkgMask b = 0 →
          ∃ t, exec .alreadAlcloseAtHome s = .next t ∧ t.memTagAt dpa = 0xA000 ∧ BlockBecomes s t dpa (ctrSetState b false st) ∧
            t.net = (u.homeCopies dpa (ctrSetState b false st) (BitVec.allOnes 64) none false).net ++
              [alFlight s (.home (eaHeap k.va)) (.slice (coreDie core) (sliceOf k.va)) (.value k core entry (BitVec.ofNat 64 v) (some st)) k]) ∧
      (s.memTagAt dpa ≠ 0xA000 → ∃ t, exec .alreadAlcloseAtHome s = .next t ∧
        t = { s with net := t.net, hbm := t.hbm, trk := t.trk, msc := t.msc } ∧ t.net = u.net ++
          [alFlight s (.home (eaHeap k.va)) (.slice (coreDie core) (sliceOf k.va)) (.fail k core entry 32 0x0A none) k])) ∧
    (∀ (s u : State) (p : Packet) (h core entry lead dpa : Nat) (k : AlKey) (o : Ops) (r : ThreadReq) (perm : Perm), Received s p u →
      p.dst = .home h → p.msg = .al (.op (.alclose o) k core entry lead r) → u.homeLook k.asid k.va .atomic (.entry entry) core = .ok dpa perm →
      let b := s.memBlk dpa
      let v := if ctrState b = 2 then 2 ^ 64 - 1 else ctrReserve b
      let st := if ctrState b = 2 then 2 else if ctrReserve b ≤ s.scarceBound k b then 1 else 0
      s.channelWaits dpa = false → s.lostAt k.va = false →
      s.memTagAt dpa = 0xA000 → (∀ x ∈ s.alHome, x.key ≠ k) → ctrDieMask b = 0 → ctrPkgMask b = 0 → dpaTarget dpa ≠ 13 →
      ∃ t, exec .alreadAlcloseAtHome s = .next t ∧ BlockBecomes s t dpa (BitVec.ofNat 512 v) ∧ t.memTagAt dpa = 0 ∧
        t.net = (u.homeCopies dpa (BitVec.ofNat 512 v) (BitVec.allOnes 64) (some 0) false).net ++
          [alFlight s (.home (eaHeap k.va)) (.slice (coreDie core) (sliceOf k.va)) (.value k core entry (BitVec.ofNat 64 v) (some st)) k]) ∧
    (∀ (s u : State) (p : Packet) (h core entry lead dpa : Nat) (k : AlKey) (o : Ops) (r : ThreadReq) (perm : Perm), Received s p u →
      p.dst = .home h → p.msg = .al (.op (.alinit o) k core entry lead r) → u.homeLook k.asid k.va .store (.entry entry) core = .ok dpa perm →
      eaHeap k.va ≠ 13 → dpaTarget dpa ≠ 13 → s.channelWaits dpa = false → s.lostAt k.va = false →
      (s.memTagAt dpa = 0xA000 → ∃ t, exec .alreadAlcloseAtHome s = .next t ∧
        t = { s with net := t.net, hbm := t.hbm, trk := t.trk, msc := t.msc } ∧ t.net = u.net ++
          [alFlight s (.home (eaHeap k.va)) (.slice (coreDie core) (sliceOf k.va)) (.fail k core entry 32 0x0A (some (ctrState (s.memBlk dpa)))) k]) ∧
      (s.memTagAt dpa ≠ 0xA000 → ∃ t, exec .alreadAlcloseAtHome s = .next t ∧ t.memTagAt dpa = 0xA000 ∧
        ctrReserve (t.memBlk dpa) = r.data.toNat % 2 ^ 64 ∧ ctrState (t.memBlk dpa) = 0 ∧ ctrDieMask (t.memBlk dpa) = 0 ∧
        ctrNoGive (t.memBlk dpa) = o.attr.ispec.getLsbD 0 ∧
        t.net.getLast? = some (alFlight s (.home (eaHeap k.va)) (.slice (coreDie core) (sliceOf k.va)) (.value k core entry 0 (some 0)) k))) ∧
    (∀ (s u : State) (p : Packet) (h dpa : Nat) (k : AlKey), Received s p u → p.dst = .home h → p.msg = .al (.poison k) → eaSpace k.va ≠ 5 →
        s.dpaOf k.asid k.va = some dpa → s.memTagAt dpa = 0xA000 →
      ∃ t, exec .alPoison s = .next t ∧ BlockBecomes s t dpa (ctrSetState (s.memBlk dpa) (ctrRecalling (s.memBlk dpa)) 2) ∧
        t.net.length = u.net.length))

/-- R119, R120, R122, R188, R47, R386: the later block of a code line places the line in the instruction cache, pinned where a
CPIN waits for it, whose threads then have 1 in the destination; a sheaf's requested line that the cache holds enters its fetch
buffer; a constant block enters the constant cache; a patch writes an instruction word to memory and to the pinned line
together, and nothing where the line is not pinned. -/
def Obligations.CodeAndConstants : Prop :=
  (∀ (s u : State) (p : Packet) (c : Nat) (q : ReadReq) (a : BlkAns) (m : IcMiss), Received s p u → p.dst = .core c → p.msg = .data q a →
    q.asker = .line → a.status = .ok → a.poison = 0 → (s.core c).icMiss = [m] → m.asid = q.asid → q.va = m.va →
    q.va &&& 0x01FFFFFFFFFFFF80 = q.va → m.lo = none → m.fail = none → m.stale = false → m.want = [] →
    (m.hi = none → exec (.icacheFill c) s = .next ((u.readDone q.asid a).onCore c (fun k =>
      { k with icMiss := [{ m with lo := some (u.readAs q.asid a).blk }] }))) ∧
    (∀ hi, m.hi = some hi → ((s.core c).ic.filter (fun l => icSet l.va == icSet m.va)).length < 8 →
      ∃ t, exec (.icacheFill c) s = .next t ∧ t = { u.readDone q.asid a with cores := t.cores } ∧ (t.core c).icMiss = [] ∧
        (t.core c).ic = (s.core c).ic.filter (fun x => !(x.asid == m.asid && x.va == m.va)) ++
          [{ asid := m.asid, va := m.va, lo := (u.readAs q.asid a).blk, hi := hi, pinned := false, used := s.clk }])) ∧
  (∀ (s u : State) (p : Packet) (c : Nat) (q : ReadReq) (a : BlkAns) (m : IcMiss) (hi : Blk) (k d : Nat) (sh : Sheaf) (w : Workgroup) (mask : TMask),
    Received s p u → p.dst = .core c → p.msg = .data q a → q.asker = .line → a.status = .ok → a.poison = 0 → (s.core c).icMiss = [m] →
    m.asid = q.asid → q.va = m.va → q.va &&& 0x01FFFFFFFFFFFF80 = q.va → m.lo = none → m.hi = some hi → m.fail = none → m.stale = false →
    m.want = [.pin sh.wg sh.idx (some d) mask] → ((s.core c).ic.filter (fun l => icSet l.va == icSet m.va)).length < 8 →
    s.sheaves = [(k, sh)] → sh.ended = false → mapFind s.wgs sh.wg = some w → w.saved = [] → d < 256 →
    ∃ t x, exec (.icacheFill c) s = .next t ∧ t = { u.readDone q.asid a with cores := t.cores, sheaves := [(k, x)], wgs := t.wgs } ∧
      (∀ g, mapFind t.wgs g = mapFind s.wgs g) ∧ (t.core c).icMiss = [] ∧
      (t.core c).ic = (s.core c).ic.filter (fun x => !(x.asid == m.asid && x.va == m.va)) ++
        [{ asid := m.asid, va := m.va, lo := (u.readAs q.asid a).blk, hi := hi, pinned := true, used := s.clk }] ∧
      (∀ r, r < 256 → x.pend.getLsbD r = (sh.pend.getLsbD r && r != d)) ∧
      (∀ r t, t < 32 → x.reg r t = if r = d ∧ mask.getLsbD t = true then 1 else sh.reg r t) ∧
      x = { sh with regs := x.regs, rpoison := x.rpoison, pend := x.pend, pendTill := x.pendTill }) ∧
  (∀ (s : State) (k : Nat) (sh : Sheaf) (w : Workgroup) (rest : Map Sheaf) (va : DWord) (l : IcLine), s.sheaves = (k, sh) :: rest →
    sh.fetching = some va → mapFind s.wgs sh.wg = some w → s.icFind (slotCore k) w.asid (va &&& 0x01FFFFFFFFFFFF80) = some l →
    ∃ t x, exec (.fetchBufferFill (slotCore k)) s = .next t ∧ t = { s with sheaves := t.sheaves, cores := t.cores } ∧ t.sheaf k = some x ∧
      x.fetching = none ∧ (∃ y ∈ x.fbuf, y.va = va ∧ y.lo = l.lo ∧ y.hi = l.hi) ∧
      x = { sh with fbuf := x.fbuf, fetching := none, readyAt := s.clk }) ∧
  (∀ (s u : State) (p : Packet) (c : Nat) (q : ReadReq) (a : BlkAns), Received s p u → p.dst = .core c → p.msg = .data q a → q.asker = .const →
    a.status = .ok → a.poison = 0 → (s.core c).cc.length < 1024 → s.constWaiters c q.asid q.va = [] →
    (∀ m ∈ (s.core c).ccMiss, m.asid = q.asid → m.va = q.va → m.stale = false) →
    ∃ t, exec (.constFillReturn c none) s = .next t ∧ t = { u.readDone q.asid a with cores := t.cores } ∧
      (t.core c).cc = (s.core c).cc.filter (fun b => !(b.asid == q.asid && b.va == q.va)) ++ [{ asid := q.asid, va := q.va, data := (u.readAs q.asid a).blk }] ∧
      (t.core c).ccMiss = (s.core c).ccMiss.filter (fun m => !(m.asid == q.asid && m.va == q.va))) ∧
  (∀ (s : State) (c : Nat) (asid : BitVec 16) (va word : DWord),
    let line := va &&& 0x01FFFFFFFFFFFF80
    ((∀ l, s.icFind c asid line = some l → l.pinned = false) → exec (.debugPatchPinned c asid va word) s = .next s) ∧
    (∀ l dpa, s.icFind c asid line = some l → l.pinned = true → s.dpaOf asid va = some dpa → va.toNat % 8 = 0 →
      ∃ t, exec (.debugPatchPinned c asid va word) s = .next t ∧ t.sheaves = s.sheaves ∧
        (∀ i, i < 8 → t.memByte (dpa / 64 * 64 + va.toNat % 64 + i) = word.extractLsb' (8 * i) 8) ∧
        (∀ a, (a < dpa / 64 * 64 + va.toNat % 64 ∨ dpa / 64 * 64 + va.toNat % 64 + 8 ≤ a) → t.memByte a = s.memByte a) ∧
        (∃ x ∈ (t.core c).ic, x.asid = asid ∧ x.va = l.va ∧ x.pinned = true)))

/-- R267, R268, R272 to R275, R408: the oldest operation whose sheaf's earlier stores are performed begins: its record gives its
parts, and a record that is refused leaves no part and latches its cause; a block that returns goes to its part; a write
performed counts off its part and, with a barrier object, sends its bytes there; the arrivals of one cycle update the object
once and are acknowledged; finished operations leave oldest first and their counter drops once for each. DEDUCED: a write to
memory is counted when its acknowledgement is back (log 39), an object is checked without its INIT (log 54), and all parts start
at once (log 47). R262, R264, R272, R275 to R279: what the copy-and-gather operations read and write. A CPY whose records pass
moves every byte of every row within the extents of both records, and no other, one part for each source block; a refused one
latches its cause. A GATH takes the row of each thread's index, a BAGS the rows and weights of its bag, a SCAD the row to add
to, each under BOUNDS; a FILL covers every row of its record. A read goes to its slice, a write carries its bytes, tag and
poison, a row gives the elements of its blocks under their own tags. -/
def Obligations.EngineSteps : Prop :=
  (
    (∀ (s : State) (c : Nat) (op : EngOp) (w : Workgroup) (pre rest : List EngOp) (words : List Word) (cause : Nat),
      (s.core c).eng = pre ++ op :: rest → (∀ x ∈ pre, x.begun = true ∨ s.storesOut x = true) → op.begun = false → s.storesOut op = false →
      op.core = c → mapFind s.wgs op.wg = some w → s.engParts w op = ([], words, some cause) →
      ∃ op' : EngOp, op'.begun = true ∧ op'.items = [] ∧ op'.id = op.id ∧ op'.wg = op.wg ∧ op'.idx = op.idx ∧ op'.matrix = op.matrix ∧
        exec (.engineOpBegin c) s = .next ((s.onOp c op.id (fun _ => op')).latchEng op cause)) ∧
    (∀ (s : State) (c : Nat) (op : EngOp) (w : Workgroup) (pre rest : List EngOp) (words : List Word) (items : List EngItem),
      (s.core c).eng = pre ++ op :: rest → (∀ x ∈ pre, x.begun = true ∨ s.storesOut x = true) → op.begun = false → s.storesOut op = false →
      op.core = c → mapFind s.wgs op.wg = some w → s.engParts w op = (items, words, none) → (∀ o, op.instr ≠ .cpy o) →
      ∃ op' : EngOp, op'.begun = true ∧ op'.items.length = items.length ∧ op'.words = words ∧ op'.id = op.id ∧
        exec (.engineOpBegin c) s = .next (op'.items.foldl (fun s it => s.startItem op' it) (s.onOp c op.id (fun _ => op')))) ∧
    (∀ (s : State) (c : Nat) (op : EngOp) (w : Workgroup) (o : Ops) (pre rest : List EngOp) (words : List Word) (items : List EngItem),
      (s.core c).eng = pre ++ op :: rest → (∀ x ∈ pre, x.begun = true ∨ s.storesOut x = true) → op.begun = false → s.storesOut op = false →
      op.core = c → mapFind s.wgs op.wg = some w → op.instr = .cpy o → s.engParts w op = (items, words, none) →
      let wa := (s.opRecord w op.recA op.a).toOption.getD []
      let op' : EngOp := { op with begun := true, words := words ++ wa, span := op.extent (bufRec wa) (bufRec words),
                                   items := items.map (fun x => { x with boCore := op.receiver (bufRec wa) }) }
      ((items = [] ∨ s.extentOk w op (bufRec wa) op'.span = true) →
        exec (.engineOpBegin c) s = .next (op'.items.foldl (fun s it => s.startItem op' it) (s.onOp c op.id (fun _ => op')))) ∧
      (items ≠ [] → s.extentOk w op (bufRec wa) op'.span = false →
        exec (.engineOpBegin c) s = .next ((s.onOp c op.id (fun _ => { op' with items := [] })).latchEng op causeAddress))) ∧
    (∀ (s u : State) (p : Packet) (c c' id item n : Nat) (a : LsAns), Received s p u → p.dst = .core c → p.msg = .lsAns a →
      a.who = .engine c' id item n → exec (.engineBlockReadReturn c) s = .next (u.gotBlock c' id item n a.blk)) ∧
    (∀ (s u : State) (p : Packet) (c id item n : Nat) (q : ReadReq) (a : BlkAns) (op : EngOp), Received s p u → p.dst = .core c →
      p.msg = .data q a → q.asker = .engine id item n → (∀ t, a.status ≠ .fault t) → s.opCore id = some c → s.findOp c id = some op →
      op.core = c → op.cores = [] → exec (.engineBlockReadReturn c) s = .next ((u.readDone q.asid a).gotBlock c id item n (u.readAs q.asid a))) ∧
    (∀ (s u : State) (p : Packet) (c k id item n : Nat) (q : ReadReq) (a : BlkAns) (op : EngOp) (o : Ops) (it : EngItem), Received s p u →
      p.dst = .core c → p.msg = .data q a → q.asker = .engine id item n → s.opCore id = some k → s.findOp k id = some op → op.instr = .cpy o →
      op.item item = some it → op.cores ≠ [] → n ∉ it.asked → a.status = .ok →
      exec (.engineBlockReadReturn c) s = .next ((u.readDone q.asid a).castBlock c op o it (u.readAs q.asid a))) ∧
    (∀ (s u : State) (p : Packet) (c op item : Nat) (w : WriteReq) (a : BlkAns) (e : EngOp), Received s p u → p.dst = .core c →
      p.msg = .writeAck w a → w.writer = .engine c op item → s.findOp c op = some e → a.status = .ok →
      let v := (u.onItem c op item (fun x => { x with acks := x.acks - 1 })).dropL1 c w.asid w.va
      (e.bo = none → exec (.engineBlockWrite c) s = .next v) ∧
      (∀ off, e.bo = some off → e.core = c → e.id = op → exec (.engineBlockWrite c) s = .next (v.send (.core c)
        (.core (((e.item item).bind (fun x => x.boCore)).getD c)) 0 (s.partOf e.own)
        (.boArr e.own off ((List.range 64).filter (fun i => w.mask.getLsbD i)).length c op e.completionScope)))) ∧
    (∀ (s u : State) (p : Packet) (c k op item n : Nat) (a : LsAns) (e : EngOp), Received s p u → p.dst = .core c → p.src = .core k →
      p.msg = .lsAns a → a.who = .put c op item n → s.findOp c op = some e →
      let v := u.onItem c op item (fun x => { x with acks := x.acks - 1 })
      (a.blk.status = .ok → exec (.engineBlockWrite c) s = .next v) ∧
      (∀ cause, a.blk.status = .bad cause → e.bo = none → exec (.engineBlockWrite c) s = .next (v.latchEng e cause.toNat))) ∧
    (∀ (s : State) (core off bytes c op : Nat) (asid : BitVec 16) (f : Flight), s.boDue core f = some ⟨asid, off, bytes, c, op⟩ ↔
      f.place = .inbox ∧ f.p.dst = .core core ∧ f.since < s.clk ∧ ∃ scope, f.p.msg = .boArr asid off bytes c op scope) ∧
    (∀ (s : State) (core : Nat), (∀ f ∈ s.net, s.boDue core f = none) → exec (.boArrival core) s = .next s) ∧
    (∀ (s : State) (core t off : Nat) (f : Flight) (fs rest : List Flight), s.net = f :: fs ++ rest →
      (∀ g ∈ f :: fs, g.since = t ∧ ∃ x, s.boDue core g = some x ∧ x.off = off) → (∀ g ∈ rest, s.boDue core g = none) →
      let xs := (f :: fs).filterMap (s.boDue core)
      let counts (x : BoArr) : Bool := x.off % 16 == 0 && s.regionOk core x.off (x.off + 15) x.asid false none
      let bytes := ((xs.filter counts).map (fun x => x.bytes)).sum
      let u : State := { s with net := rest }
      let v := if xs.any counts then u.boUpdate core off 0 (BitVec.ofNat 32 bytes) else u
      exec (.boArrival core) s = .next
        (xs.foldl (fun v x => v.send (.core core) (.core x.core) 0 (s.partOf x.asid) (.boAck x.op (!counts x))) v)) ∧
    (∀ (s : State) (c : Nat), (∀ f ∈ s.net, f.place ≠ .inbox) →
      (∀ op, (s.core c).eng = [op] → op.finished = true →
        exec (.engineComplete c) s = .next ((s.onCore c (fun k => { k with eng := [] })).onMember op.wg op.idx (fun sh => sh.drop (if op.matrix then 1 else 0)))) ∧
      (∀ a b, (s.core c).eng = [a, b] → a.wg = b.wg → a.idx = b.idx → a.matrix = b.matrix → a.finished = false →
        exec (.engineComplete c) s = .next s))) ∧
  (
    -- the checks of CPY, and its parts
    (∀ (s : State) (w : Workgroup) (op : EngOp) (o : Ops) (b a : BufRec), op.instr = .cpy o → o.mod.toNat % 8 = 0 →
      s.goodRecord w op.recB op.b = .ok b → s.goodRecord w op.recA op.a = .ok a → b.empty = false →
      let moves (r : BufRec) : Prop := r.base.toNat % 64 = 0 ∧ r.bytes r.ext0 % 64 = 0 ∧ r.stride1 % 64 = 0 ∧ r.stride2 % 64 = 0
      let outside : Prop := a.bounds = 0 ∧ (a.ext0 < b.ext0 ∨ a.ext1 < b.ext1 ∨ a.ext2 < b.ext2)
      let len := b.bytes (min b.ext0 a.ext0)
      (a.bits ≠ b.bits → s.engParts w op = ([], [], some causeFormat)) ∧
      (a.bits = b.bits → a.tagMode = 1 → ¬(moves a ∧ moves b) → s.engParts w op = ([], [], some causeMisaligned)) ∧
      (a.bits = b.bits → (a.tagMode = 1 → moves a ∧ moves b) → outside → s.engParts w op = ([], [], some causeBounds)) ∧
      (a.bits = b.bits → (a.tagMode = 1 → moves a ∧ moves b) → ¬outside → (∀ y z, y < min b.ext1 a.ext1 → z < min b.ext2 a.ext2 → (b.at 0 y z).toNat + len ≤ 2 ^ 64) →
        ∃ (items : List EngItem) (ws : List Word), s.engParts w op = (items, ws, none) ∧
          (∀ y z i, y < min b.ext1 a.ext1 → z < min b.ext2 a.ext2 → i < len → ∃ it ∈ items, ∃ x : DWord, it.src = [some x] ∧
            x.toNat ≤ (b.at 0 y z).toNat + i ∧ (b.at 0 y z).toNat + i < x.toNat + it.len ∧ it.dst = a.at 0 y z + (x - b.at 0 y z)) ∧
          (∀ it ∈ items, ∃ (y z : Nat) (x : DWord), y < min b.ext1 a.ext1 ∧ z < min b.ext2 a.ext2 ∧ it.src = [some x] ∧ 0 < it.len ∧
            x.toNat % 64 + it.len ≤ 64 ∧ (b.at 0 y z).toNat ≤ x.toNat ∧ x.toNat + it.len ≤ (b.at 0 y z).toNat + len))) ∧
    (∀ (s : State) (w : Workgroup) (op : EngOp) (o : Ops) (b : BufRec), op.instr = .cpy o → s.goodRecord w op.recB op.b = .ok b → b.empty = false →
      o.mod.toNat % 8 = 1 ∨ o.mod.toNat % 8 = 2 →
      let mc : Prop := o.mod.toNat % 8 = 2
      let p : DWord := if o.mod.toNat % 8 = 2 then (op.a.extractLsb' 0 32).setWidth 64 else op.a
      let moves : Prop := b.base.toNat % 64 = 0 ∧ b.bytes b.ext0 % 64 = 0 ∧ b.stride1 % 64 = 0 ∧ b.stride2 % 64 = 0 ∧ p.toNat % 64 = 0
      let len := b.bytes b.ext0
      (¬mc → p.toNat / 2 ^ 60 ∉ [1, 2, 3] → s.engParts w op = ([], [], some causeAddress)) ∧
      (mc → 2 ^ 16 ≤ op.c.toNat % 2 ^ 32 → s.engParts w op = ([], [], some causeIllegalOperand)) ∧
      ((mc ∧ op.c.toNat % 2 ^ 32 < 2 ^ 16 ∨ ¬mc ∧ p.toNat / 2 ^ 60 ∈ [1, 2, 3]) →
        (b.tagMode = 1 → ¬moves → s.engParts w op = ([], [], some causeMisaligned)) ∧
        ((b.tagMode = 1 → moves) → mc → op.c.toNat % 2 ^ 32 = 0 → ∃ ws, s.engParts w op = ([], ws, none)) ∧
        ((b.tagMode = 1 → moves) → (mc → op.c.toNat % 2 ^ 32 ≠ 0) → (∀ y z, y < b.ext1 → z < b.ext2 → (b.at 0 y z).toNat + len ≤ 2 ^ 64) →
          ∃ (items : List EngItem) (ws : List Word), s.engParts w op = (items, ws, none) ∧
            (∀ y z i, y < b.ext1 → z < b.ext2 → i < len → ∃ it ∈ items, ∃ x : DWord, it.src = [some x] ∧
              x.toNat ≤ (b.at 0 y z).toNat + i ∧ (b.at 0 y z).toNat + i < x.toNat + it.len ∧
              it.dst = p + BitVec.ofNat 64 ((z * b.ext1 + y) * b.ext0 * b.bits / 8) + (x - b.at 0 y z)) ∧
            (∀ it ∈ items, ∃ (y z : Nat) (x : DWord), y < b.ext1 ∧ z < b.ext2 ∧ it.src = [some x] ∧ 0 < it.len ∧ x.toNat % 64 + it.len ≤ 64 ∧
              (b.at 0 y z).toNat ≤ x.toNat ∧ x.toNat + it.len ≤ (b.at 0 y z).toNat + len)))) ∧
    (∀ (op : EngOp) (o : Ops) (d : DWord), op.instr = .cpy o →
      (o.mod.toNat % 8 ≠ 2 → op.targets d = [d] ∧ op.cores = []) ∧
      (o.mod.toNat % 8 = 2 → op.cores = (List.range 16).filter (fun c => op.c.getLsbD c) ∧
        op.targets d = op.cores.map (fun c => BitVec.ofNat 64 (2 * 2 ^ 60 + coreDie op.core * 2 ^ 36 + c * 2 ^ 32) + d))) ∧
    -- reads
    (∀ (s : State) (op : EngOp) (o : Ops) (it : EngItem) (a : DWord) (h : Nat), op.instr = .cpy o → it.src = [some a] →
      let q : ReadReq := { asid := s.engAsid op a, va := blkBase a, asker := .engine op.id it.index 0, kind := .load, pol := op.policy, l1 := false,
                           epoch := 0, ovl := 0, overM := 0, overT := none, bulk := true, place := 0 }
      let sent (m : Msg) : Flight := sentFlight s.clk (.core op.core) (.slice (coreDie op.core) (sliceOf (blkBase a))) 2 (s.partOf (s.engAsid op a)) m
      (s.engLoc op a = some (.dev h) → op.cores = [] → s.startItem op it =
        { s.onItem op.core op.id it.index (fun x => { x with asked := [0] }) with net := s.net ++ [sent (.read q)] }) ∧
      (s.engLoc op a = some (.dev h) → op.cores ≠ [] → (s.startItem op it).net = s.net ++ [sent (.multi q op.cores)]) ∧
      (s.engLoc op a = none → s.startItem op it = s.itemFails op it.index causeAddress)) ∧
    -- writes
    (∀ (d : DWord) (len v bad : Nat), len ≤ 64 →
      (∀ i, i < len → ∃ p ∈ putsAt d len v bad, let at_ := (d + BitVec.ofNat 64 i).toNat % 64
        p.addr = (d + BitVec.ofNat 64 i) &&& ~~~(63#64) ∧ p.mask.getLsbD at_ = true ∧ p.blk.extractLsb' (8 * at_) 8 = BitVec.ofNat 8 (v >>> (8 * i)) ∧
        (bad.testBit i = true → p.poison.getLsbD (at_ / 4) = true)) ∧
      (∀ p ∈ putsAt d len v bad, ∀ j, p.mask.getLsbD j = true → ∃ i, i < len ∧ p.addr + BitVec.ofNat 64 j = d + BitVec.ofNat 64 i) ∧
      (bad = 0 → ∀ p ∈ putsAt d len v bad, p.poison = 0)) ∧
    (∀ (it : EngItem) (b : EngBlk) (d a : DWord), it.src = [some a] →
      ∃ v bad : Nat, copyPuts it b d = putsAt d it.len v bad ∧ (∀ i, i < it.len → a.toNat % 64 + it.len ≤ 64 →
        BitVec.ofNat 8 (v >>> (8 * i)) = b.blk.extractLsb' (8 * (a.toNat % 64 + i)) 8 ∧ bad.testBit i = b.poison.getLsbD ((a.toNat % 64 + i) / 4))) ∧
    (∀ (s : State) (op : EngOp) (o : Ops) (it : EngItem) (b : EngBlk),
      let r := op.tagRecord o
      let tag : Option Tag := if r.tagMode = 0 then none else if r.tagMode = 1 then some b.tag
        else if r.fmt = 0 then some 0 else some (BitVec.ofNat 16 (r.fmt * 256) ||| o.attr.ispec.setWidth 16)
      let code := b.tag.toNat / 256
      (∀ c, b.status = .bad c → s.copyBlock op o it b = s.itemFails op it.index c.toNat) ∧
      (b.status = .ok → code = 0xA0 → s.copyBlock op o it b = s.itemFails op it.index causeAllowObject) ∧
      (b.status = .ok → 8 < code → code ≠ 0xA0 → s.copyBlock op o it b = s.itemFails op it.index causeFormat) ∧
      (b.status = .ok → code ≤ 8 →
        s.copyBlock op o it b = s.engWrites op it.index ((op.targets it.dst).flatMap (fun d => (copyPuts it b d).map (fun p => (p, tag)))))) ∧
    (∀ (s : State) (op : EngOp) (item : Nat) (ps : List (Put × Option Tag)),
      let t := ps.foldl (fun s p => s.engPut op item p.1 p.2) (s.onItem op.core op.id item (fun x => { x with settled := true }))
      s.engWrites op item ps = if ps.any (fun p => p.1.poison != 0) then t.latchEng op causeDataError else t) ∧
    (∀ (s : State) (op : EngOp) (item : Nat) (p : Put) (tag : Option Tag),
      let base := blkBase p.addr
      let asid := s.engAsid op p.addr
      let part := s.partOf asid
      let u := s.dropL1 op.core asid base
      (p.mask = 0 → s.engPut op item p tag = s) ∧
      (p.mask ≠ 0 → s.engLoc op p.addr = none → s.engPut op item p tag = s.latchEng op causeAddress) ∧
      (∀ h, p.mask ≠ 0 → s.engLoc op p.addr = some (.dev h) → (s.engPut op item p tag).net = u.net ++
        [sentFlight s.clk (.core op.core) (.slice (coreDie op.core) (sliceOf base)) 2 part (.write
          { id := u.winNext, asid := asid, va := base, dpa := none, blk := p.blk, mask := p.mask, tag := tag, poison := p.poison
            writer := .engine op.core op.id item })]) ∧
      (∀ off, p.mask ≠ 0 → s.engLoc op p.addr = some (.own off) → ∃ q : LsReq, (s.engPut op item p tag).net = s.net ∧
        ((s.engPut op item p tag).core op.core).bankQ = (s.core op.core).bankQ ++ [q] ∧ q.core = op.core ∧ q.base = off / 64 * 64 ∧
        q.act = .write p.blk p.mask tag p.poison) ∧
      (∀ c off, p.mask ≠ 0 → c ≠ op.core → s.engLoc op p.addr = some (.peer c off) → ∃ q : LsReq, (s.engPut op item p tag).net = s.net ++
        [sentFlight s.clk (.core op.core) (.core c) 2 part (.ls q)] ∧ q.core = c ∧ q.base = off / 64 * 64 ∧ q.act = .write p.blk p.mask tag p.poison)) ∧
    (∀ (s : State) (here : Nat) (op : EngOp) (o : Ops) (it : EngItem) (a : BlkAns), a.tag.toNat / 256 ≤ 8 →
      let b : EngBlk := { blk := a.blk, tag := a.tag, poison := a.poison, status := a.status }
      ∃ qs : List LsReq, (s.castBlock here op o it a).net = s.net ++ qs.map (fun q => sentFlight s.clk (.core here) (.core here) 1 none (.ls q)) ∧
        qs.map (fun q => (q.core, q.base, q.act)) =
          (copyPuts it b it.dst).map (fun p => (here, p.addr.toNat % 2 ^ 24, LsAct.write p.blk p.mask (destTag (bufRec op.words) o.attr.ispec a.tag) p.poison))) ∧
    -- rows of tables
    (∀ (r : BufRec) (j : Nat), r.row j = r.base + BitVec.ofNat 64 ((j % r.ext1) * r.stride1 + (j / r.ext1) * r.stride2)) ∧
    (∀ (it : EngItem) (row ext0 code : Nat) (a : DWord), it.src[row]? = some (some a) → 1 ≤ code → code ≤ 8 →
      let bits := elemBits code
      let per := 512 / bits
      (∀ n, n < (ext0 + per - 1) / per → ∃ b, mapFind it.got (readNo row n) = some b ∧ b.status = .ok ∧ b.tag.toNat / 256 = code) →
      ∃ xs, it.row ext0 row = .vals xs ∧ xs.length = ext0 ∧ ∀ x, x < ext0 → ∃ b, mapFind it.got (readNo row (x / per)) = some b ∧
        (xs[x]?).map (fun v => v.1) = some (scaledValue code (b.tag.toNat % 256) ((b.blk.toNat >>> ((x % per) * bits)) % 2 ^ bits)) ∧
        (xs[x]?).map (fun v => v.2) = some (b.poison &&& wordsOf ((x % per) * bits / 8) ((bits + 7) / 8) != 0)) ∧
    (∀ (it : EngItem) (row fuel n left : Nat) (acc : List (FVal × Bool)) (b : EngBlk), 0 < left → mapFind it.got (readNo row n) = some b →
      let code := b.tag.toNat / 256
      let k := min left (512 / elemBits code)
      (b.status = .ok → code = 0 ∨ 8 < code ∧ code ≠ 0xA0 → rowWalk it row (fuel + 1) n left acc = .fails causeFormat) ∧
      (b.status = .ok → code = 0xA0 → rowWalk it row (fuel + 1) n left acc = .fails causeAllowObject) ∧
      (b.status = .ok → 1 ≤ code → code ≤ 8 → ∃ more, more.length = k ∧
        rowWalk it row (fuel + 1) n left acc = rowWalk it row fuel (n + 1) (left - k) (acc ++ more))) ∧
    (∀ (it : EngItem) (row ext0 : Nat), it.src[row]? = some none → it.row ext0 row = .vals (List.replicate ext0 (FVal.zero, false))) ∧
    -- GATH
    (∀ (s : State) (w : Workgroup) (op : EngOp) (o : Ops) (ws : List Word), (op.instr = .gath o ∨ op.instr = .bags o) → s.opRecord w op.recB op.b = .ok ws →
      let r := bufRec ws
      let aligned : Prop := op.a.toNat % 64 = 0 ∧ r.base.toNat % 64 = 0 ∧ r.stride1 % 64 = 0 ∧ r.stride2 % 64 = 0
      (r.bad = true → s.engParts w op = ([], [], some causeIllegalOperand)) ∧
      (r.bad = false → r.empty = false → op.a.toNat / 2 ^ 60 ∉ [1, 2] → s.engParts w op = ([], [], some causeAddress)) ∧
      (r.bad = false → r.empty = false → op.a.toNat / 2 ^ 60 ∈ [1, 2] → r.base.toNat / 2 ^ 60 ≠ 3 → ¬aligned →
        s.engParts w op = ([], [], some causeMisaligned)) ∧
      (r.bad = false → r.empty = false → op.a.toNat / 2 ^ 60 ∈ [1, 2] → r.base.toNat / 2 ^ 60 ≠ 3 → aligned → op.instr = .gath o →
        let rows := r.ext1 * r.ext2
        let pitch := gathPitch r o.attr.ispec.toNat
        (s.engParts w op).2.1 = ws ∧
        ((s.engParts w op).2.2 = if r.bounds = 0 ∧ ∃ tc ∈ op.cs, rows ≤ tc.2.toNat then some causeBounds else none) ∧
        (∀ tc ∈ op.cs, r.bounds ≠ 0 ∨ tc.2.toNat < rows → ∃ it ∈ (s.engParts w op).1, it.thread = tc.1 ∧ it.index = tc.1 ∧
          it.dst = op.a + BitVec.ofNat 64 (tc.1 * pitch) ∧
          it.src = [if tc.2.toNat < rows then some (r.row tc.2.toNat) else if r.bounds = 1 then none else some (r.row (rows - 1))]) ∧
        ∀ it ∈ (s.engParts w op).1, ∃ tc ∈ op.cs, it.thread = tc.1 ∧ (r.bounds ≠ 0 ∨ tc.2.toNat < rows))) ∧
    (∀ (r : BufRec) (ispec : Nat), gathPitch r ispec =
      (r.ext0 * (if ispec = 0 then r.bits else if ispec = 1 then 32 else elemBits ispec) + 511) / 512 * 64) ∧
    (∀ (s : State) (op : EngOp) (o : Ops) (it : EngItem) (xs : List (FVal × Bool)), o.attr.ispec = 1 → it.row (bufRec op.words).ext0 0 = .vals xs →
      s.gathRow op o it =
        s.engWrites op it.index ((wordPuts it.dst (xs.map (fun x => (toFP32 .rne x.1, x.2)))).map (fun p => (p, some 0x017F)))) ∧
    (∀ (s : State) (op : EngOp) (o : Ops) (it : EngItem) (xs : List (FVal × Bool)), 2 ≤ o.attr.ispec.toNat → it.row (bufRec op.words).ext0 0 = .vals xs →
      let code := o.attr.ispec.toNat
      let n := 512 / elemBits code
      let ext0 := (bufRec op.words).ext0
      let rnd (idx : Nat) : RMode := narrowMode o.mod ((rand32 op.key op.stream op.ctr (BitVec.ofNat 32 idx)).extractLsb' 16 16)
      s.gathRow op o it = s.engWrites op it.index ((List.range ((ext0 + n - 1) / n)).map (fun b =>
        let es := (xs.drop (n * b)).take n
        let full := es.map (fun x => x.1) ++ List.replicate (n - es.length) FVal.zero
        let out := narrowBlock code (o.mod.getLsbD 2) (fun i => rnd (it.thread * ext0 + n * b + i)) full
        ({ addr := it.dst + BitVec.ofNat 64 (64 * b), blk := codesBlk (elemBits code) out.1, mask := BitVec.allOnes 64,
           poison := if es.any (fun x => x.2) then 0xFFFF else 0 }, some out.2)))) ∧
    (∀ (s : State) (op : EngOp) (o : Ops) (it : EngItem) (a : DWord) (bs : List EngBlk), o.attr.ispec = 0 → it.src = [some a] → it.asked = [] →
      bs.length = rawBlocks (bufRec op.words) → (∀ i b, bs[i]? = some b → mapFind it.got (readNo 0 i) = some b ∧ b.status = .ok ∧ b.tag.toNat / 256 ≤ 8) →
      s.gathRow op o it = s.engWrites op it.index ((bs.zipIdx).map (fun x =>
        ({ addr := it.dst + BitVec.ofNat 64 (64 * x.2), blk := x.1.blk, mask := BitVec.allOnes 64, poison := x.1.poison }, some x.1.tag)))) ∧
    (∀ (d : DWord) (xs : List (Word × Bool)),
      (∀ i x, xs[i]? = some x → ∃ p ∈ wordPuts d xs, p.addr = d + BitVec.ofNat 64 (64 * (i / 16)) ∧ (∀ k, k < 4 → p.mask.getLsbD (4 * (i % 16) + k) = true) ∧
        p.blk.extractLsb' (32 * (i % 16)) 32 = x.1 ∧ p.poison.getLsbD (i % 16) = x.2) ∧
      (∀ p ∈ wordPuts d xs, ∃ n, p.addr = d + BitVec.ofNat 64 (64 * n) ∧ ∀ j, p.mask.getLsbD j = true → 16 * n + j / 4 < xs.length)) ∧
    -- BAGS
    (∀ (s : State) (w : Workgroup) (weighted : Bool) (off : Nat),
      let word (i : Nat) : Nat := leNat (s.lsRead w.core (off + 4 * i) 4)
      let last := w.lsBase + w.units * 65536
      let m := word 0
      let n := if weighted then 2 * m + 1 else m + 1
      (off % 4 ≠ 0 ∨ off < w.lsBase ∨ last < off + 4 → s.bagOf w weighted off = .error causeAddress) ∧
      (off % 4 = 0 → w.lsBase ≤ off → off + 4 ≤ last → 65535 < m → s.bagOf w weighted off = .error causeIllegalOperand) ∧
      (off % 4 = 0 → w.lsBase ≤ off → m ≤ 65535 → last < off + 4 * n → s.bagOf w weighted off = .error causeAddress) ∧
      (off % 4 = 0 → w.lsBase ≤ off → m ≤ 65535 → off + 4 * n ≤ last → ∃ bad, s.bagOf w weighted off =
        .ok ((List.range m).map (fun i => word (1 + i)),
          if weighted then (List.range m).map (fun i => BitVec.ofNat 32 (word (1 + m + i))) else List.replicate m 0x3F800000, bad))) ∧
    (∀ (s : State) (w : Workgroup) (op : EngOp) (o : Ops) (ws : List Word), op.instr = .bags o → s.opRecord w op.recB op.b = .ok ws →
      let r := bufRec ws
      r.bad = false → r.empty = false → op.a.toNat / 2 ^ 60 ∈ [1, 2] → r.base.toNat / 2 ^ 60 ≠ 3 →
      (op.a.toNat % 64 = 0 ∧ r.base.toNat % 64 = 0 ∧ r.stride1 % 64 = 0 ∧ r.stride2 % 64 = 0) →
      ∀ tc ∈ op.cs, ∀ js fs bad, s.bagOf w (o.mod.getLsbD 0) tc.2.toNat = .ok (js, fs, bad) → (∀ j ∈ js, j < r.ext1 * r.ext2) →
        ∃ it ∈ (s.engParts w op).1, it.thread = tc.1 ∧ it.src = js.map (fun j => some (r.row j)) ∧ it.weights = fs ∧ it.bad = bad ∧
          it.dst = op.a + BitVec.ofNat 64 (tc.1 * ((r.ext0 * 32 + 511) / 512 * 64))) ∧
    (∀ (s : State) (op : EngOp) (it : EngItem) (f : Nat → List (FVal × Bool)),
      let ext0 := (bufRec op.words).ext0
      let rows := (it.weights.zipIdx).map (fun x => (x.2, x.1))
      (∀ x ∈ rows, it.row ext0 x.1 = .vals (f x.1) ∧ ∀ n ∈ it.asked, n / 2 ^ 32 ≠ x.1) →
      let sums := rows.foldl (fun acc x => bagAdd x.2 acc (f x.1)) (List.replicate ext0 (0, false))
      s.bagRow op it = s.engWrites op it.index ((wordPuts it.dst (sums.map (fun x => (x.1, x.2 || it.bad)))).map (fun p => (p, none)))) ∧
    (∀ (w : Word) (acc : List (Word × Bool)) (xs : List (FVal × Bool)) (i : Nat) (a : Word × Bool) (x : FVal × Bool), acc[i]? = some a → xs[i]? = some x →
      (bagAdd w acc xs)[i]? = some
        (toFP32 .rne (FVal.add .rne (FVal.mul (ofFP32 w) (ofFP32 (toFP32 .rne x.1))) (ofFP32 a.1)), a.2 || x.2)) ∧
    -- SCAD
    (∀ (s : State) (w : Workgroup) (op : EngOp) (o : Ops) (ws : List Word), op.instr = .scad o → s.opRecord w op.recB op.b = .ok ws →
      let r := bufRec ws
      let pitch := (r.ext0 * 32 + 511) / 512 * 64
      let rows := r.ext1 * r.ext2
      let inside : Prop := ∀ tc ∈ op.cs, w.lsBase ≤ op.a.toNat % 2 ^ 24 + tc.1 * pitch ∧
        op.a.toNat % 2 ^ 24 + tc.1 * pitch + 4 * r.ext0 ≤ w.lsBase + w.units * 65536 ∧ op.a.toNat % 2 ^ 24 + tc.1 * pitch + 4 * r.ext0 ≤ s.lsCap
      let aligned : Prop := op.a.toNat % 64 = 0 ∧ r.base.toNat % 64 = 0 ∧ r.stride1 % 64 = 0 ∧ r.stride2 % 64 = 0
      r.bad = false → r.empty = false →
      (op.a.toNat / 2 ^ 60 ≠ 1 ∨ ¬inside → s.engParts w op = ([], [], some causeAddress)) ∧
      (op.a.toNat / 2 ^ 60 = 1 → inside → r.base.toNat / 2 ^ 60 ≠ 3 → ¬aligned → s.engParts w op = ([], [], some causeMisaligned)) ∧
      (op.a.toNat / 2 ^ 60 = 1 → inside → r.base.toNat / 2 ^ 60 ≠ 3 → aligned → r.fmt ≠ 1 → r.fmt ≠ 2 → s.engParts w op = ([], [], some causeFormat)) ∧
      (op.a.toNat / 2 ^ 60 = 1 → inside → aligned → r.fmt = 1 ∨ r.fmt = 2 → r.base.toNat / 2 ^ 60 ≠ 0 → s.engParts w op = ([], [], some causeAddress)) ∧
      (op.a.toNat / 2 ^ 60 = 1 → inside → aligned → r.fmt = 1 ∨ r.fmt = 2 → r.base.toNat / 2 ^ 60 = 0 →
        ∀ tc ∈ op.cs, tc.2.toNat < rows ∨ r.bounds = 2 → ∃ it ∈ (s.engParts w op).1, it.thread = tc.1 ∧
          it.src = [some (op.a + BitVec.ofNat 64 (tc.1 * pitch))] ∧ it.dst = r.row (min tc.2.toNat (rows - 1)))) ∧
    (∀ (s : State) (op : EngOp) (o : Ops) (it : EngItem) (r : BufRec) (a : DWord) (xs : List (Word × Bool)) (l : Loc), s.engLoc op a = some l →
      a.toNat % 64 = 0 →
      let asid := s.engAsid op a
      let u := s.dropL1 op.core asid (blkBase a)
      ∃ q : AtomReq, (s.scadPacket op o it r a xs).net = u.net ++
          [sentFlight s.clk (.core op.core) (.slice (coreDie op.core) (sliceOf (blkBase a))) 2 (s.partOf asid) (.atom q)] ∧
        q.asid = asid ∧ q.va = blkBase a ∧ q.op = .scad r.fmt ∧ q.order = 0 ∧ 3 ≤ q.scope ∧ q.poison = xs.any (fun x => x.2) ∧
        q.items = (xs.zipIdx).map (fun x => { thread := x.2, addr := a, b := x.1.1.setWidth 64, c := 0 })) ∧
    -- FILL
    (∀ (s : State) (w : Workgroup) (op : EngOp) (o : Ops) (r : BufRec), op.instr = .fill o → s.goodRecord w op.recA op.a = .ok r →
      let len := r.bytes r.ext0
      (r.tagMode = 1 → s.engParts w op = ([], [], some causeIllegalOperand)) ∧
      (r.tagMode ≠ 1 → r.empty = false → (∀ y z, y < r.ext1 → z < r.ext2 → (r.at 0 y z).toNat + len ≤ 2 ^ 64) →
        ∃ (items : List EngItem) (ws : List Word), s.engParts w op = (items, ws, none) ∧
          (∀ y z i, y < r.ext1 → z < r.ext2 → i < len → ∃ it ∈ items, it.dst.toNat ≤ (r.at 0 y z).toNat + i ∧
            (r.at 0 y z).toNat + i < it.dst.toNat + it.len ∧ it.weights = [BitVec.ofNat 32 (it.dst.toNat - (r.at 0 y z).toNat)]) ∧
          (∀ it ∈ items, ∃ y z : Nat, y < r.ext1 ∧ z < r.ext2 ∧ 0 < it.len ∧ it.dst.toNat % 64 + it.len ≤ 64 ∧
            (r.at 0 y z).toNat ≤ it.dst.toNat ∧ it.dst.toNat + it.len ≤ (r.at 0 y z).toNat + len))) ∧
    (∀ (s : State) (op : EngOp) (o : Ops) (it : EngItem), op.instr = .fill o →
      let r := bufRec op.words
      let tag : Option Tag := if r.tagMode = 0 then none else if r.fmt = 0 then some 0 else some (BitVec.ofNat 16 (r.fmt * 256) ||| o.attr.ispec.setWidth 16)
      let v := fillBytes r (op.b.extractLsb' 0 32) ((it.weights.headD 0).toNat) it.len
      (it.dst.toNat / 2 ^ 60 = 3 → s.startItem op it = s.itemFails op it.index causeAddress) ∧
      (it.dst.toNat / 2 ^ 60 ≠ 3 → r.tagMode ≠ 1 → s.startItem op it = s.engWrites op it.index ((putsAt it.dst it.len v 0).map (fun p => (p, tag))))) ∧
    (∀ (r : BufRec) (b : Word) (start len i : Nat), i < len → BitVec.ofNat 8 (fillBytes r b start len >>> (8 * i)) =
      if r.bits = 4 then BitVec.ofNat 8 (b.toNat % 16 * 17) else BitVec.ofNat 8 (b.toNat >>> (8 * ((start + i) % (r.bits / 8))))))

/-- R83, R88, R293 to R295, R298, R302 to R309: a lane's row goes to its slot once no queued MMA before it remains; of the lanes
that wait, the first at or after the pointer is admitted; the oldest admitted operation begins when the engine is free and, for
an MMA, the rows written before it are in; at its end it leaves the queue with its effect: an MMA writes the tile's sums, or
latches FORMAT where a tag of a run does not fit, an AOP transforms the tile, an ARD gives its row to the registers, an AWR
writes a row, an ACLR clears, an ADRN writes its copies. DESIGN CHOICE (log 64): an operation is computed in the step that ends
it. That an ARD's register pairs are pending until 35 cycles later is R303's 4 cycles and one for each thread. -/
def Obligations.MatrixSteps : Prop :=
  (∀ (s : State) (c lane : Nat) (r : RowBuf), (s.core c).rows.find? (fun x => x.lane == lane) = some r → r.row < 2048 → lane < 256 →
    r.words.length = 32 →
    let off := mxOff (lane / 64) false (r.row / 64) (128 * (r.row % 64))
    ((∃ op ∈ s.mxQ c (lane / 64), op.id ∈ r.before) → exec (.swrCommit c lane) s = .next s) ∧
    ((∀ op ∈ s.mxQ c (lane / 64), op.id ∉ r.before) → ∃ t, exec (.swrCommit c lane) s = .next t ∧
      (∀ j, j < 32 → t.mxWord c (off + 4 * j) = r.words.getD j 0) ∧ t.mxTag c off = r.tags.extractLsb' 0 16 ∧
      t.mxTag c (off + 64) = r.tags.extractLsb' 16 16 ∧ (t.core c).rows = (s.core c).rows.filter (fun x => x.lane != lane) ∧
      t.mem = s.mem ∧ t.sheaves = s.sheaves)) ∧
  (∀ (s : State) (c lgrp : Nat),
    let q := s.mxQ c lgrp
    let waiting := q.filter (fun op => op.stage == .wanting)
    let near (op : MxOp) : Nat := (op.lane % 64 + 64 - mapGetD (s.core c).mxPtr lgrp 0) % 64
    (16 ≤ mxUsed q ∨ waiting = [] → exec (.matrixAdmit c lgrp) s = .next s) ∧
    (mxUsed q < 16 → waiting ≠ [] → ∃ op ∈ waiting, (∀ y ∈ waiting, near op ≤ near y) ∧
      ∀ k sh, s.sheaves.find? (fun e => e.2.wg == op.wg && e.2.idx == op.idx) = some (k, sh) →
        exec (.matrixAdmit c lgrp) s = .next (s.admitOp k op))) ∧
  (∀ (s : State) (c lgrp : Nat) (op : MxOp), (∀ x ∈ s.mxQ c lgrp, x.stage ≠ .running) →
    (s.mxQ c lgrp).find? (fun x => x.stage == .queued) = some op →
    let isMma : Prop := ∃ o, op.instr = .mma o
    (isMma → op.rows ≠ [] → exec (.matrixOpBegin c lgrp) s = .next s) ∧
    ((¬isMma ∨ op.rows = []) → ∃ t, exec (.matrixOpBegin c lgrp) s = .next t ∧ t = { s with cores := t.cores } ∧
      t.mxQ c lgrp = (s.mxQ c lgrp).map (fun x => if x.id == op.id then { s.mxRecords op with stage := .running, till := s.clk + op.occupancy } else x))) ∧
  (∀ (s : State) (c lgrp : Nat) (op : MxOp), (s.mxQ c lgrp).find? (fun x => x.stage == .running && x.till ≤ s.clk) = some op → lgrp < 4 →
    let tile := op.a.toNat % 2 ^ 32
    (∀ o, op.instr = .aclr o → tile < 16 → ∃ t, exec (.matrixOpEnd c lgrp) s = .next t ∧
      t.mxQ c lgrp = (s.mxQ c lgrp).filter (fun x => x.id != op.id) ∧ (∀ i j, i < 64 → j < 64 → t.tileWord c lgrp tile i j = 0) ∧
      t.slotMem = s.slotMem ∧ t.mem = s.mem ∧ t.ls = s.ls) ∧
    (∀ (o : Ops) (v : Nat → DWord), op.instr = .awr o → tile < 1024 → op.data = (List.range 32).map (fun t => (t, v t)) → ∃ t, exec (.matrixOpEnd c lgrp) s = .next t ∧
      t.mxQ c lgrp = (s.mxQ c lgrp).filter (fun x => x.id != op.id) ∧
      (∀ j, j < 32 → t.tileWord c lgrp (tile / 64) (tile % 64) (2 * j) = (v j).extractLsb' 0 32 ∧
        t.tileWord c lgrp (tile / 64) (tile % 64) (2 * j + 1) = (v j).extractLsb' 32 32)) ∧
    let left (t : State) : Prop := t.mxQ c lgrp = (s.mxQ c lgrp).filter (fun x => x.id != op.id)
    let onlyTile (t : State) : Prop := t.slotMem = s.slotMem ∧ t.mem = s.mem ∧ t.ls = s.ls ∧
      ∀ x i j, x < 16 → i < 64 → j < 64 → x ≠ tile → t.tileWord c lgrp x i j = s.tileWord c lgrp x i j
    (∀ o, op.instr = .mma o → tile < 16 →
      let p := mmaPair o.mod
      let n := mmaSpan o.attr
      let ab := op.b.toNat % 2 ^ 32
      let bb := op.c.toNat % 2 ^ 32
      let groups := n * p.k / 32
      let x (i k : Nat) : Nat × Nat := s.runElem c lgrp ab i p.fa (p.k / p.as) k
      let y (j k : Nat) : Nat × Nat := s.runElem c lgrp bb j p.fb p.k k
      let int8 (e : Nat × Nat) : Word := if e.1 = 0 then 0 else (BitVec.ofNat 8 e.2).signExtend 32
      let start (i j : Nat) : Word := if o.mod.getLsbD 4 then 0 else s.tileWord c lgrp tile i j
      ((s.runTagsOk c lgrp ab (n * p.as) p.fa = false ∨ s.runTagsOk c lgrp bb n p.fb = false) →
        ∃ t, exec (.matrixOpEnd c lgrp) s = .next t ∧ left t ∧ t.tileMem = s.tileMem ∧
          ∀ k sh, s.sheaf k = some sh → sh.wg = op.wg → sh.idx = op.idx → sh.errMatrix = none → ∃ x, t.sheaf k = some x ∧ x.errMatrix = some 0x08) ∧
      (s.runTagsOk c lgrp ab (n * p.as) p.fa = true → s.runTagsOk c lgrp bb n p.fb = true →
        ∃ t, exec (.matrixOpEnd c lgrp) s = .next t ∧ left t ∧ onlyTile t ∧ ∀ i j, i < 64 → j < 64 →
          (p.fa = 7 → t.tileWord c lgrp tile i j = (List.range (32 * groups)).foldl (fun acc k => acc + int8 (x i k) * int8 (y j k)) (start i j)) ∧
          (p.fa ≠ 7 → ∃ order : List Nat, order.Perm (List.range groups) ∧ (op.repro = true → order = List.range groups) ∧
            t.tileWord c lgrp tile i j = order.foldl (fun acc g =>
              if op.repro = false ∧ ((x i (32 * g)).1 = 0 ∨ (y j (32 * g)).1 = 0) then acc
              else
                let sum := FVal.sum .rne ((List.range 32).map (fun k =>
                  FVal.mul (scaledValue p.fa (x i (32 * g + k)).1 (x i (32 * g + k)).2) (scaledValue p.fb (y j (32 * g + k)).1 (y j (32 * g + k)).2)))
                toFP32 .rne (FVal.add .rne (ofFP32 acc) (ofFP32 (toFP32 .rne sum)))) (start i j)))) ∧
    (∀ o, op.instr = .aop o → tile < 16 → ∃ t, exec (.matrixOpEnd c lgrp) s = .next t ∧ left t ∧ onlyTile t ∧ ∀ i j, i < 64 → j < 64 →
      let old := s.tileWord c lgrp tile i j
      let v := ofFP32 old
      let b : Word := op.b.extractLsb' 0 32
      let hi : Word := op.c.extractLsb' 0 32
      let vec : Word := BitVec.ofNat 32 (leNat (s.lsRead c (op.b.toNat % 2 ^ 24 + 4 * j) 4))
      let below (x y : FVal) : Prop := FVal.lt x y = true ∧ FVal.eqv x y = false
      let new := t.tileWord c lgrp tile i j
      (o.mod.toNat % 4 = 0 → new = toFP32 .rne (FVal.mul v (ofFP32 b))) ∧
      (o.mod.toNat % 4 = 1 → new = toFP32 .rne (FVal.add .rne v (ofFP32 vec))) ∧
      (2 ≤ o.mod.toNat % 4 → v.isNaN = true → new = 0x7FC00000) ∧
      (o.mod.toNat % 4 = 2 → v.isNaN = false → new = if v.isNeg = false ∧ v.isZero = false then old else 0) ∧
      (o.mod.toNat % 4 = 3 → v.isNaN = false → (below v (ofFP32 b) → new = b) ∧
        (¬below v (ofFP32 b) → below (ofFP32 hi) v → new = hi) ∧ (¬below v (ofFP32 b) → ¬below (ofFP32 hi) v → new = old))) ∧
    (∀ o, op.instr = .ard o → ∃ t, exec (.matrixOpEnd c lgrp) s = .next t ∧ left t ∧ t.tileMem = s.tileMem ∧ t.slotMem = s.slotMem ∧ t.mem = s.mem ∧
      ∀ k sh, s.sheaf k = some sh → sh.wg = op.wg → sh.idx = op.idx → ∃ x, t.sheaf k = some x ∧ x.pc = sh.pc ∧ x.m = sh.m ∧ x.latch0 = sh.latch0 ∧ x.latch1 = sh.latch1 ∧
        x.valid0 = sh.valid0 ∧ x.valid1 = sh.valid1 ∧ (o.nw = true → x.regs = sh.regs) ∧
        (o.nw = false → (∀ th, th < 32 → x.reg o.d.toNat th = s.tileWord c lgrp (tile / 64) (tile % 64) (2 * th) ∧
          x.reg (o.d.toNat + 1) th = s.tileWord c lgrp (tile / 64) (tile % 64) (2 * th + 1)) ∧
          (∀ r th, th < 32 → r ≠ o.d.toNat → r ≠ o.d.toNat + 1 → x.reg r th = sh.reg r th) ∧
          mapGetD x.pendTill o.d.toNat 0 = s.clk + 35 ∧ mapGetD x.pendTill (o.d.toNat + 1) 0 = s.clk + 35)) ∧
    (∀ o, op.instr = .adrn o →
      let own := match mapFind s.wgs op.wg with | some w => w.asid | none => 0
      let u := s.setMxQ c lgrp ((s.mxQ c lgrp).filter (fun x => x.id != op.id))
      let rm (copy idx : Nat) : RMode :=
        narrowMode o.mod ((rand32 op.key op.stream op.ctr (BitVec.ofNat 32 (4096 * copy + idx))).extractLsb' 16 16)
      let elem (i j : Nat) : Word × Bool := (s.tileWord c lgrp tile i j, s.tilePoisoned c lgrp tile i j)
      let f1 := o.attr.ispec.toNat % 16
      let f2 := o.attr.ispec.toNat / 16
      let r1 := drainRecord op.recB op.badB f1
      let r2 := drainRecord op.recC op.badC f2
      let part (n : Nat) (r : BufRec) : EngItem := { engItem 0 n [] 0 0 with settled := true,
                                                                              boCore := some (if r.base.toNat / 2 ^ 60 = 2 ∨ r.base.toNat / 2 ^ 60 = 3 then coreOfAddr r.base else c) }
      let parts (n : Nat) (r : Except Nat BufRec) : List EngItem := match r with | .ok x => [part n x] | .error _ => []
      let e (items : List EngItem) : EngOp := op.ended c own (op.recB.getD []) items
      let held (items : List EngItem) : State := u.onCore c (fun k => { k with eng := k.eng ++ [e items] })
      let copy1 (s : State) (e : EngOp) : State := match r1 with
        | .ok r => s.engWrites e 0 (drainPuts r f1 (o.mod.getLsbD 3 && f1 == 5) (rm 0) (fun y x => elem y x))
        | .error cause => s.latchMx op cause
      let copy2 (s : State) (e : EngOp) : State := match r2 with
        | .ok r => s.engWrites e 1 (drainPuts r f2 (o.mod.getLsbD 3 && f2 == 5) (rm 1) (fun y x => elem x y))
        | .error cause => s.latchMx op cause
      (o.mod.getLsbD 2 = false → exec (.matrixOpEnd c lgrp) s = .next (copy1 (held (parts 0 r1)) (e (parts 0 r1)))) ∧
      (o.mod.getLsbD 2 = true → exec (.matrixOpEnd c lgrp) s =
        .next (copy2 (copy1 (held (parts 0 r1 ++ parts 1 r2)) (e (parts 0 r1 ++ parts 1 r2))) (e (parts 0 r1 ++ parts 1 r2)))))) ∧
  ((List.range 10).map (fun m => mmaPair (BitVec.ofNat 5 m)) = [⟨2, 2, 64, 1, 32⟩, ⟨3, 3, 64, 1, 32⟩, ⟨4, 4, 128, 1, 32⟩, ⟨4, 5, 128, 1, 32⟩,
    ⟨5, 4, 128, 1, 32⟩, ⟨5, 5, 128, 1, 32⟩, ⟨7, 7, 128, 1, 32⟩, ⟨2, 8, 128, 2, 32⟩, ⟨6, 6, 256, 1, 32⟩, ⟨4, 8, 128, 1, 16⟩] ∧
    ∀ a : Attr, a.ispec.toNat < 3 → mmaSpan a = 2 ^ a.ispec.toNat) ∧
  (∀ (s : State) (c lgrp base n fmt : Nat), s.runTagsOk c lgrp base n fmt = true ↔ ∀ x h, x < n → h < 128 →
    let tag := s.mxTag c (mxOff lgrp false (base + x) (64 * h))
    tag.toNat / 256 = fmt ∧ (fmt = 7 → tag.toNat % 256 ≠ 0xFF)) ∧
  (∀ (s : State) (c lgrp base row fmt per k : Nat), k % per * elemBits fmt < 1024 →
    let slot := base + k / per
    let bits := elemBits fmt
    let bytes := leNat ((List.range 128).map (fun i => s.mxByte c (mxOff lgrp false slot (128 * row) + i)))
    s.runElem c lgrp base row fmt per k =
      ((s.mxTag c (mxOff lgrp false slot (128 * row) + k % per * bits / 512 * 64)).toNat % 256, (bytes >>> (k % per * bits)) % 2 ^ bits)) ∧
  (∀ (ws : List Word) (code : Nat),
    let r := bufRec ws
    let shape : Prop := r.bad = false ∧ r.ext0 = 64 ∧ r.ext1 = 64 ∧ r.ext2 = 1
    let fmt : Prop := r.fmt = if code = 0 then 1 else code
    let pitch : Prop := if code = 6 then r.stride1 = 32 else r.stride1 % 64 = 0 ∧ 8 * drainBits code ≤ r.stride1
    let place : Prop := r.base.toNat / 2 ^ 60 ≠ 5 ∧ ¬(r.base.toNat / 2 ^ 60 = 3 ∧ r.base.getLsbD 29 = true)
    (¬shape → drainRecord (some ws) none code = .error causeIllegalOperand) ∧
    (shape → ¬fmt → drainRecord (some ws) none code = .error causeFormat) ∧
    (shape → fmt → ¬(r.base.toNat % 64 = 0 ∧ pitch) → drainRecord (some ws) none code = .error causeMisaligned) ∧
    (shape → fmt → r.base.toNat % 64 = 0 → pitch → ¬place → drainRecord (some ws) none code = .error causeAddress) ∧
    (shape → fmt → r.base.toNat % 64 = 0 → pitch → place → drainRecord (some ws) none code = .ok r)) ∧
  (∀ (r : BufRec) (code : Nat) (sat : Bool) (rm : Nat → RMode) (elem : Nat → Nat → Word × Bool),
    let ps := drainPuts r code sat rm elem
    (code ≤ 1 → ∀ y x, y < 64 → x < 64 → ∃ p ∈ ps, p.1.addr = r.at 0 y 0 + BitVec.ofNat 64 (64 * (x / 16)) ∧ p.1.mask = BitVec.allOnes 64 ∧
      p.1.blk.extractLsb' (32 * (x % 16)) 32 = (elem y x).1 ∧ p.1.poison.getLsbD (x % 16) = (elem y x).2 ∧
      p.2 = some (if code = 0 then 0 else 0x017F)) ∧
    (2 ≤ code → code ≤ 8 → code ≠ 6 → ∀ y b, y < 64 → b < drainBits code / 8 →
      let es := (List.range (512 / drainBits code)).map (fun e => elem y (512 / drainBits code * b + e))
      let out := narrowBlock code sat (fun e => rm (y * 64 + (512 / drainBits code * b + e))) (es.map (fun x => ofFP32 x.1))
      ({ addr := r.at 0 y 0 + BitVec.ofNat 64 (64 * b), blk := codesBlk (drainBits code) out.1, mask := BitVec.allOnes 64,
         poison := if es.any (fun x => x.2) then 0xFFFF else 0 }, some out.2) ∈ ps) ∧
    (code = 6 → ∀ m, m < 32 →
      let es := (List.range 128).map (fun e => elem (2 * m + e / 64) (e % 64))
      let out := narrowBlock 6 sat (fun e => rm ((2 * m + e / 64) * 64 + e % 64)) (es.map (fun x => ofFP32 x.1))
      ({ addr := r.at 0 (2 * m) 0, blk := codesBlk 4 out.1, mask := BitVec.allOnes 64,
         poison := if es.any (fun x => x.2) then 0xFFFF else 0 }, some out.2) ∈ ps) ∧
    ps.length = if code = 6 then 32 else 64 * (drainBits code / 8))

/-- R382, R403, R404: HBM_RATE_CHANGE, HBM_CHANNEL_RATE_SWITCHED, HBM_POWER_DOWN_ENTRY, HBM_SELF_REFRESH_ENTRY and
HBM_CRC_FAILURE complete: the channels of a stack switch one by one to a new RATE, which is in force with the last; an idle
pseudo-channel enters power-down and self-refresh after the times set; a CRC failure is replayed and counted, and the eighth in
a row retrains the channel. R247 to R249, R360, R380, R382, R406: ECC_ERROR_DETECTED, REGISTER_SCRUB, TRACKING_PERIOD_END,
MIGRATION_COPY_PHASE_DONE, POWER_AVERAGE_UPDATE, DIE_OVER_TEMPERATURE and DIE_TEMPERATURE_BELOW_LIMIT complete: errors are
counted and an uncorrectable one poisons what it hits; scrubbing changes no register; the tracking period ends with its counts
at zero and the written settings in force; a move with more than 32 blocks written again is copied again, at most three times,
else the indirection switches; POWER's registers follow the average, and THROTTLE is 4 while a die is too hot and 16 within the
limit, a free value from 4 to 16 above it (log 82, DESIGN CHOICE). A PERIOD of 0 ends whenever its step comes, its counts
cleared and its settings in force (log 83, DEDUCED); scrubbing comes when its step does (log 84, DESIGN CHOICE). -/
def Obligations.StacksAndStorage : Prop :=
  (
    (∀ (s : State) (k : Nat) (r : BitVec 2), k < 12 → s.dev.phase = 6 → r ≠ 3 →
      let x := mapGetD s.hbm k Stack.reset
      let y : Stack := { x with rate := r, switching := (List.range 32).filter (fun c => mapGetD x.chanRate c 0 != r.toNat) }
      exec (.hbmRateChange k r) s = .next { s with hbm := mapInsert s.hbm k y }) ∧
    (∀ (s : State) (k : Nat) (r : BitVec 2), (12 ≤ k ∨ s.dev.phase ≠ 6 ∨ r = 3) → exec (.hbmRateChange k r) s = .next s) ∧
    (∀ (s : State) (k c : Nat),
      let x := mapGetD s.hbm k Stack.reset
      (c ∉ x.switching → exec (.hbmChannelRateSwitched k c) s = .next s) ∧
      (c ∈ x.switching → ∃ y, exec (.hbmChannelRateSwitched k c) s = .next { s with hbm := mapInsert s.hbm k y } ∧
        y.switching = x.switching.erase c ∧ mapGetD y.chanRate c 0 = x.rate.toNat ∧ y.rate = x.rate ∧
        y.rateCur = if x.switching.erase c = [] then x.rate else x.rateCur)) ∧
    (∀ (s : State) (k pc : Nat), k < 12 → pc < 64 →
      let x := mapGetD s.hbm k Stack.reset
      let idle := s.clk - mapGetD x.pcUsed pc 0
      (mapGetD x.pcUsed pc 0 ≤ s.clk → x.pdIdle ≠ 0 → mapGetD x.pcState pc 0 = 0 → x.pdIdle.toNat ≤ idle →
        exec (.hbmPowerDownEntry k pc) s = .next { s with hbm := mapInsert s.hbm k { x with pcState := mapInsert x.pcState pc 1 } }) ∧
      ((x.pdIdle = 0 ∨ idle < x.pdIdle.toNat) → exec (.hbmPowerDownEntry k pc) s = .next s) ∧
      (mapGetD x.pcUsed pc 0 ≤ s.clk → x.srIdle ≠ 0 → mapGetD x.pcState pc 0 ≠ 2 → 1024 * x.srIdle.toNat ≤ idle →
        exec (.hbmSelfRefreshEntry k pc) s = .next { s with hbm := mapInsert s.hbm k { x with pcState := mapInsert x.pcState pc 2 } }) ∧
      ((x.srIdle = 0 ∨ idle < 1024 * x.srIdle.toNat) → exec (.hbmSelfRefreshEntry k pc) s = .next s)) ∧
    (∀ (s : State) (k c : Nat), k < 12 → c < 32 →
      let x := mapGetD s.hbm k Stack.reset
      let up (v : Word) : Word := if v = 0xFFFFFFFF then v else v + 1
      let run := mapGetD x.crcRun c 0 + 1
      let y : Stack := { x with linkReplay := up x.linkReplay, crcRun := mapInsert x.crcRun c run }
      (run < 8 → exec (.hbmCrcFailure k c) s = .next { s with hbm := mapInsert s.hbm k y }) ∧
      (8 ≤ run → ∃ t y, exec (.hbmCrcFailure k c) s = .next t ∧ t.sheaves = s.sheaves ∧ mapFind t.hbm k = some y ∧
          y.linkReplay = up x.linkReplay ∧ y.linkDown = up x.linkDown ∧ mapFind y.crcRun c = none ∧
          (s.fq.ringRoom = false → y = { x with linkReplay := up x.linkReplay, linkDown := up x.linkDown, crcRun := mapErase x.crcRun c })))) ∧
  (
    (∀ (s : State) (k r t : Nat) (sh : Sheaf), s.sheaf k = some sh → (r * 32 + t) ∉ sh.rpoison →
      let up (v : Word) : Word := if v = 0xFFFFFFFF then v else v + 1
      let die := coreDie (slotCore k)
      exec (.eccErrorDetected (.register k r t) true) s = .next
        ({ s with sramUe := mapPutD s.sramUe die (up (mapGetD s.sramUe die 0)) 0 }.setSheaf k { sh with rpoison := sh.rpoison ++ [r * 32 + t] }) ∧
      exec (.eccErrorDetected (.register k r t) false) s = .next { s with sramCe := mapPutD s.sramCe die (up (mapGetD s.sramCe die 0)) 0 }) ∧
    (∀ (s : State) (b : Nat), ∃ t, exec (.eccErrorDetected (.memBlock b) true) s = .next t ∧ t.sheaves = s.sheaves ∧
      (s.memTagAt (64 * b) ≠ 0xA000 → mapGetD t.memPoison b false = true ∧ t.mem = s.mem) ∧
      (s.memTagAt (64 * b) = 0xA000 → ctrState (t.memBlk (64 * b)) = 2 ∧ ctrReserve (t.memBlk (64 * b)) = ctrReserve (s.memBlk (64 * b)))) ∧
    (∀ (s : State) (c : Nat), exec (.registerScrub c) s = .next (if c < 144 then { s with scrubbed := mapInsert s.scrubbed c s.clk } else s)) ∧
    (∀ s : State,
      let k := s.trk
      (k.period ≠ 0 → s.clk < k.since + 1200 * k.period → exec .trackingPeriodEnd s = .next s) ∧
      ((k.period = 0 ∨ k.since + 1200 * k.period ≤ s.clk) → ∃ t, exec .trackingPeriodEnd s = .next t ∧ t = { s with trk := t.trk } ∧
        t.trk.counts = [] ∧ t.trk.budget = k.nextBudget ∧ t.trk.period = k.nextPeriod ∧ t.trk.since = s.clk ∧ t.trk.pool = k.pool ∧
        (k.period = 0 → t.trk.moves = k.moves))) ∧
    (∀ (s : State) (page : Nat) (m : Move), s.trk.moves.find? (fun x => x.page == page) = some m →
      let rest := s.trk.moves.filter (fun x => x.page != page)
      (32 < m.marked.length → 3 ≤ m.phases → exec (.migrationCopyPhaseDone page) s = .next { s with trk := { s.trk with moves := rest } }) ∧
      let again := s.trk.moves.map (fun x => if x.page == page then { x with phases := x.phases + 1, marked := [] } else x)
      (32 < m.marked.length → m.phases < 3 →
        exec (.migrationCopyPhaseDone page) s = .next { s with trk := { s.trk with moves := again } }) ∧
      (m.marked.length ≤ 32 → m.promote = false →
        exec (.migrationCopyPhaseDone page) s = .next { s with trk := { s.trk with moves := rest, pool := mapErase s.trk.pool page } }) ∧
      (m.marked.length ≤ 32 → m.promote = true → (∀ x ∈ s.trk.pool, x.2 ≠ m.frame) →
        exec (.migrationCopyPhaseDone page) s = .next { s with trk := { s.trk with moves := rest, pool := mapInsert s.trk.pool page m.frame } })) ∧
    (∀ (s : State) (mw : Word), ∃ t, exec (.powerAverageUpdate mw) s = .next t ∧ t = { s with power := t.power, free := t.free } ∧
      t.power.powerMw = mw ∧ t.power.energyUj = s.power.energyUj + mw.toNat ∧
      ((∃ d ∈ s.power.temps, 1680 < d.2.toNat) → t.power.throttle = 4) ∧
      ((∀ d ∈ s.power.temps, d.2.toNat ≤ 1680) → mw.toNat ≤ 1000 * s.power.limitW.toNat → t.power.throttle = 16) ∧
      4 ≤ t.power.throttle ∧ t.power.throttle ≤ 16) ∧
    (∀ (s : State) (die : Nat) (temp : BitVec 16), die < 9 → 1680 < temp.toNat →
      ∃ t, exec (.dieOverTemperature die temp) s = .next t ∧ t = { s with power := t.power, free := t.free } ∧
        mapGetD t.power.temps die 0 = temp ∧ t.power.throttle = 4) ∧
    (∀ (s : State) (die : Nat) (temp : BitVec 16), die < 9 → temp.toNat ≤ 1680 →
      ∃ t, exec (.dieTemperatureBelowLimit die temp) s = .next t ∧ t = { s with power := t.power, free := t.free } ∧
        mapGetD t.power.temps die 0 = temp))

/-- R243 to R246, R371, R372: a fault answer parks the sheaf of its entry; a record is written 256 cycles after its fault with
the number of sheaves parked, the kept record that was made first as soon as the ring has room; a release of a page whose record
is made lets its sheaves replay or fail, of any other PARK_ID does nothing; the replay sends the blocks again or fails them with
ADDRESS; a response-time trap is taken, the oldest first, where the sheaf may issue. DEDUCED: the times and the order of log 53;
where a trap may be taken is log 69. -/
def Obligations.FaultHandling : Prop :=
  (∀ (s u : State) (p : Packet) (c id : Nat) (q : ReadReq) (a : BlkAns) (t : Word) (e : WinEntry), Received s p u → p.dst = .core c →
    p.msg = .data q a → a.status = .fault t → q.asker = .entry id → mapFind s.win id = some e → memClass e.instr ≠ .allow →
    exec (.faultResponse c) s = .next (u.faultBlk id q.va t)) ∧
  (∀ s : State,
    ((∀ x ∈ s.pend, x.recd = none ∨ s.clk < x.since + 256) → exec .faultRecordTimer s = .next s) ∧
    ((s.fq.ringRoom = false ∨ s.channelWaits s.fq.slot = true) → exec .faultRecordTimer s = .next s ∧ exec .faultQueueRoom s = .next s)) ∧
  (∀ (s : State) (p : PendPage) (r : FaultRec), s.fq.ringRoom = true → s.channelWaits s.fq.slot = false → p ∈ s.pend → p.recd = some r →
    (∀ x ∈ s.pend, x = p ∨ x.recd = none ∨ p.made < x.made) → (∀ h ∈ s.fq.held, p.made < h.1) →
    (s.clk < p.since + 256 → exec .faultQueueRoom s = .next s) ∧
    (p.since + 256 ≤ s.clk →
      let t : State := (({ s with pend := s.pend.map (fun (x : PendPage) => if x.token == p.token then { x with recd := none } else x) } : State).fqWrite
        { r with batch := (s.sheaves.filter (fun e => e.2.parks.any (fun y => y.token == p.token))).length +
          s.wgs.foldl (fun n g => n + (g.2.saved.filter (fun sh => sh.parks.any (fun y => y.token == p.token))).length) 0 })
      exec .faultRecordTimer s = .next t ∧ exec .faultQueueRoom s = .next t)) ∧
  (∀ (s : State) (n : Nat) (r : FaultRec), s.fq.ringRoom = true → s.channelWaits s.fq.slot = false → (n, r) ∈ s.fq.held →
    (∀ h ∈ s.fq.held, h = (n, r) ∨ n < h.1) → (∀ x ∈ s.pend, x.recd = none ∨ n < x.made) →
    exec .faultQueueRoom s = .next (({ s with fq := { s.fq with held := s.fq.held.filter (fun h => h.1 != n) } } : State).fqWrite r)) ∧
  (∀ (s : State) (r : FaultRec), (s.fqWrite r).fq = { s.fq with tail := (s.fq.tail + 1) % 2 ^ s.fq.log2 } ∧
    ∀ a, (s.fqWrite r).memByte a = if s.fq.slot ≤ a ∧ a < s.fq.slot + 32 then r.bytes.getD (a - s.fq.slot) 0 else s.memByte a) ∧
  (∀ (s : State) (t : Word) (fail : Bool),
    let i : Instr := if fail then .parkReleaseFail t else .parkReleaseReplay t
    ((∀ p ∈ s.pend, p.token = t → p.recd.isSome = true) → exec i s = .next s) ∧
    (∀ p ∈ s.pend, p.token = t → p.recd = none → (∀ c ∈ s.cores, c.2.eng = []) → s.nodes = [] →
      ∃ v, exec i s = .next v ∧ (∀ x ∈ v.pend, x.token ≠ t) ∧ v.mem = s.mem ∧
        ∀ k sh, s.sheaf k = some sh → v.sheaf k = some { sh with parks := sh.parks.map (fun y => if y.token == t then { y with done := some fail } else y) })) ∧
  (∀ (s : State) (k id : Nat) (sh : Sheaf) (t : Word) (e : WinEntry), s.sheaf k = some sh → sh.replays = [] → sh.halted = false → sh.stopped = false →
    sh.wait = .none → mapFind s.win id = some e →
    let go : Sheaf := { sh with parks := [], readyAt := s.clk }
    (sh.parks = [{ token := t, kind := .entry id, done := none }] → exec (.parkReplay k) s = .next s) ∧
    (∀ b, sh.parks = [{ token := t, kind := .entry id, done := some false }] → e.blks.filter (fun b => b.stage == .faulted t) = [b] →
      exec (.parkReplay k) s = .next (((s.setSheaf k go).setBlk id b.base .held).pump k)) ∧
    (∀ b, sh.parks = [{ token := t, kind := .entry id, done := some true }] → e.blks.filter (fun b => b.stage == .faulted t) = [b] →
      exec (.parkReplay k) s = .next ((((s.setSheaf k go).setBlk id b.base .sent).answerBlk id b.base []
        ((threadsOf (b.mask &&& e.left)).map (fun x => (x, 0x06)))).pump k))) ∧
  (∀ (s : State) (k : Nat) (sh : Sheaf) (t : Word) (m : TMask) (npc : DWord), s.sheaf k = some sh → sh.replays = [] → sh.halted = false →
    sh.stopped = false → sh.wait = .none →
    let go : Sheaf := { sh with parks := [], readyAt := s.clk }
    let owed (x : TMask) (n : DWord) : Sheaf :=
      { go with owed := some { cause := 0x06, info := 0, mask := x, pc := sh.pc, npc := n, va := 0, level := sh.level } }
    (sh.parks = [{ token := t, kind := .const m npc, done := some false }] →
      exec (.parkReplay k) s = .next ((s.setSheaf k { go with force := some m }).pump k)) ∧
    (sh.parks = [{ token := t, kind := .const m npc, done := some true }] → exec (.parkReplay k) s = .next ((s.setSheaf k (owed m npc)).pump k)) ∧
    (sh.parks = [{ token := t, kind := .fetch, done := some false }] → exec (.parkReplay k) s = .next ((s.setSheaf k { go with fbuf := [] }).pump k)) ∧
    (sh.parks = [{ token := t, kind := .fetch, done := some true }] →
      exec (.parkReplay k) s = .next ((s.setSheaf k (owed sh.m (sh.pc + match fetchWord sh.fbuf sh.pc with
        | some w => if w.getLsbD 63 then 16 else 8
        | none => 8))).pump k))) ∧
  (∀ (s : State) (k : Nat) (sh : Sheaf) (o : Owed), s.sheaf k = some sh → sh.owed = some o → o.cause = 0x06 → o.pc = sh.pc → o.level = sh.level →
    sh.issues = true → s.debugTrap k sh = none →
    issue s k sh = .next ((s.setSheaf k { sh with owed := none }).takeTrap k
      { cause := 0x06, info := o.info, mask := o.mask, rmask := o.mask, pc := sh.pc, npc := o.npc, resp := false, entry := none })) ∧
  (∀ (s : State) (k : Nat) (sh : Sheaf) (r : RespTrap), s.sheaf k = some sh → r ∈ sh.respTraps → sh.level.code ≤ r.level.code →
    (∀ x ∈ sh.respTraps, x = r ∨ r.seq < x.seq ∨ x.level.code < sh.level.code) →
    let stops : Prop := sh.force = none ∧ (sh.issues = true ∨ ∃ va m, sh.wait = .const va m ∧ ({ sh with wait := .none } : Sheaf).issues = true)
    (stops → exec (.responseTimeTrap k) s = .next ((s.setSheaf k { sh with respTraps := sh.respTraps.erase r }).takeTrap k
        { cause := r.cause.toNat, info := r.info, mask := r.mask, rmask := r.mask, pc := r.pc, npc := sh.pc, resp := true, entry := r.entry })) ∧
    (¬stops → exec (.responseTimeTrap k) s = .next s))

/-- R93, R96 to R98: a busy slot discards a record; any other takes it: a record that a check refuses makes the slot REFUSED
with the check's code and clears what its decrements had counted, one that passes makes the node wait for its in-degree less
those decrements, or READY where none is left. A write that covers the last byte of an idle slot with a nonzero ARM arms it. A
decrement counts at a slot without a node, reaches a waiting node, whose last one makes it READY, and marks any other slot.
DEDUCED (log 67): PENDING_DEC is cleared by a refused arm too, and every ARM byte other than 0 has the record checked. DESIGN
CHOICE: the first six entries of the window table alone are read (log 113), lost or poisoned data refuse it too (log 100), and
the tags of its blocks are not looked at (log 101). -/
def Obligations.SlotSteps : Prop :=
  (∀ (s : State) (n : Nat) (r : Blk), (s.hostLink = false ∨ s.dev.phase = 2) → exec (.nodeArm n r) s = .next s) ∧
  (∀ (s : State) (n : Nat) (r : Blk), n < 65536 → s.hostLink = true → s.dev.phase ≠ 2 →
    let x := s.slot n
    let busy : Prop := x.state = .waiting ∨ x.state = .ready ∨ x.state = .running
    (busy → exec (.nodeArm n r) s = .next (s.setSlot n { x with dropped := true })) ∧
    (∀ code, ¬busy → (s.setSlot n { x with pending := 0 }).armCheck n r = .error code →
      ∃ t, exec (.nodeArm n r) s = .next t ∧ t = { s with status := t.status, msc := t.msc, hbm := t.hbm, trk := t.trk } ∧
        t.slot n = { x with pending := 0, state := .refused, reason := BitVec.ofNat 8 code }) ∧
    (∀ ws succ, ¬busy → (s.setSlot n { x with pending := 0 }).armCheck n r = .ok (ws, succ) → recNat r 32 2 < x.pending →
      ∃ t, exec (.nodeArm n r) s = .next t ∧ t = { s with status := t.status, msc := t.msc, hbm := t.hbm, trk := t.trk } ∧
        t.slot n = { x with pending := 0, state := .refused, reason := 12 }) ∧
    (∀ ws succ, ¬busy → (s.setSlot n { x with pending := 0 }).armCheck n r = .ok (ws, succ) → x.pending < recNat r 32 2 →
      ∃ t nd, exec (.nodeArm n r) s = .next t ∧ t = { s with status := t.status, nodes := t.nodes, free := s.free + 1, msc := t.msc, hbm := t.hbm, trk := t.trk } ∧
        mapFind t.nodes n = some nd ∧ nd.live = recNat r 32 2 - x.pending ∧ nd.record = r ∧ nd.windows = ws ∧ nd.succ = succ ∧
        nd.asid = s.owner n ∧ nd.next = 0 ∧ nd.retired = 0 ∧ t.slot n = { x with pending := 0, state := .waiting, reason := 0 }) ∧
    (∀ ws succ, ¬busy → (s.setSlot n { x with pending := 0 }).armCheck n r = .ok (ws, succ) → x.pending = recNat r 32 2 →
      ∃ (t : State) (nd : Node), exec (.nodeArm n r) s = .next t ∧ mapFind t.nodes n = some nd ∧ nd.live = 0 ∧ nd.record = r ∧ nd.windows = ws ∧
        nd.succ = succ ∧ nd.armTime = s.clk ∧ t.slot n = { x with pending := 0, state := .ready, reason := 0 } ∧ t.mem = s.mem ∧
        t.sheaves = s.sheaves)) ∧
  (∀ (s : State) (n : Nat) (r : Blk),
    let f := recNat r
    let asid := mapGetD s.slotOwner n 0
    let part := slotPart s.modeNow n
    let dies := partDies s.modeNow part
    let owner : Prop := asid = 0
    let reserved : Prop := f 21 3 ≠ 0 ∨ 2 ^ 9 ≤ f 58 2 ∨ 2 ^ 9 ≤ f 56 2 ∨ f 63 1 ≠ 1
    let partition : Prop := f 58 2 % 4 ≠ part ∨ ∃ c, s.ctx asid = some c ∧ c.partition ≠ part
    let entry : Prop := 2 ^ 60 ≤ f 0 8 ∨ f 0 8 % 8 ≠ 0
    let shape : Prop := f 8 4 = 0 ∨ f 12 2 = 0 ∨ f 14 2 = 0 ∨ f 16 2 = 0 ∨ 256 < f 16 2 ∨ f 18 1 = 0 ∨ 32 < f 18 1
    let scope : Prop := f 19 1 / 32 < 4
    let affinity : Prop := ∃ d, d < 9 ∧ (f 56 2).testBit d = true ∧ (d = 4 ∨ d ∉ dies)
    let window : Prop := s.windowTable asid (f 24 8) = none
    let list : Prop := (f 34 2 ≠ 0 ∧ (4096 < f 34 2 ∨ 2 ^ 60 ≤ f 36 8 ∨ f 36 8 % 8 ≠ 0 ∨ s.succList asid (f 36 8) (f 34 2) = none)) ∨
      (f 44 8 ≠ 0 ∧ (2 ^ 60 ≤ f 44 8 ∨ f 44 8 % 4 ≠ 0))
    let save : Prop := ∀ c, s.ctx asid = some c → c.saveAreas.length ≤ f 60 3
    let fit : Prop := s.fits r (s.limitDies dies r) = false
    (owner → s.armCheck n r = .error 1) ∧
    (¬owner → reserved → s.armCheck n r = .error 2) ∧
    (¬owner → ¬reserved → partition → s.armCheck n r = .error 3) ∧
    (¬owner → ¬reserved → ¬partition → entry → s.armCheck n r = .error 4) ∧
    (¬owner → ¬reserved → ¬partition → ¬entry → shape → s.armCheck n r = .error 5) ∧
    (¬owner → ¬reserved → ¬partition → ¬entry → ¬shape → scope → s.armCheck n r = .error 6) ∧
    (¬owner → ¬reserved → ¬partition → ¬entry → ¬shape → ¬scope → affinity → s.armCheck n r = .error 7) ∧
    (¬owner → ¬reserved → ¬partition → ¬entry → ¬shape → ¬scope → ¬affinity → window → s.armCheck n r = .error 8) ∧
    (¬owner → ¬reserved → ¬partition → ¬entry → ¬shape → ¬scope → ¬affinity → ¬window →
      (list → s.armCheck n r = .error 9) ∧
      (¬list → save → s.armCheck n r = .error 10) ∧
      (¬list → ¬save → fit → s.armCheck n r = .error 11) ∧
      (¬list → ¬save → ¬fit → ∃ ws xs, s.armCheck n r = .ok (ws, xs) ∧ s.windowTable asid (f 24 8) = some ws ∧
        (f 34 2 = 0 → xs = []) ∧ (f 34 2 ≠ 0 → s.succList asid (f 36 8) (f 34 2) = some xs)))) ∧
  (∀ (s : State) (asid : BitVec 16) (a : Nat),
    (a % 16 ≠ 0 → s.windowTable asid a = none) ∧
    (s.hubRead asid a 96 = none → s.windowTable asid a = none) ∧
    ∀ bs, a % 16 = 0 → s.hubRead asid a 96 = some bs →
      let part := match s.ctx asid with | some c => c.partition | none => 0
      let base (i : Nat) : DWord := BitVec.ofNat 64 (leNat ((bs.drop (16 * i)).take 8))
      let size (i : Nat) : Nat := leNat ((bs.drop (16 * i + 8)).take 4)
      let flags (i : Nat) : Nat := leNat ((bs.drop (16 * i + 12)).take 4)
      let bad (i : Nat) : Prop := 2 ≤ flags i ∨ (flags i = 1 ∧ (eaSpace (base i) ≠ 0 ∨ (base i).toNat % 64 ≠ 0 ∨ 15 ≤ eaHeap (base i) ∨
        s.heapOnline part (eaHeap (base i)) = false ∨ size i % 64 ≠ 0 ∨ size i < 64 ∨ 524288 < size i))
      ((∃ i, i < 6 ∧ bad i) → s.windowTable asid a = none) ∧
      ((∀ i, i < 6 → ¬bad i) → s.windowTable asid a =
        some ((List.range 6).map (fun i => { base := eaVa (base i), size := size i, valid := flags i % 2 == 1 })))) ∧
  (∀ (s : State) (n first : Nat) (bs : List Byte), n < 65536 → first < 64 → (∀ f ∈ s.net, f.place ≠ .inbox) → s.hostLink = true → s.dev.phase ≠ 2 →
    let x := s.slot n
    ((x.state = .waiting ∨ x.state = .ready ∨ x.state = .running) →
      exec (.slotWrite n first bs) s = .next (s.setSlot n { x with dropped := true })) ∧
    ((x.state ≠ .waiting ∧ x.state ≠ .ready ∧ x.state ≠ .running) → bs ≠ [] → first + bs.length ≤ 64 →
      ∃ t : State, t = { s with slotBytes := t.slotBytes } ∧
        (∀ a, mapGetD t.slotBytes a 0 = if 64 * n + first ≤ a ∧ a < 64 * n + first + bs.length then bs.getD (a - (64 * n + first)) 0
          else mapGetD s.slotBytes a 0) ∧
        (first + bs.length < 64 ∨ bs.getLast? = some 0 → exec (.slotWrite n first bs) s = .next t) ∧
        (first + bs.length = 64 → bs.getLast? ≠ some 0 → exec (.slotWrite n first bs) s = .next (t.arm n (t.slotBlk n))))) ∧
  (∀ (s u : State) (p : Packet) (f : HubFrom) (n : Nat) (r : Blk), Received s p u → p.dst = .hub → p.msg = .hub f (.launch n r) →
    s.slotAllowed f.part f.asid n = false →
    exec (.slotWrite n 0 (blkBytes r)) s = .next { u with net := u.net ++ [sentFlight s.clk .hub (.core f.core) 1 (some f.part) (.status f 0 true)] }) ∧
  (∀ (s : State) (n : Nat), n < 65536 → (∀ f ∈ s.net, f.place ≠ .inbox) →
    let x := s.slot n
    ((x.state = .ready ∨ x.state = .running) → exec (.decrement n) s = .next (s.setSlot n { x with extra := true })) ∧
    (∀ nd, x.state = .waiting → mapFind s.nodes n = some nd → 1 < nd.live →
      exec (.decrement n) s = .next { s with nodes := mapInsert s.nodes n { nd with live := nd.live - 1 } }) ∧
    (∀ nd, x.state = .waiting → mapFind s.nodes n = some nd → nd.live ≤ 1 →
      ∃ t, exec (.decrement n) s = .next t ∧ t.slot n = { x with state := .ready } ∧ t.sheaves = s.sheaves ∧ t.mem = s.mem) ∧
    ((x.state = .free ∨ x.state = .complete ∨ x.state = .refused ∨ x.state = .error) →
      exec (.decrement n) s = .next (s.setSlot n { x with pending := min 65535 (x.pending + 1) }))) ∧
  (∀ (s u : State) (p : Packet) (f : HubFrom) (n : Nat), Received s p u → p.dst = .hub → p.msg = .hub f (.ndec n) →
    s.slotAllowed f.part f.asid n = false →
    exec (.decrement n) s = .next { u with net := u.net ++ [sentFlight s.clk .hub (.core f.core) 1 (some f.part) (.status f 0 true)] })

/-- R103, R104, R363, R366, R390: the end of a node's release stores its completion word, or ends it where it has none; the
word's acknowledgement ends the node, and one that fails makes it an error; EVSIG writes EVT_DATA and raises its vector; a
status that returns is written to the threads that asked, or fails with ADDRESS; XLINV ends with the last answer to its markers. -/
def Obligations.HubAnswers : Prop :=
  (∀ (s : State) (n : Nat) (nd : Node), mapFind s.nodes n = some nd → s.net = [] → s.hubMarks = [{ who := .complete n, left := 0 }] →
    (recNat nd.record 44 8 = 0 → exec (.completionReleaseDone n) s = .next (({ s with hubMarks := [] } : State).endNode n true)) ∧
    (recNat nd.record 44 8 ≠ 0 → ∃ t w, exec (.completionReleaseDone n) s = .next t ∧
      t = { s with hubMarks := [], nodes := mapInsert s.nodes n { nd with compl := .storing }, winNext := s.winNext + 1, net := t.net } ∧
      t.net = [sentFlight s.clk .hub (.home (eaHeap (BitVec.ofNat 64 (recNat nd.record 44 8)))) 1 (s.partOf nd.asid) (.homeWrite w)] ∧
      w.writer = .cword n ∧ w.asid = nd.asid ∧ w.mask = BitVec.ofNat 64 (15 * 2 ^ (recNat nd.record 44 8 % 64)))) ∧
  (∀ (s : State) (n : Nat) (m : HubMark), s.net = [] → s.hubMarks = [m] → m.who = .complete n → 0 < m.left →
    exec (.completionReleaseDone n) s = .next s) ∧
  (∀ (s u : State) (p : Packet) (n : Nat) (w : WriteReq) (a : BlkAns), Received s p u → p.dst = .hub → p.msg = .writeAck w a →
    w.writer = .cword n →
    let made (kind access : Nat) (va : DWord) : FaultRec :=
      { va := va, asid := w.asid, kind := kind, access := access, mask := 0, node := n, place := 0x40, lane := 0xFF, slot := 0, level := 0, batch := 0,
        token := 0, time := BitVec.ofNat 32 s.clk }
    (a.status = .ok → exec (.completionWordDone n) s = .next (u.endNode n true)) ∧
    (∀ c, a.status = .bad c → c ≠ 0x0C → c ≠ 0x10 → exec (.completionWordDone n) s = .next (u.endNode n false)) ∧
    (a.status = .bad 0x0C → exec (.completionWordDone n) s = .next ((u.endNode n false).fqRecord (made 0x10 0x02 w.wordVa))) ∧
    (a.status = .bad 0x10 → exec (.completionWordDone n) s =
      .next ((u.endNode n false).fqRecord (made 0x12 0x82 (BitVec.ofNat 64 (a.dpa + w.wordVa.toNat % 64))))) ∧
    (∀ t, a.status = .fault t → mapFind s.released t.toNat = none →
      exec (.completionWordDone n) s = .next (u.onNode n (fun x => { x with compl := .held t }))) ∧
    (∀ t, a.status = .fault t → mapFind s.released t.toNat = some true →
      exec (.completionWordDone n) s = .next ((u.onNode n (fun x => { x with compl := .held t })).endNode n false))) ∧
  (∀ (s : State) (n : Nat) (nd : Node) (ok : Bool), mapFind s.nodes n = some nd → nd.succ = [] → (recNat nd.record 58 2).testBit 2 = false →
    s.endNode n ok = { s.setSlot n { s.slot n with state := if ok then .complete else .error } with nodes := mapErase s.nodes n }) ∧
  (∀ (s u : State) (p : Packet) (f : HubFrom) (v : Nat) (x : Word), Received s p u → p.dst = .hub → p.msg = .hub f (.evsig v x) →
    ∃ t, exec .evsigRequest s = .next t ∧ mapGetD t.evtData v 0 = x ∧ t = { u with evtData := t.evtData, msiPend := t.msiPend, msiSent := t.msiSent } ∧
      (s.msiMask.getLsbD (v % 64) = false → t.msiSent = s.msiSent ++ [v % 64] ∧ t.msiPend = s.msiPend) ∧
      (s.msiMask.getLsbD (v % 64) = true → t.msiSent = s.msiSent ∧ t.msiPend = s.msiPend ||| BitVec.ofNat 64 (2 ^ (v % 64)))) ∧
  (∀ (s u : State) (p : Packet) (c k d : Nat) (f : HubFrom) (v : Word) (sh : Sheaf), Received s p u → p.dst = .core c → p.msg = .status f v false →
    f.d = some d → s.sheaves = [(k, sh)] → sh.wg = f.wg → sh.idx = f.idx → sh.ended = false →
    ∃ t x, exec .hubStatusReturn s = .next t ∧ t.sheaf k = some x ∧ (∀ i, i < 32 → f.mask.getLsbD i = true → x.reg d i = v) ∧
      (∀ r i, i < 32 → (r ≠ d ∨ f.mask.getLsbD i = false) → x.reg r i = sh.reg r i) ∧ x.pend.getLsbD d = false ∧ x.pc = sh.pc ∧ t.mem = s.mem) ∧
  (∀ (s u : State) (p : Packet) (c k : Nat) (f : HubFrom) (v : Word) (sh : Sheaf), Received s p u → p.dst = .core c → p.msg = .status f v true →
    s.sheaves = [(k, sh)] → sh.wg = f.wg → sh.idx = f.idx → sh.ended = false →
    ∃ t x, exec .hubStatusReturn s = .next t ∧ t.sheaf k = some x ∧ x.regs = sh.regs ∧ x.respTraps = sh.respTraps ++
      [{ seq := f.seq, cause := 0x06, info := 0, mask := f.mask, pc := f.pc, level := f.level, entry := none }]) ∧
  (∀ (s : State) (k id : Nat) (x : XlInv) (sh : Sheaf), s.xls = [(id, x)] → x.slot = k → x.id = id → x.sent = true → 0 < x.left →
    s.sheaf k = some sh → sh.wg = x.wg → sh.idx = x.idx → sh.wait = .xlinv id →
    ((∀ f ∈ s.net, f.p.msg ≠ .marked (.xlinv id)) → exec (.xlinvDone k) s = .next s) ∧
    (s.net.length = x.left → (∀ f ∈ s.net, f.place = .inbox ∧ f.p.dst = .core (slotCore k) ∧ f.p.msg = .marked (.xlinv id)) →
      ∃ t, exec (.xlinvDone k) s = .next t ∧ t.xls = [] ∧ t.net = [] ∧ t.sheaf k = some { sh with wait := .none, readyAt := s.clk }))

/-- R99, R102, R108, R112, R105, R116, R379, R391: the distributor takes up an aged priority; ready nodes are served by
effective priority, then arm time, then slot; the first that has room places its next workgroup, fresh or saved, on the core
that R112 chooses, and the first that has none is marked; a placed workgroup runs once its reclaim is over, after a DEVICE
acquire; one whose sheaves have all ended, with nothing outstanding, begins its DIE release. -/
def Obligations.WorkgroupPlacement : Prop :=
  (∀ (s : State) (n : Nat) (nd : Node), mapFind s.nodes n = some nd →
    let base := recNat nd.record 19 1 % 8
    let q := (s.quantum.getD (s.slotPartition n) 0).toNat
    let p := if base = 7 then 7 else if q = 0 then base else min 6 (base + (s.clk - nd.waiting) / q)
    (nd.prio = p → exec (.priorityAgeing n) s = .next s) ∧
    (nd.prio ≠ p → exec (.priorityAgeing n) s = .next { s with nodes := mapInsert s.nodes n { nd with prio := p } })) ∧
  (∀ (s : State) (part : Nat), mapSorted s.nodes = true →
    (∀ n, n ∈ s.servedNodes part ↔ ∃ nd, mapFind s.nodes n = some nd ∧ s.slotPartition n = part ∧
      ((s.slot n).state = .ready ∨ (s.slot n).state = .running) ∧ s.nodeMay nd = true ∧ s.nextWorks n nd ≠ []) ∧
    (s.servedNodes part).Pairwise (fun a b => ∀ x y, mapFind s.nodes a = some x → mapFind s.nodes b = some y →
      s.effNow b y < s.effNow a x ∨
      (s.effNow a x = s.effNow b y ∧ (x.armTime < y.armTime ∨ (x.armTime = y.armTime ∧ a ≤ b))))) ∧
  (∀ (s : State) (n : Nat) (nd : Node) (w : Work),
    (s.dev.phase = 6 → s.nodeDies n nd = if recNat nd.record 56 2 = 0 then partDies s.modeNow (s.slotPartition n)
      else (partDies s.modeNow (s.slotPartition n)).filter (fun d => (recNat nd.record 56 2).testBit d)) ∧
    let core (c : Nat) : Prop := ∃ d i, d ∈ s.nodeDies n nd ∧ i < 16 ∧ c = 16 * d + i
    (s.choosePlace n nd w = none → ∀ c, core c → s.roomFor nd w c = none) ∧
    (∀ p, s.choosePlace n nd w = some p → core p.core ∧ s.roomFor nd w p.core = some p ∧
      ∀ c q, core c → s.roomFor nd w c = some q → s.coreSheaves p.core < s.coreSheaves c ∨
        (s.coreSheaves p.core = s.coreSheaves c ∧ (s.freeUnits c < s.freeUnits p.core ∨ (s.freeUnits p.core = s.freeUnits c ∧ p.core ≤ c))))) ∧
  (∀ (s : State) (part a b la lb : Nat) (na nb : Node) (p : Place1), s.servedNodes part = [a, b] → mapFind s.nodes a = some na →
    mapFind s.nodes b = some nb → (∀ c ∈ s.nodes, c.2.claimant = false) → s.nextWorks a na = [.fresh la] → s.nextWorks b nb = [.fresh lb] →
    (s.choosePlace a na (.fresh la) = some p → exec (.placeWorkgroup part) s = .next ((s.placeFresh a na la p).markBlocked part none)) ∧
    (s.choosePlace a na (.fresh la) = none → s.choosePlace b nb (.fresh lb) = some p →
      exec (.placeWorkgroup part) s = .next ((s.placeFresh b nb lb p).markBlocked part (some a)))) ∧
  (∀ (s : State) (part n lin : Nat) (nd : Node), s.servedNodes part = [n] → mapFind s.nodes n = some nd → s.nextWorks n nd = [.fresh lin] →
    (∀ p ∈ s.placesFor n nd (.fresh lin), ∃ c ∈ s.nodes, c.1 ≠ n ∧ c.2.claimant = true ∧ s.wouldFit c.1 = true ∧
      (s.placeFresh n nd lin p).wouldFit c.1 = false) →
    exec (.placeWorkgroup part) s = .next (s.markBlocked part (some n))) ∧
  (∀ (s : State) (part n lin : Nat) (nd : Node) (p : Place1), s.servedNodes part = [n] → mapFind s.nodes n = some nd →
    (∀ c ∈ s.nodes, c.1 ≠ n → c.2.claimant = false) →
    s.nextWorks n nd = [.fresh lin] →
    (s.choosePlace n nd (.fresh lin) = none → exec (.placeWorkgroup part) s = .next (s.markBlocked part (some n))) ∧
    (s.choosePlace n nd (.fresh lin) = some p → ∃ (t : State) (w : Workgroup), exec (.placeWorkgroup part) s = .next (t.markBlocked part none) ∧
      mapFind t.wgs s.winNext = some w ∧ w.node = n ∧ w.lin = lin ∧ w.core = p.core ∧ w.asid = nd.asid ∧
      w.nSheaf = recNat nd.record 16 2 ∧ w.nReg = 8 * recNat nd.record 18 1 ∧ w.units = recNat nd.record 20 1 ∧
      w.stage = .reclaiming (s.clk + w.units) ∧ (t.slot n).state = .running ∧
      mapFind t.nodes n = some { nd with next := lin + 1, claimant := false, blocked := none })) ∧
  (∀ (s : State) (n g : Nat) (nd : Node) (w : Workgroup) (p : Place1), mapFind s.wgs g = some w → w.node = n →
    s.servedNodes (s.slotPartition n) = [n] → mapFind s.nodes n = some nd → (∀ c ∈ s.nodes, c.1 ≠ n → c.2.claimant = false) →
    s.nextWorks n nd = [.saved g] →
    (s.choosePlace n nd (.saved g) = none → exec (.workgroupRestore g) s = .next s) ∧
    (s.choosePlace n nd (.saved g) = some p → ∃ (t : State) (w' : Workgroup), exec (.workgroupRestore g) s = .next t ∧ mapFind t.wgs g = some w' ∧
      w'.core = p.core ∧ w'.stage = .restoring (s.clk + w.units) ∧ w'.lin = w.lin ∧ w'.kept = w.kept ∧ w'.saved = [])) ∧
  (∀ (s : State) (g till : Nat) (w : Workgroup), mapFind s.wgs g = some w → w.stage = .reclaiming till →
    (s.clk < till → exec (.reclaimDone g) s = .next s) ∧
    (till ≤ s.clk → (w.units = 0 ∨ s.fillsOut w.core w.lsBase w.units = false) → ∃ (t : State), exec (.reclaimDone g) s = .next t ∧
      mapFind t.wgs g = some { w with stage := .running } ∧ (t.core w.core).l1 = (s.core w.core).l1.filter (fun l => l.atomic) ∧
      (∀ k sh, s.sheaf k = some sh → t.sheaf k = some (if sh.wg = g then { sh with readyAt := s.clk, halted := false } else sh)) ∧
      t.mem = s.mem)) ∧
  (∀ (s : State) (g till : Nat) (w : Workgroup), mapFind s.wgs g = some w → w.stage = .restoring till → s.hubMarks = [] →
    (s.clk < till → exec (.workgroupRestoreDone g) s = .next s) ∧
    (till ≤ s.clk → (w.units = 0 ∨ s.fillsOut w.core w.lsBase w.units = false) → w.kept = Saved.empty → s.win = [] →
      ∃ (t : State), exec (.workgroupRestoreDone g) s = .next t ∧ mapFind t.wgs g = some { w with stage := .running, suspDie := none } ∧
        t.ls = s.ls ∧ t.mem = s.mem)) ∧
  (∀ (s : State) (g : Nat) (w : Workgroup), mapFind s.wgs g = some w → w.stage = .running →
    ((∃ (k : Nat) (sh : Sheaf), s.sheaf k = some sh ∧ sh.wg = g) → exec (.workgroupRetire g) s = .next s) ∧
    let r : Release := { sheaf := none, core := w.core, lgrps := w.parts.map (fun p => p.lgrp), scope := 3, stage := 0, own := none,
                         before := s.winNext, mark := s.winNext, left := 0, then_ := .retire g }
    ((∀ e ∈ s.sheaves, e.2.wg ≠ g) → s.opsOut g = false → exec (.workgroupRetire g) s = .next { s with
      winNext := s.winNext + 1, wgs := mapInsert s.wgs g { w with stage := .retiring s.winNext }, rels := mapInsert s.rels s.winNext r }))

/-- R101, R374 to R377, R389, R288: a node that has stood first for its level's wait becomes a claimant and its victims are
asked to vacate; a workgroup asked to vacate halts its sheaves; 1,500 cycles later what may be abandoned is dropped; with
halting complete its record is written and its DIE release begins; after that its room is freed and it is saved. CTXSV asks for
the workgroups it names, CTXLD clears a hold. MX_CMD changes the content owner of the selected entry. DEDUCED: on which core
victims are chosen and for whom vacated room is kept (log 71), what the save waits for (log 72). -/
def Obligations.PreemptionSteps : Prop :=
  (∀ (s : State) (part n t wait g : Nat) (nd : Node) (gs : List Nat) (pre rest : List (Nat × Node)), s.nodes = pre ++ (n, nd) :: rest →
    (∀ e ∈ pre ++ rest, e.2.blocked = none) → mapFind s.nodes n = some nd → s.slotPartition n = part → nd.claimant = false →
    nd.blocked = some t → preemptWait (s.preWait.getD part 0) (s.effNow n nd) = some wait →
    (s.clk < t + wait → exec (.preemptCandidate part) s = .next s) ∧
    (s.victimsAll n nd (s.nextWorks n nd) [] = none → exec (.preemptCandidate part) s = .next s) ∧
    (s.victimsAll n nd (s.nextWorks n nd) [] = some (g :: gs) → t + wait ≤ s.clk → exec (.preemptCandidate part) s = .next { s with
      nodes := mapInsert s.nodes n { nd with claimant := true }
      wgs := mapMap (fun x w => if (g :: gs).contains x then { w with asked := true } else w) s.wgs })) ∧
  (∀ (s : State) (g : Nat) (w : Workgroup), mapFind s.wgs g = some w →
    ((w.asked = false ∨ w.stage ≠ .running ∨ ∀ e ∈ s.sheaves, e.2.wg = g → e.2.ended = true) → exec (.vacateRequest g) s = .next s) ∧
    (w.asked = true → w.stage = .running → (∃ e ∈ s.sheaves, e.2.wg = g ∧ e.2.ended = false) → ∃ (t : State), exec (.vacateRequest g) s = .next t ∧ t = { s with wgs := t.wgs, sheaves := t.sheaves } ∧
      mapFind t.wgs g = some { w with stage := .vacating s.clk } ∧
      ∀ k sh, s.sheaf k = some sh → ∃ x, t.sheaf k = some x ∧ x.regs = sh.regs ∧ x.pc = sh.pc ∧ x.m = sh.m ∧
        (sh.wg ≠ g → x = sh) ∧ (sh.wg = g → x.halted = true ∧ ∀ u, x.wait ≠ .sleep u))) ∧
  (∀ (s : State) (g since : Nat) (w : Workgroup), mapFind s.wgs g = some w → w.stage = .vacating since →
    (s.clk < since + 1500 → exec (.vacateAbandonTimer g) s = .next s) ∧
    (since + 1500 ≤ s.clk → s.win = [] → (∀ e ∈ s.sheaves, e.2.wg = g → e.2.ended = false) →
      ∃ (t : State), exec (.vacateAbandonTimer g) s = .next t ∧ t = { s with sheaves := t.sheaves } ∧
      ∀ k sh, s.sheaf k = some sh → ∃ x, t.sheaf k = some x ∧ x.regs = sh.regs ∧ x.pc = sh.pc ∧
        ((sh.wg ≠ g ∨ sh.awaitsWords = false) → x = sh) ∧
        (sh.wg = g → sh.awaitsWords = true → x.fetching = none ∧ x.chain = 0 ∧ ∀ b m, x.wait ≠ .const b m))) ∧
  (∀ (s : State) (g since id k : Nat) (w : Workgroup) (sh : Sheaf) (e : WinEntry), mapFind s.wgs g = some w → w.stage = .vacating since →
    since + 1500 ≤ s.clk → s.win = [(id, e)] → e.sheaf = k → s.sheaf k = some sh → sh.wg = g → (∀ y ∈ s.sheaves, y.2.wg = g → y.2.ended = false) →
    memClass e.instr = .load → (∃ b ∈ e.blks, b.stage = .sent) →
    ∃ (t : State) (w' : Workgroup), exec (.vacateAbandonTimer g) s = .next t ∧ t.win = [] ∧ mapFind t.wgs g = some w' ∧ w'.stage = w.stage ∧
      mapFind w'.kept.win id = some { e with sheaf := sh.idx, blks := e.blks.map (fun b => if b.stage == .sent then { b with stage := .held } else b) }) ∧
  (∀ (s : State) (g since : Nat) (w : Workgroup), mapFind s.wgs g = some w → w.stage = .vacating since →
    (s.halting g since = false → exec (.workgroupSave g) s = .next s) ∧
    (s.halting g since = true → (∃ e ∈ s.sheaves, e.2.wg = g ∧ e.2.ended = false) → ∃ (t : State) (w' : Workgroup) (r : Release), exec (.workgroupSave g) s = .next t ∧
      mapFind t.wgs g = some w' ∧ w'.stage = .saving s.winNext ∧ w'.claims = s.claimsOf g w ∧ mapFind t.rels s.winNext = some r ∧
      r.scope = 3 ∧ r.then_ = .save g ∧ t.sheaves = s.sheaves ∧ t.ls = s.ls ∧
      ∀ (i at_ : Nat), s.recordSlot w = some (i, at_) →
        let span := 128 * w.nReg + 16384
        let field (off n : Nat) : Nat := leNat (t.memRead (at_ + off) n)
        (field 0 2 = w.node % 2 ^ 16 ∧ field 2 2 = w.nSheaf % 2 ^ 16 ∧ field 4 1 = w.nReg % 2 ^ 8 ∧ field 5 1 = w.units % 2 ^ 8 ∧
          field 8 8 = w.lin % 2 ^ 64 ∧ field 16 4 = (Config.wgTag w.tag.toNat).toNat ∧ field 20 4 = w.asid.toNat) ∧
        (∀ a, a < 65536 * w.units → t.memByte (at_ + 4096 + w.nSheaf * span + a) = s.lsByte w.core (w.lsBase + a)) ∧
        ((∀ x ∈ s.sheaves, ∀ y ∈ s.sheaves, x.2.wg = g → y.2.wg = g → x.2.idx = y.2.idx → x = y) →
          (∀ x ∈ s.sheaves, x.2.wg = g → x.2.idx < w.nSheaf ∧ x.2.stack.length ≤ 32 ∧ (x.2.cls.filter (fun c => c.2.stored)).length ≤ 32 ∧
            (s.win.filter (fun e => e.2.sheaf == x.1)).length + (w.kept.win.filter (fun e => e.2.sheaf == x.2.idx)).length ≤ 16) →
          ∀ k sh r j, s.sheaf k = some sh → sh.wg = g → r < w.nReg → j < 32 →
            field (4096 + sh.idx * span + 16384 + 128 * r + 4 * j) 4 = (sh.reg r j).toNat))) ∧
  (∀ (s : State) (g id : Nat) (w : Workgroup), mapFind s.wgs g = some w → w.stage = .saving id → mapFind s.rels id = none →
    (s.halting g 0 = false → exec (.vacateDone g) s = .next s) ∧
    (s.halting g 0 = true → s.win = [] → ∃ (t : State) (w' : Workgroup), exec (.vacateDone g) s = .next t ∧ (∀ e ∈ t.sheaves, e.2.wg ≠ g) ∧
      mapFind t.wgs g = some w' ∧ w'.stage = .saved ∧ w'.suspDie = some (coreDie w.core) ∧ w'.lin = w.lin ∧ w'.nSheaf = w.nSheaf)) ∧
  (∀ (s u : State) (p : Packet) (f : HubFrom) (n b : Nat) (h : Bool), Received s p u → p.dst = .hub → p.msg = .hub f (.ctxsv n b h) →
    let back (v : Word) (fail : Bool) : Flight := sentFlight s.clk .hub (.core f.core) 1 (some f.part) (.status f v fail)
    (s.slotAllowed f.part f.asid n = false → exec .ctxsvRequest s = .next { u with net := u.net ++ [back 0 true] }) ∧
    (s.slotAllowed f.part f.asid n = true → (s.slot n).state ≠ .running →
      exec .ctxsvRequest s = .next { u with net := u.net ++ [back 0x10000 false] }) ∧
    (∀ g w, s.slotAllowed f.part f.asid n = true → (s.slot n).state = .running → h = false → b = 0xFFFFFFFF → s.wgsOf n = [(g, w)] →
      mapFind s.wgs g = some w → s.vacatable g w = true →
      exec .ctxsvRequest s = .next { u with net := u.net ++ [back 1 false], wgs := mapInsert s.wgs g { w with asked := true } })) ∧
  (∀ (s u : State) (p : Packet) (f : HubFrom) (n : Nat) (nd : Node), Received s p u → p.dst = .hub → p.msg = .hub f (.ctxld n) →
    let back (v : Word) (fail : Bool) : Flight := sentFlight s.clk .hub (.core f.core) 1 (some f.part) (.status f v fail)
    (s.slotAllowed f.part f.asid n = false → exec .ctxldRequest s = .next { u with net := u.net ++ [back 0 true] }) ∧
    (s.slotAllowed f.part f.asid n = true → (s.slot n).state ≠ .running →
      exec .ctxldRequest s = .next { u with net := u.net ++ [back 0x10000 false] }) ∧
    (s.slotAllowed f.part f.asid n = true → (s.slot n).state = .running → mapFind s.nodes n = some nd →
      exec .ctxldRequest s = .next { u with
        net := u.net ++ [back (if nd.held then 0 else 0x20000) false]
        nodes := mapInsert s.nodes n { nd with held := false } })) ∧
  (∀ (s : State) (c : Nat), ∃ (t : State), exec (.mxCmdFree c) s = .next t ∧ t = { s with cores := t.cores } ∧
    ((s.core c).selected = none → t = s) ∧
    (∀ x, (s.core c).selected = some x → mapFind (t.core c).owners x = none ∧ (t.core c).claims = (s.core c).claims ∧
      ∀ y, y ≠ x → mapFind (t.core c).owners y = mapFind (s.core c).owners y)) ∧
  (∀ (s : State) (c : Nat), ∃ (t : State), exec (.mxCmdAdopt c) s = .next t ∧ t = { s with cores := t.cores } ∧
    ((s.core c).selected = none → t = s) ∧
    (∀ x, (s.core c).selected = some x → (t.core c).claims = (s.core c).claims ∧
      (∀ y, y ≠ x → mapFind (t.core c).owners y = mapFind (s.core c).owners y) ∧
      (mapFind (s.core c).claims x = none → mapFind (t.core c).owners x = none) ∧
      (∀ g w, mapFind (s.core c).claims x = some g → mapFind s.wgs g = some w → mapFind (t.core c).owners x = some w.ident)))

/-- R14, R16, R17, R18, R23: package reset brings the machine to reset, keeping fuses, flash and what lies outside the package;
MANIFEST_CHECK moves from phase 0 to 1, and from 1 to training where every condition holds, to recovery otherwise; in recovery
command 1 has the set read and checked, stored where it passes and refused with the first failing condition otherwise, command 2
resets the package; the host link comes up in recovery and from training on. DEDUCED (log 80): what package reset keeps. Whether
a set passes rests on the implementation's digests and signatures, free values, so no closed witness of a set that passes can be
given. DESIGN CHOICE: a SET_ADDR that is not aligned and a SET_LEN rewritten during the check (log 110), a SET_LEN past the
flash (log 98). -/
def Obligations.ResetAndRecovery : Prop :=
  (∀ s : State, ∃ t : State, exec .packageReset s = .next t ∧ t.dev = State.reset.dev ∧ t.sheaves = [] ∧ t.nodes = [] ∧ t.wgs = [] ∧
    t.net = [] ∧ t.cores = State.reset.cores ∧ t.lsCap = 0x800000 ∧ t.fuses = s.fuses ∧ t.flash = s.flash ∧ t.mbox = State.reset.mbox ∧
    t.hostLink = false ∧ t.fq = State.reset.fq) ∧
  (∀ s : State,
    (s.dev.phase = 0 → exec .manifestCheck s = .next { s with dev := { s.dev with phase := 1 } }) ∧
    (s.dev.phase = 1 → s.fuses.check s.flashExtent s.flash ≠ 0 → exec .manifestCheck s = .next { s with dev := { s.dev with phase := 2 } }) ∧
    (s.dev.phase = 1 → s.fuses.check s.flashExtent s.flash = 0 → ∃ t : State, exec .manifestCheck s = .next t ∧ t.dev.phase = 3 ∧
      t = { s with dev := t.dev, running := t.running }) ∧
    (2 ≤ s.dev.phase → exec .manifestCheck s = .next s)) ∧
  (∀ (f : Fuses) (extent : Nat) (set : List Byte),
    (f.check extent set = 1 ↔ ¬(Config.sha384 (Config.setKeyEd set) = f.digestEd ∧ Config.sha384 (Config.setKeyMl set) = f.digestMl)) ∧
    (f.check extent set = 0 → Config.verifyEd (Config.setKeyEd set) (Config.setSigEd set) (Config.sha384 (Config.setBody set)) = true ∧
      Config.verifyMl (Config.setKeyMl set) (Config.setSigMl set) (Config.sha384 (Config.setBody set)) = true ∧
      f.minSvn ≤ Config.setVersion set ∧
      ∀ i ∈ Config.setImages set, i.1 ≤ extent ∧ ∃ bs : List Byte, i.2.2 = some bs ∧ Config.sha384 bs = i.2.1)) ∧
  (∀ s : State, s.dev.phase = 2 →
    (s.mbox.cmd = 1 → s.mbox.status ≠ 1 → s.hostLink = true → s.mbox.setAddr.toNat + s.mbox.setLen.toNat ≤ 2 ^ 52 →
      exec .recoveryCheckAndStore s = .next { s with
        mbox := { s.mbox with status := 1, set := s.memRead (13 * 2 ^ 52 + s.mbox.setAddr.toNat) s.mbox.setLen.toNat }
        free := s.free + s.mbox.setLen.toNat }) ∧
    (s.hostLink = false → exec .recoveryCheckAndStore s = .next s) ∧
    (s.mbox.status = 1 → s.mbox.setLen.toNat ≤ s.flashExtent →
      let r := s.fuses.check s.flashExtent s.mbox.set
      (r = 0 → ∃ t : State, exec .recoverySetChecked s = .next t ∧ t.flash = s.mbox.set ∧ t.mbox.status = 2 ∧ t.dev = s.dev ∧ t.mem = s.mem) ∧
      (r ≠ 0 → ∃ t : State, exec .recoverySetChecked s = .next t ∧ t.flash = s.flash ∧ t.mbox.status = 3 ∧ t.mbox.reason = r ∧ t.dev = s.dev ∧
        t.mem = s.mem)) ∧
    (s.mbox.cmd = 2 → exec .recoveryResetRequest s = exec .packageReset s)) ∧
  (∀ s : State, 2 ≤ s.dev.phase → exec .hostPortLinkUp s = .next { s with hostLink := true }) ∧
  (∀ s : State, s.dev.phase < 2 → exec .hostPortLinkUp s = .next s)

/-- R22, R23, R26, R27, R31: a unit is attempted only when its turn has come, up to three times; the first die that qualifies
with its stacks brings early service at 6.4 Gb/s; three failures of a die, a link or a stack set TRAIN_FAIL. Twelve million
cycles into transition the workgroups that remain are asked to vacate, each that its record slot allows (R377); with none
resident and no completion release under way the hub enters full service. DEDUCED (log 81): in which order the units of one list
may be attempted, and that the stacks of the early die have RATE_CUR 2 from the entry to early service. -/
def Obligations.TrainingAndTransition : Prop :=
  (∀ (s : State) (u : TrainUnit) (pass : Bool),
    (s.mayTrain u = false → exec (.trainingAttemptDone u pass) s = .next s) ∧
    (s.dev.phase ≠ 3 → s.dev.phase ≠ 4 → exec (.trainingAttemptDone u pass) s = .next s) ∧
    (s.dev.phase = 3 ∨ s.dev.phase = 4 → s.mayTrain u = true → ∃ t : State, exec (.trainingAttemptDone u pass) s = .next t ∧
      (t.trained u).attempts = (s.trained u).attempts + 1 ∧ t.passed u = pass ∧
      (∀ v, v ≠ u → t.trained v = s.trained v) ∧ t.mem = s.mem ∧ t.sheaves = s.sheaves ∧
      (t.dev.trainFail = true ↔ s.dev.trainFail = true ∨ (pass = false ∧ 2 ≤ (s.trained u).attempts ∧ failsTraining u = true)) ∧
      (s.dev.phase = 3 → t.dev.phase = 4 → t.dev.earlyDie ∈ trainDies ∧ t.qualifies t.dev.earlyDie = true ∧
        ∀ k ∈ dieStacks t.dev.earlyDie, (t.stack k).rateCur = 2) ∧
      (t.dev.phase = 5 → t.dev.trainFail = false ∧ (∀ p ∈ coreDies, t.dieUp p = true) ∧ t.transAt = some s.clk))) ∧
  (∀ (s : State) (u : TrainUnit), (3 ≤ (s.trained u).attempts ∨ s.passed u = true) → s.mayTrain u = false) ∧
  (∀ (s : State) (a : Nat), s.transAt = some a → s.dev.phase = 5 →
    (s.clk < a + 12000000 → exec .transitionGraceExpiry s = .next s) ∧
    (a + 12000000 ≤ s.clk → ∃ t : State, exec .transitionGraceExpiry s = .next t ∧ t = { s with wgs := t.wgs } ∧
      (∀ g w, mapFind s.wgs g = some w → mapFind t.wgs g = some w ∨ mapFind t.wgs g = some { w with asked := true }) ∧
      (∀ g w rest, s.wgs = (g, w) :: rest → (∀ id, w.stage ≠ .retiring id) → (s.askAll (s.together g w)).isSome = true →
        mapFind t.wgs g = some { w with asked := true }))) ∧
  (∀ s : State,
    (s.dev.phase ≠ 5 → exec .transitionFinish s = .next s) ∧
    ((∃ e ∈ s.wgs, e.2.stage ≠ .saved) → exec .transitionFinish s = .next s) ∧
    ((∃ e ∈ s.nodes, e.2.compl = .releasing) → exec .transitionFinish s = .next s) ∧
    (s.dev.phase = 5 → (∀ e ∈ s.wgs, e.2.stage = .saved) → (∀ e ∈ s.nodes, e.2.compl ≠ .releasing) → ∃ t : State, exec .transitionFinish s = .next t ∧ t.dev.phase = 6 ∧
      t.lsCap = (if s.variantL = true ∨ s.dev.storeDeg = true then 0x800000 else 0x1000000) ∧ t.discVersion = s.discVersion + 1 ∧
      t.heap12 = s.dev.capUp ∧ t.sheaves = s.sheaves ∧ t.nodes = s.nodes ∧ t.mem = s.mem))

/-- R11, R15, R18, R94, R100, R238, R245, R249, R396, R397, R404, R406: what host writes of control registers do, and which
offsets ignore them; a masked vector that is unmasked sends the one message it owes. The units whose registers the host reads
act on their own account, and each of these steps completes: HBM_RATE_CHANGE, HBM_CHANNEL_RATE_SWITCHED, HBM_POWER_DOWN_ENTRY,
HBM_SELF_REFRESH_ENTRY, HBM_CRC_FAILURE, ECC_ERROR_DETECTED, REGISTER_SCRUB, TRACKING_PERIOD_END, MIGRATION_COPY_PHASE_DONE,
POWER_AVERAGE_UPDATE, DIE_OVER_TEMPERATURE and DIE_TEMPERATURE_BELOW_LIMIT leave the local store, the nodes, DEV_STATE and every
sheaf's registers, pc and M. DEDUCED (log 77): slots are written up to 8 bytes at any byte, owners 2 bytes at a time, and other
widths are ignored. -/
def Obligations.HostRegisters : Prop :=
  (∀ (s : State) (v : DWord), s.hostLink = true → s.dev.phase ≠ 2 →
    let w : Word := v.extractLsb' 0 32
    let at4 (off : Nat) (t : State) : Prop := exec (.registerWrite off 4 v) s = .next t
    (∀ p : Fin 4, at4 (0x100 + 16 * p.val) { s with quantum := s.quantum.set p.val w } ∧
      at4 (0x104 + 16 * p.val) { s with preWait := s.preWait.set p.val w }) ∧
    at4 0x20C { s with fq := { s.fq with head := w.toNat % 65536 } } ∧
    at4 0x228 { s with fq := { s.fq with lost := w } } ∧
    (∀ p : Fin 32, at4 (0x300 + 4 * p.val) { s with ways := mapPutD s.ways p.val (w.setWidth 16) 0xFFFF }) ∧
    (∀ k : Fin 12, at4 (0xD00 + 16 * k.val) (s.setRate k.val (w.setWidth 2))) ∧
    (∀ off ∈ [0x0, 0x4, 0x210, 0x214, 0x224, 0x400, 0xC00, 0xC04, 0xE04, 0xE08, 0xE10, 0xE14, 0x1000], at4 off s) ∧
    (∃ t : State, at4 0xE00 t ∧ t = { s with power := t.power, free := t.free } ∧
      t.power = { s.power with limitW := t.power.limitW, throttle := t.power.throttle } ∧
      t.power.limitW.toNat = max 600 (min 3600 (w.toNat % 65536)) ∧
      ((∃ d ∈ s.power.temps, 1680 < d.2.toNat) → t.power.throttle = 4) ∧
      ((∀ d ∈ s.power.temps, d.2.toNat ≤ 1680) → s.power.powerMw.toNat ≤ 1000 * t.power.limitW.toNat → t.power.throttle = 16) ∧
      4 ≤ t.power.throttle ∧ t.power.throttle ≤ 16) ∧
    at4 0x218 (s.releasePage w false) ∧
    exec (.registerWrite 0x218 8 v) s = .next (s.releasePage w (v.getLsbD 32)) ∧
    exec (.registerWrite 0x200 8 v) s = .next { s with fq := { s.fq with base := v &&& 0x00FFFFFFFFFFF000 } } ∧
    exec (.registerWrite 0x500 8 v) s = .next { s with aper := v &&& 0x00FFFFFFC0000001 } ∧
    (∀ n : Fin 65536, exec (.registerWrite (0x840000 + 2 * n.val) 2 v) s = .next (s.setOwner n.val (v.setWidth 16))) ∧
    (∀ (n : Fin 65536) (b : Fin 64) (k : Nat), k ≤ 8 → b.val + k ≤ 64 →
      exec (.registerWrite (0x400000 + 64 * n.val + b.val) k v) s = .next (s.writeSlot n.val b.val (leBytes k v.toNat)))) ∧
  (∀ (s : State) (v : DWord), s.hostLink = true → s.dev.phase = 2 →
    exec (.registerWrite 0x1008 8 v) s = .next { s with mbox := { s.mbox with setAddr := v } } ∧
    exec (.registerWrite 0x1010 4 v) s = .next { s with mbox := { s.mbox with setLen := v.setWidth 32 } } ∧
    (s.mbox.status = 1 → exec (.registerWrite 0x1014 4 v) s = .next s) ∧
    (s.mbox.status ≠ 1 → v.toNat % 4 = 1 ∨ v.toNat % 4 = 2 →
      exec (.registerWrite 0x1014 4 v) s = .next { s with mbox := { s.mbox with cmd := v.toNat % 4 } }) ∧
    (∀ off width : Nat, ¬(0x1008 ≤ off ∧ off ≤ 0x1014) → exec (.registerWrite off width v) s = .next s)) ∧
  (∀ (s : State) (k c page core die : Nat) (r : BitVec 2) (loc : EccLoc) (bad : Bool) (mw : Word) (temp : BitVec 16),
    ∀ i ∈ [Instr.hbmRateChange k r, .hbmChannelRateSwitched k c, .hbmPowerDownEntry k c, .hbmSelfRefreshEntry k c, .hbmCrcFailure k c,
      .eccErrorDetected loc bad, .registerScrub core, .trackingPeriodEnd, .migrationCopyPhaseDone page, .powerAverageUpdate mw,
      .dieOverTemperature die temp, .dieTemperatureBelowLimit die temp],
    ∃ t : State, exec i s = .next t ∧ t.ls = s.ls ∧ t.nodes = s.nodes ∧ t.dev = s.dev ∧
      ∀ j sh, s.sheaf j = some sh → ∃ x, t.sheaf j = some x ∧ x.regs = sh.regs ∧ x.pc = sh.pc ∧ x.m = sh.m) ∧
  (∀ (s : State) (off width : Nat) (v : DWord), s.hostLink = false → s.hostRead off = none ∧ exec (.registerWrite off width v) s = .next s) ∧
  (∀ (s : State) (k : Nat), k < 64 → s.hostLink = true → s.dev.phase ≠ 2 → ∃ t : State, exec (.msixVectorUnmask k) s = .next t ∧
    t = { s with msiMask := t.msiMask, msiPend := t.msiPend, msiSent := t.msiSent } ∧
    (∀ j, t.msiMask.getLsbD j = (s.msiMask.getLsbD j && j != k)) ∧ (∀ j, t.msiPend.getLsbD j = (s.msiPend.getLsbD j && j != k)) ∧
    t.msiSent = s.msiSent ++ (if s.msiPend.getLsbD k then [k] else []))

/-- R18, R247, R332, R397, R403: the aperture reads memory behind earlier posted writes, ones where it is off, and is shut in
recovery; a write through it is posted, and posted writes are performed in order, the oldest first; a write that reaches an
allowance object is discarded; reads and writes of a channel that switches its rate wait. DESIGN CHOICE (log 78): whether a read
of APER_CTL has returned since its last write is a free value, so that a change is in force for the next access or a later one,
never for a part of one. -/
def Obligations.HostAperture : Prop :=
  (∀ s : State, (s.aper = s.aperNow → s.aperSettle = s) ∧ (s.aperSettle.aperNow = s.aper ∨ s.aperSettle.aperNow = s.aperNow) ∧
    s.aperSettle = { s with aperNow := s.aperSettle.aperNow, free := s.aperSettle.free }) ∧
  (∀ (s : State) (d len : Nat), s.stretchWaits d len = true ↔ ∃ i, i < len ∧ s.channelWaits ((d + i) / 64 * 64) = true) ∧
  (∀ (s : State) (off len : Nat), s.hostLink = true → s.dev.phase ≠ 2 →
    let u := s.aperSettle
    (s.posted ≠ [] → exec (.apertureRead off len) s = .next s) ∧
    (∀ d, u.aperDpa off = some d → s.stretchWaits d len = true → exec (.apertureRead off len) s = .next s) ∧
    (s.posted = [] → (∀ d, u.aperDpa off = some d → s.stretchWaits d len = false) →
      ∃ (t : State) (bs : List Byte), exec (.apertureRead off len) s = .next t ∧ t.hostReads = s.hostReads ++ [bs] ∧ t.sheaves = s.sheaves ∧
      (s.heap14Owed = false → t = { s with hbm := t.hbm, trk := t.trk, hostReads := t.hostReads, aperNow := u.aperNow, free := u.free + off + len }) ∧
      bs.length = len ∧
      ∀ i, i < len → (u.aperDpa (off + i) = none → bs[i]? = some 0xFF) ∧
        (∀ d, u.aperDpa (off + i) = some d → (s.memTagAt d = 0xA000 → bs[i]? = some 0xFF) ∧
          (s.memTagAt d ≠ 0xA000 → s.memPoisonAt d = false → ¬(dpaTarget d = 14 ∧ s.heap14Lost = true) → bs[i]? = some (s.memByte d))))) ∧
  (∀ (s : State) (off : Nat) (bs : List Byte), s.hostLink = true → s.dev.phase ≠ 2 →
    let u := s.aperSettle
    (u.aperDpa off = none → exec (.apertureWrite off bs) s = .next u) ∧
    (∀ d, u.aperDpa off = some d → exec (.apertureWrite off bs) s = .next { u with posted := s.posted ++ [{ dpa := d, bytes := bs }] })) ∧
  (∀ (s : State) (off : Nat), s.aperNow.getLsbD 0 = true → off < 2 ^ 36 →
    dpaTarget (s.aperNow.toNat / 2 ^ 30 * 2 ^ 30 + off) ≠ 13 → dpaTarget (s.aperNow.toNat / 2 ^ 30 * 2 ^ 30 + off) ≠ 15 →
    s.aperDpa off = some (s.aperNow.toNat / 2 ^ 30 * 2 ^ 30 + off)) ∧
  (∀ (s : State) (off : Nat), (s.aperNow.getLsbD 0 = false ∨ 2 ^ 36 ≤ off ∨ dpaTarget (s.aperNow.toNat / 2 ^ 30 * 2 ^ 30 + off) = 13 ∨
    dpaTarget (s.aperNow.toNat / 2 ^ 30 * 2 ^ 30 + off) = 15) → s.aperDpa off = none) ∧
  (∀ (s : State) (off len : Nat) (bs : List Byte), s.dev.phase = 2 ∨ s.hostLink = false →
    exec (.apertureRead off len) s = .next s ∧ exec (.apertureWrite off bs) s = .next s) ∧
  (∀ s : State, s.posted = [] → exec .hostPostedWrite s = .next s) ∧
  (∀ (s : State) (w : HostWrite) (rest : List HostWrite), s.posted = w :: rest →
    (s.stretchWaits w.dpa w.bytes.length = true → exec .hostPostedWrite s = .next s) ∧
    (s.stretchWaits w.dpa w.bytes.length = false → w.bytes ≠ [] → w.dpa % 64 + w.bytes.length ≤ 64 → dpaTarget w.dpa < 12 →
      ∃ t : State, exec .hostPostedWrite s = .next t ∧ t.posted = rest ∧ t.sheaves = s.sheaves ∧ t.memTag = s.memTag ∧
      t.net.map (fun f => (f.p.src, f.p.dst)) = s.net.map (fun f => (f.p.src, f.p.dst)) ∧
      (s.memTagAt w.dpa = 0xA000 → t = { s with posted := rest }) ∧
      (s.memTagAt w.dpa ≠ 0xA000 → ∀ a, t.memByte a = if w.dpa ≤ a ∧ a < w.dpa + w.bytes.length then w.bytes.getD (a - w.dpa) 0 else s.memByte a)))

/-- R19, R20, R21, R28, R29, R239, R359, R422: Prosy sets the partition mode only where no context exists, makes a context with
a free ASID other than 0 and 0xFFFF, updates a root entry, and removes a context whose work is done and whose allowances are
back; MIN_SVN rises in full service only, up to the running version; an attestation report joins those made. That the low three
bits of a first TRAP_BASE are cleared is the model's choice (log entry 88), and so is what a context binds that is made in early
service, where the mode is One (log 95, DEDUCED). -/
def Obligations.ContextsAndIdentity : Prop :=
  (∀ (s : State) (m : PartMode), (s.dev.phase = 4 → exec (.setPartitionMode m) s = .next s) ∧
    (3 ≤ s.dev.phase → s.dev.phase ≠ 4 → s.ctxs = [] → exec (.setPartitionMode m) s = .next { s with mode := m }) ∧ (s.ctxs ≠ [] → exec (.setPartitionMode m) s = .next s)) ∧
  (∀ (s : State) (a : BitVec 16) (spec : CtxSpec),
    ((a = 0 ∨ a = 0xFFFF ∨ s.ctx a ≠ none ∨ modeParts s.modeNow ≤ spec.partition) → exec (.contextCreate a spec) s = .next s) ∧
    ((∃ c ∈ s.ctxs, c.2.mode ≠ s.modeNow) → exec (.contextCreate a spec) s = .next s) ∧
    (3 ≤ s.dev.phase → a ≠ 0 → a ≠ 0xFFFF → s.ctx a = none → spec.partition < modeParts s.modeNow → (∀ c ∈ s.ctxs, c.2.mode = s.modeNow) →
      ∃ (t : State) (c : Context), exec (.contextCreate a spec) s = .next t ∧ t = { s with ctxs := t.ctxs, heapCaps := t.heapCaps, mode := t.mode } ∧
        t.mode = (if s.ctxs = [] then s.modeNow else s.mode) ∧
        t.ctx a = some c ∧ c.partition = spec.partition ∧ c.mode = s.modeNow ∧ c.trapBase = spec.trapBase &&& ~~~7#64 ∧
        (∀ b, b ≠ a → t.ctx b = s.ctx b))) ∧
  (∀ (s : State) (a : BitVec 16) (h : Fin 16) (e : DWord), 3 ≤ s.dev.phase → ∃ t : State, exec (.rootEntryUpdate a h e) s = .next t ∧
    t = { s with ctxs := t.ctxs } ∧ (∀ c, s.ctx a = some c → t.ctx a = some { c with root := c.root.set h.val e }) ∧
    (∀ b, b ≠ a → t.ctx b = s.ctx b)) ∧
  (∀ (s : State) (a : BitVec 16), ((s.ctx a = none ∨ s.ctxBusy a = true) → exec (.contextTeardown a) s = .next s) ∧
    (s.ctx a ≠ none → s.ctxBusy a = false → (∀ c ∈ s.cores, ∀ e ∈ c.2.al, e.key.asid ≠ a) → (∀ d ∈ s.alDie, ∀ e ∈ d.2, e.key.asid ≠ a) →
      s.net = [] → exec (.contextTeardown a) s = .next { s with ctxs := mapErase s.ctxs a.toNat })) ∧
  (∀ (s : State) (v : BitVec 16) (r : List Byte × Nat × List (List Byte)), s.running = some r →
    (s.dev.phase = 6 → s.fuses.minSvn ≤ v.toNat → v.toNat ≤ r.2.1 →
      exec (.minSvnRaise v) s = .next { s with fuses := { s.fuses with minSvn := v.toNat } }) ∧
    ((s.dev.phase ≠ 6 ∨ v.toNat < s.fuses.minSvn ∨ r.2.1 < v.toNat) → exec (.minSvnRaise v) s = .next s)) ∧
  (∀ (s : State) (nonce : List Byte) (r : List Byte × Nat × List (List Byte)), s.running = some r → 3 ≤ s.dev.phase →
    nonce.length = 32 → ∃ rest : List Byte, exec (.attestationReport nonce) s = .next { s with attested := s.attested ++ [nonce ++ r.1 ++ rest] })

/-- R400, R401, R402: a flit that fails its check or is sealed under a key not held is rejected, and the eighth rejection of one
flit in a row takes the port down; an accepted flit frees what it acknowledges, has the rest sent again where it carries a
rejection, and is delivered in sequence; at most 512 flits wait for their acknowledgement; a port that goes down drops its
replay; a rollover seals new flits under the next key from its first sequence number on while the receiver holds both, a second
one waits, and the old key goes once no flit needs it. DESIGN CHOICE (log 79): which payload is a rejection and which reports
the erasure of an old key are free values. R321: the flushing read of a SYSTEM release and the POD marker of a release are
answered, the POD marker only once no write to another package that its port forwarded before the marker came is unacknowledged. -/
def Obligations.PortsAndMarkers : Prop :=
  (
    (∀ (s : State) (n : Nat) (x : Port) (f : Flit), mapFind s.ports n = some x →
      let good : Prop := f.ok = true ∧ (x.recvBoth = true ∨ f.keyBit = (x.recvEpoch % 2 == 1))
      let count := mapGetD x.rejects f.seq.toNat 0
      (x.up = false → exec (.troxiaFlitReceive n f) s = .next s) ∧
      (x.up = true → ¬good →
        (count < 7 → exec (.troxiaFlitReceive n f) s =
          .next { s with ports := mapInsert s.ports n { x with rejects := mapInsert x.rejects f.seq.toNat (count + 1) } }) ∧
        (7 ≤ count → exec (.troxiaFlitReceive n f) s = exec (.troxiaPortDown n) s)) ∧
      (x.up = true → good → (x.recvBoth = false ∨ Config.flitErased f.payload = false) → x.queue = [] →
        let kept := x.replay.filter (fun r => !seqFrom f.ack r.seq)
        let again (r : HeldFlit) : SentFlit := { seq := r.seq, keyBit := r.epoch % 2 == 1, ack := x.expect - 1, req := r.req,
                                                 tag := Config.flitTagOf n r.seq r.epoch (x.expect - 1) r.req }
        let y : Port := { x with rejects := mapErase x.rejects f.seq.toNat, acked := if seqFrom f.ack x.acked then f.ack else x.acked, replay := kept,
                                 line := if Config.flitRejects f.payload then x.line ++ kept.map again else x.line }
        (f.seq ≠ x.expect → exec (.troxiaFlitReceive n f) s = .next { s with ports := mapInsert s.ports n y }) ∧
        (f.seq = x.expect → exec (.troxiaFlitReceive n f) s =
          .next (({ s with ports := mapInsert s.ports n { y with expect := x.expect + 1 } } : State).flitDelivered n f.payload)))) ∧
    (∀ (a b : BitVec 24), seqFrom a b = decide ((a - b).toNat < 2 ^ 23)) ∧
    (∀ (x : Port) (n : Nat),
      let k := min x.queue.length (512 - x.replay.length)
      (x.refill n).queue = x.queue.drop k ∧ (x.refill n).sent = x.sent + BitVec.ofNat 24 k ∧ (x.refill n).replay.length = x.replay.length + k ∧
      (x.refill n).line.length = x.line.length + k ∧
      ∀ i q, i < k → x.queue[i]? = some q →
        let seq := x.sent + BitVec.ofNat 24 i
        let epoch := if ∃ r, x.rollover = some r ∧ seqFrom seq r = true then x.epoch + 1 else x.epoch
        (x.refill n).replay[x.replay.length + i]? = some { seq := seq, epoch := epoch, req := q } ∧
        (x.refill n).line[x.line.length + i]? = some { seq := seq, keyBit := epoch % 2 == 1, ack := x.expect - 1, req := q,
                                                        tag := Config.flitTagOf n seq epoch (x.expect - 1) q }) ∧
    (∀ (s : State) (n : Nat) (x : Port) (f : Flit), mapFind s.ports n = some x → x.up = true → x.recvBoth = true → f.ok = true →
      Config.flitErased f.payload = true → f.seq ≠ x.expect → x.waiting = [] → ∃ y, exec (.troxiaFlitReceive n f) s =
        .next { s with ports := mapInsert s.ports n y } ∧ y.recvBoth = false ∧ y.recvEpoch = x.recvEpoch + 1 ∧ y.epoch = x.epoch ∧ y.rollover = x.rollover) ∧
    (∀ (s : State) (n : Nat) (x : Port), mapFind s.ports n = some x →
      (x.up = false → exec (.troxiaPortDown n) s = .next s) ∧
      (x.up = true → (∀ q ∈ s.podOut, q.port ≠ n) → ∃ (t : State) (y : Port), exec (.troxiaPortDown n) s = .next t ∧
        mapFind t.ports n = some y ∧ y.up = false ∧ y.replay = [] ∧ t.podOut = s.podOut)) ∧
    (∀ (s : State) (n : Nat) (x : Port) (q : BitVec 24), mapFind s.ports n = some x →
      ((x.rollover ≠ none ∨ x.recvBoth = true) → exec (.keyRollover n q) s =
        .next { s with ports := mapInsert s.ports n { x with waiting := x.waiting ++ [q] } }) ∧
      (x.rollover = none → x.recvBoth = false → x.waiting = [] → exec (.keyRollover n q) s =
        .next { s with ports := mapInsert s.ports n { x with rollover := some q, recvBoth := true } })) ∧
    (∀ (s : State) (n : Nat) (x : Port) (q : BitVec 24), mapFind s.ports n = some x → x.rollover = some q →
      let finished : Prop := seqFrom x.acked q = true ∧ ∀ r ∈ x.replay, seqFrom r.seq q = true
      (¬finished → exec (.troxiaOldKeyErase n) s = .next s) ∧
      (finished → (x.recvBoth = true ∨ x.waiting = []) →
        exec (.troxiaOldKeyErase n) s = .next { s with ports := mapInsert s.ports n { x with rollover := none, epoch := x.epoch + 1 } }) ∧
      (∀ r rest, finished → x.recvBoth = false → x.waiting = r :: rest →
        exec (.troxiaOldKeyErase n) s =
          .next { s with ports := mapInsert s.ports n { x with rollover := some r, epoch := x.epoch + 1, recvBoth := true, waiting := rest } }))) ∧
  (
    (∀ (s u : State) (p : Packet) (r : MarkFor), Received s p u → p.dst = .hostPort → p.msg = .mark r 7 →
      exec .hostFlushReadComplete s = .next { u with net := u.net ++ [sentFlight s.clk .hostPort p.src 0 p.part (.marked r)] }) ∧
    (∀ (s u : State) (p : Packet) (r : MarkFor) (k : Nat), Received s p u → p.dst = .troxia k → p.msg = .mark r 6 →
      exec .troxiaPodMarker s = .next { u with podMarks := s.podMarks ++ [{ who := r, back := p.src, port := k, before := s.winNext }] }) ∧
    (∀ (s : State) (m : PodMark) (rest : List PodMark), (∀ f ∈ s.net, f.place ≠ .inbox) → s.podMarks = m :: rest →
      (∀ q ∈ s.podOut, q.write = true → q.port = m.port → m.before ≤ q.seq) → exec .troxiaPodMarker s = .next { s with
        podMarks := rest
        net := s.net ++ [sentFlight s.clk (.troxia m.port) m.back 0 none (.marked m.who)] }) ∧
    (∀ s : State, (∀ f ∈ s.net, f.place ≠ .inbox) →
      (∀ m ∈ s.podMarks, ∃ q ∈ s.podOut, q.write = true ∧ q.port = m.port ∧ q.seq < m.before) → exec .troxiaPodMarker s = .next s))
end

