-- ==== Sys2Proof/Laws/Exec.lean ====
section
/-! SUPPORT. What `exec` answers for each constructor, and the way every general-form and branch-form instruction goes. -/

namespace Sys2Proof.Machine

section
variable (s : State)
theorem exec_nop (o : Ops) : exec (.nop o) s = execNop o s := rfl
theorem exec_bra (o : BrOps) : exec (.bra o) s = execBra o s := rfl
theorem exec_brc (o : BrOps) : exec (.brc o) s = execBrc o s := rfl
theorem exec_brx (o : Ops) : exec (.brx o) s = execBrx o s := rfl
theorem exec_call (o : BrOps) : exec (.call o) s = execCall o s := rfl
theorem exec_callx (o : Ops) : exec (.callx o) s = execCallx o s := rfl
theorem exec_ret (o : Ops) : exec (.ret o) s = execRet o s := rfl
theorem exec_exit (o : Ops) : exec (.exit o) s = execExit o s := rfl
theorem exec_yield (o : Ops) : exec (.yield o) s = execYield o s := rfl
theorem exec_sleep (o : Ops) : exec (.sleep o) s = execSleep o s := rfl
theorem exec_brk (o : Ops) : exec (.brk o) s = execBrk o s := rfl
theorem exec_trap (o : Ops) : exec (.trap o) s = execTrap o s := rfl
theorem exec_cfetch (o : Ops) : exec (.cfetch o) s = execCfetch o s := rfl
theorem exec_cpin (o : Ops) : exec (.cpin o) s = execCpin o s := rfl
theorem exec_cunpin (o : Ops) : exec (.cunpin o) s = execCunpin o s := rfl
theorem exec_iadd (o : Ops) : exec (.iadd o) s = execIadd o s := rfl
theorem exec_isub (o : Ops) : exec (.isub o) s = execIsub o s := rfl
theorem exec_isum3 (o : Ops) : exec (.isum3 o) s = execIsum3 o s := rfl
theorem exec_imul (o : Ops) : exec (.imul o) s = execImul o s := rfl
theorem exec_imulh (o : Ops) : exec (.imulh o) s = execImulh o s := rfl
theorem exec_imac (o : Ops) : exec (.imac o) s = execImac o s := rfl
theorem exec_imacw (o : Ops) : exec (.imacw o) s = execImacw o s := rfl
theorem exec_iadd64 (o : Ops) : exec (.iadd64 o) s = execIadd64 o s := rfl
theorem exec_isub64 (o : Ops) : exec (.isub64 o) s = execIsub64 o s := rfl
theorem exec_imin (o : Ops) : exec (.imin o) s = execImin o s := rfl
theorem exec_imax (o : Ops) : exec (.imax o) s = execImax o s := rfl
theorem exec_iabs (o : Ops) : exec (.iabs o) s = execIabs o s := rfl
theorem exec_lea (o : Ops) : exec (.lea o) s = execLea o s := rfl
theorem exec_lea64 (o : Ops) : exec (.lea64 o) s = execLea64 o s := rfl
theorem exec_idot4 (o : Ops) : exec (.idot4 o) s = execIdot4 o s := rfl
theorem exec_idot2 (o : Ops) : exec (.idot2 o) s = execIdot2 o s := rfl
theorem exec_and (o : Ops) : exec (.and o) s = execAnd o s := rfl
theorem exec_or (o : Ops) : exec (.or o) s = execOr o s := rfl
theorem exec_xor (o : Ops) : exec (.xor o) s = execXor o s := rfl
theorem exec_andn (o : Ops) : exec (.andn o) s = execAndn o s := rfl
theorem exec_lsel (o : Ops) : exec (.lsel o) s = execLsel o s := rfl
theorem exec_shl (o : Ops) : exec (.shl o) s = execShl o s := rfl
theorem exec_shr (o : Ops) : exec (.shr o) s = execShr o s := rfl
theorem exec_rot (o : Ops) : exec (.rot o) s = execRot o s := rfl
theorem exec_shd (o : Ops) : exec (.shd o) s = execShd o s := rfl
theorem exec_popc (o : Ops) : exec (.popc o) s = execPopc o s := rfl
theorem exec_clz (o : Ops) : exec (.clz o) s = execClz o s := rfl
theorem exec_brev (o : Ops) : exec (.brev o) s = execBrev o s := rfl
theorem exec_xfld (o : Ops) : exec (.xfld o) s = execXfld o s := rfl
theorem exec_ifld (o : Ops) : exec (.ifld o) s = execIfld o s := rfl
theorem exec_bmux (o : Ops) : exec (.bmux o) s = execBmux o s := rfl
theorem exec_clmul (o : Ops) : exec (.clmul o) s = execClmul o s := rfl
theorem exec_icmp (o : Ops) : exec (.icmp o) s = execIcmp o s := rfl
theorem exec_fcmp (o : Ops) : exec (.fcmp o) s = execFcmp o s := rfl
theorem exec_sel (o : Ops) : exec (.sel o) s = execSel o s := rfl
theorem exec_mov (o : Ops) : exec (.mov o) s = execMov o s := rfl
theorem exec_movi (o : Ops) : exec (.movi o) s = execMovi o s := rfl
theorem exec_movs (o : Ops) : exec (.movs o) s = execMovs o s := rfl
theorem exec_mov64 (o : Ops) : exec (.mov64 o) s = execMov64 o s := rfl
theorem exec_icmp64 (o : Ops) : exec (.icmp64 o) s = execIcmp64 o s := rfl
theorem exec_fadd (o : Ops) : exec (.fadd o) s = execFadd o s := rfl
theorem exec_fmul (o : Ops) : exec (.fmul o) s = execFmul o s := rfl
theorem exec_ffma (o : Ops) : exec (.ffma o) s = execFfma o s := rfl
theorem exec_fmin (o : Ops) : exec (.fmin o) s = execFmin o s := rfl
theorem exec_fmax (o : Ops) : exec (.fmax o) s = execFmax o s := rfl
theorem exec_frnd (o : Ops) : exec (.frnd o) s = execFrnd o s := rfl
theorem exec_ffrc (o : Ops) : exec (.ffrc o) s = execFfrc o s := rfl
theorem exec_fscl (o : Ops) : exec (.fscl o) s = execFscl o s := rfl
theorem exec_frcp (o : Ops) : exec (.frcp o) s = execFrcp o s := rfl
theorem exec_frsq (o : Ops) : exec (.frsq o) s = execFrsq o s := rfl
theorem exec_fsqrt (o : Ops) : exec (.fsqrt o) s = execFsqrt o s := rfl
theorem exec_fdiv (o : Ops) : exec (.fdiv o) s = execFdiv o s := rfl
theorem exec_fex2 (o : Ops) : exec (.fex2 o) s = execFex2 o s := rfl
theorem exec_flg2 (o : Ops) : exec (.flg2 o) s = execFlg2 o s := rfl
theorem exec_fsin (o : Ops) : exec (.fsin o) s = execFsin o s := rfl
theorem exec_fcos (o : Ops) : exec (.fcos o) s = execFcos o s := rfl
theorem exec_hadd2 (o : Ops) : exec (.hadd2 o) s = execHadd2 o s := rfl
theorem exec_hmul2 (o : Ops) : exec (.hmul2 o) s = execHmul2 o s := rfl
theorem exec_hfma2 (o : Ops) : exec (.hfma2 o) s = execHfma2 o s := rfl
theorem exec_hmin2 (o : Ops) : exec (.hmin2 o) s = execHmin2 o s := rfl
theorem exec_hmax2 (o : Ops) : exec (.hmax2 o) s = execHmax2 o s := rfl
theorem exec_fdp2 (o : Ops) : exec (.fdp2 o) s = execFdp2 o s := rfl
theorem exec_fdp4 (o : Ops) : exec (.fdp4 o) s = execFdp4 o s := rfl
theorem exec_f2i (o : Ops) : exec (.f2i o) s = execF2i o s := rfl
theorem exec_i2f (o : Ops) : exec (.i2f o) s = execI2f o s := rfl
theorem exec_f2f (o : Ops) : exec (.f2f o) s = execF2f o s := rfl
theorem exec_cvpk (o : Ops) : exec (.cvpk o) s = execCvpk o s := rfl
theorem exec_cvup (o : Ops) : exec (.cvup o) s = execCvup o s := rfl
theorem exec_dsenc (o : Ops) : exec (.dsenc o) s = execDsenc o s := rfl
theorem exec_dsdec (o : Ops) : exec (.dsdec o) s = execDsdec o s := rfl
theorem exec_relay (o : Ops) : exec (.relay o) s = execRelay o s := rfl
theorem exec_poll (o : Ops) : exec (.poll o) s = execPoll o s := rfl
theorem exec_sred (o : Ops) : exec (.sred o) s = execSred o s := rfl
theorem exec_sscan (o : Ops) : exec (.sscan o) s = execSscan o s := rfl
theorem exec_matchv (o : Ops) : exec (.matchv o) s = execMatchv o s := rfl
theorem exec_firstv (o : Ops) : exec (.firstv o) s = execFirstv o s := rfl
theorem exec_ld (o : Ops) : exec (.ld o) s = execLd o s := rfl
theorem exec_st (o : Ops) : exec (.st o) s = execSt o s := rfl
theorem exec_ldb (o : Ops) : exec (.ldb o) s = execLdb o s := rfl
theorem exec_stb (o : Ops) : exec (.stb o) s = execStb o s := rfl
theorem exec_ldtg (o : Ops) : exec (.ldtg o) s = execLdtg o s := rfl
theorem exec_sttg (o : Ops) : exec (.sttg o) s = execSttg o s := rfl
theorem exec_tagrd (o : Ops) : exec (.tagrd o) s = execTagrd o s := rfl
theorem exec_tagwr (o : Ops) : exec (.tagwr o) s = execTagwr o s := rfl
theorem exec_pref (o : Ops) : exec (.pref o) s = execPref o s := rfl
theorem exec_cctl (o : Ops) : exec (.cctl o) s = execCctl o s := rfl
theorem exec_atom (o : Ops) : exec (.atom o) s = execAtom o s := rfl
theorem exec_atom64 (o : Ops) : exec (.atom64 o) s = execAtom64 o s := rfl
theorem exec_cas (o : Ops) : exec (.cas o) s = execCas o s := rfl
theorem exec_cas64 (o : Ops) : exec (.cas64 o) s = execCas64 o s := rfl
theorem exec_fatom (o : Ops) : exec (.fatom o) s = execFatom o s := rfl
theorem exec_hatom2 (o : Ops) : exec (.hatom2 o) s = execHatom2 o s := rfl
theorem exec_red (o : Ops) : exec (.red o) s = execRed o s := rfl
theorem exec_fred (o : Ops) : exec (.fred o) s = execFred o s := rfl
theorem exec_cpy (o : Ops) : exec (.cpy o) s = execCpy o s := rfl
theorem exec_gath (o : Ops) : exec (.gath o) s = execGath o s := rfl
theorem exec_bags (o : Ops) : exec (.bags o) s = execBags o s := rfl
theorem exec_scad (o : Ops) : exec (.scad o) s = execScad o s := rfl
theorem exec_fill (o : Ops) : exec (.fill o) s = execFill o s := rfl
theorem exec_waitc (o : Ops) : exec (.waitc o) s = execWaitc o s := rfl
theorem exec_cntrd (o : Ops) : exec (.cntrd o) s = execCntrd o s := rfl
theorem exec_sclaim (o : Ops) : exec (.sclaim o) s = execSclaim o s := rfl
theorem exec_srel (o : Ops) : exec (.srel o) s = execSrel o s := rfl
theorem exec_swr (o : Ops) : exec (.swr o) s = execSwr o s := rfl
theorem exec_srd (o : Ops) : exec (.srd o) s = execSrd o s := rfl
theorem exec_aclaim (o : Ops) : exec (.aclaim o) s = execAclaim o s := rfl
theorem exec_arel (o : Ops) : exec (.arel o) s = execArel o s := rfl
theorem exec_mma (o : Ops) : exec (.mma o) s = execMma o s := rfl
theorem exec_aclr (o : Ops) : exec (.aclr o) s = execAclr o s := rfl
theorem exec_ard (o : Ops) : exec (.ard o) s = execArd o s := rfl
theorem exec_awr (o : Ops) : exec (.awr o) s = execAwr o s := rfl
theorem exec_aop (o : Ops) : exec (.aop o) s = execAop o s := rfl
theorem exec_adrn (o : Ops) : exec (.adrn o) s = execAdrn o s := rfl
theorem exec_fence (o : Ops) : exec (.fence o) s = execFence o s := rfl
theorem exec_bar (o : Ops) : exec (.bar o) s = execBar o s := rfl
theorem exec_bara (o : Ops) : exec (.bara o) s = execBara o s := rfl
theorem exec_barw (o : Ops) : exec (.barw o) s = execBarw o s := rfl
theorem exec_boinit (o : Ops) : exec (.boinit o) s = execBoinit o s := rfl
theorem exec_boexp (o : Ops) : exec (.boexp o) s = execBoexp o s := rfl
theorem exec_boarr (o : Ops) : exec (.boarr o) s = execBoarr o s := rfl
theorem exec_bowait (o : Ops) : exec (.bowait o) s = execBowait o s := rfl
theorem exec_alinit (o : Ops) : exec (.alinit o) s = execAlinit o s := rfl
theorem exec_altake (o : Ops) : exec (.altake o) s = execAltake o s := rfl
theorem exec_algive (o : Ops) : exec (.algive o) s = execAlgive o s := rfl
theorem exec_alread (o : Ops) : exec (.alread o) s = execAlread o s := rfl
theorem exec_alpeek (o : Ops) : exec (.alpeek o) s = execAlpeek o s := rfl
theorem exec_alclose (o : Ops) : exec (.alclose o) s = execAlclose o s := rfl
theorem exec_launch (o : Ops) : exec (.launch o) s = execLaunch o s := rfl
theorem exec_ndec (o : Ops) : exec (.ndec o) s = execNdec o s := rfl
theorem exec_evsig (o : Ops) : exec (.evsig o) s = execEvsig o s := rfl
theorem exec_csrrd (o : Ops) : exec (.csrrd o) s = execCsrrd o s := rfl
theorem exec_csrwr (o : Ops) : exec (.csrwr o) s = execCsrwr o s := rfl
theorem exec_tret (o : Ops) : exec (.tret o) s = execTret o s := rfl
theorem exec_ctxsv (o : Ops) : exec (.ctxsv o) s = execCtxsv o s := rfl
theorem exec_ctxld (o : Ops) : exec (.ctxld o) s = execCtxld o s := rfl
theorem exec_xlinv (o : Ops) : exec (.xlinv o) s = execXlinv o s := rfl
theorem exec_unassignedOpcode (w : DWord) : exec (.unassignedOpcode w) s = execUnassignedOpcode w s := rfl
theorem exec_registerWrite (off width : Nat) (v : DWord) : exec (.registerWrite off width v) s = execRegisterWrite off width v s := rfl
theorem exec_trainingAttemptDone (u : TrainUnit) (pass : Bool) : exec (.trainingAttemptDone u pass) s = execTrainingAttemptDone u pass s := rfl
theorem exec_minSvnRaise (v : BitVec 16) : exec (.minSvnRaise v) s = execMinSvnRaise v s := rfl
theorem exec_attestationReport (nonce : List Byte) : exec (.attestationReport nonce) s = execAttestationReport nonce s := rfl
theorem exec_setPartitionMode (m : PartMode) : exec (.setPartitionMode m) s = execSetPartitionMode m s := rfl
theorem exec_contextCreate (asid : BitVec 16) (spec : CtxSpec) : exec (.contextCreate asid spec) s = execContextCreate asid spec s := rfl
theorem exec_rootEntryUpdate (asid : BitVec 16) (heap : Fin 16) (entry : DWord) : exec (.rootEntryUpdate asid heap entry) s = execRootEntryUpdate asid heap entry s := rfl
theorem exec_slotWrite (slot first : Nat) (bytes : List Byte) : exec (.slotWrite slot first bytes) s = execSlotWrite slot first bytes s := rfl
theorem exec_nodeArm (slot : Nat) (record : Blk) : exec (.nodeArm slot record) s = execNodeArm slot record s := rfl
theorem exec_decrement (slot : Nat) : exec (.decrement slot) s = execDecrement slot s := rfl
theorem exec_priorityAgeing (slot : Nat) : exec (.priorityAgeing slot) s = execPriorityAgeing slot s := rfl
theorem exec_placeWorkgroup (partition : Nat) : exec (.placeWorkgroup partition) s = execPlaceWorkgroup partition s := rfl
theorem exec_reclaimDone (wg : Nat) : exec (.reclaimDone wg) s = execReclaimDone wg s := rfl
theorem exec_preemptCandidate (partition : Nat) : exec (.preemptCandidate partition) s = execPreemptCandidate partition s := rfl
theorem exec_vacateRequest (wg : Nat) : exec (.vacateRequest wg) s = execVacateRequest wg s := rfl
theorem exec_vacateAbandonTimer (wg : Nat) : exec (.vacateAbandonTimer wg) s = execVacateAbandonTimer wg s := rfl
theorem exec_workgroupSave (wg : Nat) : exec (.workgroupSave wg) s = execWorkgroupSave wg s := rfl
theorem exec_vacateDone (wg : Nat) : exec (.vacateDone wg) s = execVacateDone wg s := rfl
theorem exec_workgroupRestore (wg : Nat) : exec (.workgroupRestore wg) s = execWorkgroupRestore wg s := rfl
theorem exec_workgroupRetire (wg : Nat) : exec (.workgroupRetire wg) s = execWorkgroupRetire wg s := rfl
theorem exec_completionReleaseDone (slot : Nat) : exec (.completionReleaseDone slot) s = execCompletionReleaseDone slot s := rfl
theorem exec_completionWordDone (slot : Nat) : exec (.completionWordDone slot) s = execCompletionWordDone slot s := rfl
theorem exec_icacheFill (core : Nat) : exec (.icacheFill core) s = execIcacheFill core s := rfl
theorem exec_fetchBufferFill (core : Nat) : exec (.fetchBufferFill core) s = execFetchBufferFill core s := rfl
theorem exec_constFillReturn (core : Nat) (victim : Option Nat) : exec (.constFillReturn core victim) s = execConstFillReturn core victim s := rfl
theorem exec_loadResponse (core : Nat) (victim : Option Nat) : exec (.loadResponse core victim) s = execLoadResponse core victim s := rfl
theorem exec_storeConfirm (core : Nat) : exec (.storeConfirm core) s = execStoreConfirm core s := rfl
theorem exec_storeBufferDrain (core lgrp : Nat) : exec (.storeBufferDrain core lgrp) s = execStoreBufferDrain core lgrp s := rfl
theorem exec_writeThroughArrive (die slice : Nat) : exec (.writeThroughArrive die slice) s = execWriteThroughArrive die slice s := rfl
theorem exec_sliceRead (die slice : Nat) : exec (.sliceRead die slice) s = execSliceRead die slice s := rfl
theorem exec_sliceFillReturn (die slice : Nat) (victim : Option Nat) : exec (.sliceFillReturn die slice victim) s = execSliceFillReturn die slice victim s := rfl
theorem exec_lsBankAccept (core bank : Nat) : exec (.lsBankAccept core bank) s = execLsBankAccept core bank s := rfl
theorem exec_peerLsAccess (core : Nat) : exec (.peerLsAccess core) s = execPeerLsAccess core s := rfl
theorem exec_translationWalk (heap : Nat) : exec (.translationWalk heap) s = execTranslationWalk heap s := rfl
theorem exec_faultResponse (core : Nat) : exec (.faultResponse core) s = execFaultResponse core s := rfl
theorem exec_parkReleaseReplay (parkId : Word) : exec (.parkReleaseReplay parkId) s = execParkReleaseReplay parkId s := rfl
theorem exec_parkReleaseFail (parkId : Word) : exec (.parkReleaseFail parkId) s = execParkReleaseFail parkId s := rfl
theorem exec_parkReplay (sheaf : Nat) : exec (.parkReplay sheaf) s = execParkReplay sheaf s := rfl
theorem exec_responseTimeTrap (sheaf : Nat) : exec (.responseTimeTrap sheaf) s = execResponseTimeTrap sheaf s := rfl
theorem exec_debugResume (sheaf : Nat) (skip : Bool) : exec (.debugResume sheaf skip) s = execDebugResume sheaf skip s := rfl
theorem exec_debugRegisterAccess (sheaf reg thread : Nat) (write : Option Word) : exec (.debugRegisterAccess sheaf reg thread write) s = execDebugRegisterAccess sheaf reg thread write s := rfl
theorem exec_debugPatchPinned (core : Nat) (asid : BitVec 16) (va : DWord) (word : DWord) : exec (.debugPatchPinned core asid va word) s = execDebugPatchPinned core asid va word s := rfl
theorem exec_sleepExpiry (sheaf : Nat) : exec (.sleepExpiry sheaf) s = execSleepExpiry sheaf s := rfl
theorem exec_barrierWake (sheaf : Nat) : exec (.barrierWake sheaf) s = execBarrierWake sheaf s := rfl
theorem exec_boWake (sheaf : Nat) : exec (.boWake sheaf) s = execBoWake sheaf s := rfl
theorem exec_releaseDone (sheaf : Nat) : exec (.releaseDone sheaf) s = execReleaseDone sheaf s := rfl
theorem exec_atomicLineIdleWriteThrough (core line : Nat) : exec (.atomicLineIdleWriteThrough core line) s = execAtomicLineIdleWriteThrough core line s := rfl
theorem exec_l1Atomic (core : Nat) (victim : Option Nat) : exec (.l1Atomic core victim) s = execL1Atomic core victim s := rfl
theorem exec_atomicResponse (core : Nat) : exec (.atomicResponse core) s = execAtomicResponse core s := rfl
theorem exec_hostAtomicopCompletion (result : Option DWord) : exec (.hostAtomicopCompletion result) s = execHostAtomicopCompletion result s := rfl
theorem exec_crossbarGrant (die output : Nat) : exec (.crossbarGrant die output) s = execCrossbarGrant die output s := rfl
theorem exec_linkPortSend (die toDie : Nat) : exec (.linkPortSend die toDie) s = execLinkPortSend die toDie s := rfl
theorem exec_apertureRead (off len : Nat) : exec (.apertureRead off len) s = execApertureRead off len s := rfl
theorem exec_apertureWrite (off : Nat) (bytes : List Byte) : exec (.apertureWrite off bytes) s = execApertureWrite off bytes s := rfl
theorem exec_msixVectorUnmask (vector : Nat) : exec (.msixVectorUnmask vector) s = execMsixVectorUnmask vector s := rfl
theorem exec_engineOpBegin (core : Nat) : exec (.engineOpBegin core) s = execEngineOpBegin core s := rfl
theorem exec_engineBlockWrite (core : Nat) : exec (.engineBlockWrite core) s = execEngineBlockWrite core s := rfl
theorem exec_boArrival (core : Nat) : exec (.boArrival core) s = execBoArrival core s := rfl
theorem exec_engineComplete (core : Nat) : exec (.engineComplete core) s = execEngineComplete core s := rfl
theorem exec_matrixAdmit (core lgrp : Nat) : exec (.matrixAdmit core lgrp) s = execMatrixAdmit core lgrp s := rfl
theorem exec_matrixOpBegin (core lgrp : Nat) : exec (.matrixOpBegin core lgrp) s = execMatrixOpBegin core lgrp s := rfl
theorem exec_matrixOpEnd (core lgrp : Nat) : exec (.matrixOpEnd core lgrp) s = execMatrixOpEnd core lgrp s := rfl
theorem exec_swrCommit (core lane : Nat) : exec (.swrCommit core lane) s = execSwrCommit core lane s := rfl
theorem exec_xlinvDone (sheaf : Nat) : exec (.xlinvDone sheaf) s = execXlinvDone sheaf s := rfl
theorem exec_mxCmdFree (core : Nat) : exec (.mxCmdFree core) s = execMxCmdFree core s := rfl
theorem exec_mxCmdAdopt (core : Nat) : exec (.mxCmdAdopt core) s = execMxCmdAdopt core s := rfl
theorem exec_migrationCopyPhaseDone (page : Nat) : exec (.migrationCopyPhaseDone page) s = execMigrationCopyPhaseDone page s := rfl
theorem exec_hbmRateChange (stack : Nat) (rate : BitVec 2) : exec (.hbmRateChange stack rate) s = execHbmRateChange stack rate s := rfl
theorem exec_hbmChannelRateSwitched (stack channel : Nat) : exec (.hbmChannelRateSwitched stack channel) s = execHbmChannelRateSwitched stack channel s := rfl
theorem exec_hbmPowerDownEntry (stack pc : Nat) : exec (.hbmPowerDownEntry stack pc) s = execHbmPowerDownEntry stack pc s := rfl
theorem exec_hbmSelfRefreshEntry (stack pc : Nat) : exec (.hbmSelfRefreshEntry stack pc) s = execHbmSelfRefreshEntry stack pc s := rfl
theorem exec_hbmCrcFailure (stack channel : Nat) : exec (.hbmCrcFailure stack channel) s = execHbmCrcFailure stack channel s := rfl
theorem exec_eccErrorDetected (loc : EccLoc) (uncorrectable : Bool) : exec (.eccErrorDetected loc uncorrectable) s = execEccErrorDetected loc uncorrectable s := rfl
theorem exec_registerScrub (core : Nat) : exec (.registerScrub core) s = execRegisterScrub core s := rfl
theorem exec_expanderLinkDrop (port : Nat) : exec (.expanderLinkDrop port) s = execExpanderLinkDrop port s := rfl
theorem exec_troxiaFlitReceive (port : Nat) (flit : Flit) : exec (.troxiaFlitReceive port flit) s = execTroxiaFlitReceive port flit s := rfl
theorem exec_troxiaPortDown (port : Nat) : exec (.troxiaPortDown port) s = execTroxiaPortDown port s := rfl
theorem exec_keyRollover (port : Nat) (seq : BitVec 24) : exec (.keyRollover port seq) s = execKeyRollover port seq s := rfl
theorem exec_troxiaOldKeyErase (port : Nat) : exec (.troxiaOldKeyErase port) s = execTroxiaOldKeyErase port s := rfl
theorem exec_powerAverageUpdate (mw : Word) : exec (.powerAverageUpdate mw) s = execPowerAverageUpdate mw s := rfl
theorem exec_dieOverTemperature (die : Nat) (temp : BitVec 16) : exec (.dieOverTemperature die temp) s = execDieOverTemperature die temp s := rfl
theorem exec_engineBlockReadReturn (core : Nat) : exec (.engineBlockReadReturn core) s = execEngineBlockReadReturn core s := rfl
theorem exec_linkPortReceive (die fromDie : Nat) : exec (.linkPortReceive die fromDie) s = execLinkPortReceive die fromDie s := rfl
theorem exec_contextTeardown (asid : BitVec 16) : exec (.contextTeardown asid) s = execContextTeardown asid s := rfl
theorem exec_workgroupRestoreDone (wg : Nat) : exec (.workgroupRestoreDone wg) s = execWorkgroupRestoreDone wg s := rfl
theorem exec_hostReadCompletion (data : Option Blk) : exec (.hostReadCompletion data) s = execHostReadCompletion data s := rfl
theorem exec_expanderAccessCompletion (poisoned : Bool) : exec (.expanderAccessCompletion poisoned) s = execExpanderAccessCompletion poisoned s := rfl
theorem exec_dieTemperatureBelowLimit (die : Nat) (temp : BitVec 16) : exec (.dieTemperatureBelowLimit die temp) s = execDieTemperatureBelowLimit die temp s := rfl
theorem exec_packageReset : exec (.packageReset) s = execPackageReset s := rfl
theorem exec_manifestCheck : exec (.manifestCheck) s = execManifestCheck s := rfl
theorem exec_recoveryCheckAndStore : exec (.recoveryCheckAndStore) s = execRecoveryCheckAndStore s := rfl
theorem exec_recoverySetChecked : exec (.recoverySetChecked) s = execRecoverySetChecked s := rfl
theorem exec_recoveryResetRequest : exec (.recoveryResetRequest) s = execRecoveryResetRequest s := rfl
theorem exec_hostPortLinkUp : exec (.hostPortLinkUp) s = execHostPortLinkUp s := rfl
theorem exec_transitionGraceExpiry : exec (.transitionGraceExpiry) s = execTransitionGraceExpiry s := rfl
theorem exec_transitionFinish : exec (.transitionFinish) s = execTransitionFinish s := rfl
theorem exec_heap14Restore : exec (.heap14Restore) s = execHeap14Restore s := rfl
theorem exec_homeWrite : exec (.homeWrite) s = execHomeWrite s := rfl
theorem exec_writeAck : exec (.writeAck) s = execWriteAck s := rfl
theorem exec_sliceMarker : exec (.sliceMarker) s = execSliceMarker s := rfl
theorem exec_faultRecordTimer : exec (.faultRecordTimer) s = execFaultRecordTimer s := rfl
theorem exec_faultQueueRoom : exec (.faultQueueRoom) s = execFaultQueueRoom s := rfl
theorem exec_homeAtomic : exec (.homeAtomic) s = execHomeAtomic s := rfl
theorem exec_hostFlushReadComplete : exec (.hostFlushReadComplete) s = execHostFlushReadComplete s := rfl
theorem exec_troxiaPodMarker : exec (.troxiaPodMarker) s = execTroxiaPodMarker s := rfl
theorem exec_hostPostedWrite : exec (.hostPostedWrite) s = execHostPostedWrite s := rfl
theorem exec_alTakeAtDie : exec (.alTakeAtDie) s = execAlTakeAtDie s := rfl
theorem exec_alTakeAtHome : exec (.alTakeAtHome) s = execAlTakeAtHome s := rfl
theorem exec_alGrant : exec (.alGrant) s = execAlGrant s := rfl
theorem exec_alRecall : exec (.alRecall) s = execAlRecall s := rfl
theorem exec_alReturn : exec (.alReturn) s = execAlReturn s := rfl
theorem exec_alGiveForward : exec (.alGiveForward) s = execAlGiveForward s := rfl
theorem exec_alPoison : exec (.alPoison) s = execAlPoison s := rfl
theorem exec_alAnswer : exec (.alAnswer) s = execAlAnswer s := rfl
theorem exec_evsigRequest : exec (.evsigRequest) s = execEvsigRequest s := rfl
theorem exec_ctxsvRequest : exec (.ctxsvRequest) s = execCtxsvRequest s := rfl
theorem exec_ctxldRequest : exec (.ctxldRequest) s = execCtxldRequest s := rfl
theorem exec_hubStatusReturn : exec (.hubStatusReturn) s = execHubStatusReturn s := rfl
theorem exec_trackingPeriodEnd : exec (.trackingPeriodEnd) s = execTrackingPeriodEnd s := rfl
theorem exec_expanderAccessTimeout : exec (.expanderAccessTimeout) s = execExpanderAccessTimeout s := rfl
theorem exec_homeRead : exec (.homeRead) s = execHomeRead s := rfl
theorem exec_remoteStoreAck : exec (.remoteStoreAck) s = execRemoteStoreAck s := rfl
theorem exec_alreadAlcloseAtHome : exec (.alreadAlcloseAtHome) s = execAlreadAlcloseAtHome s := rfl
end

theorem laneOp_general (s : State) (i : Instr) (o : Ops) (g : LaneIn → DWord) :
    ∃ h : Ctx → Form → State, laneOp s i o g = runGeneral s i h := ⟨_, rfl⟩

theorem crossOp_general (s : State) (i : Instr) (o : Ops) (g : TMask → (Nat → LaneIn) → Nat → DWord) :
    ∃ h : Ctx → Form → State, crossOp s i o g = runGeneral s i h := ⟨_, rfl⟩

section
variable (o : Ops) (s : State)
theorem execNop_general : ∃ h : Ctx → Form → State, execNop o s = runGeneral s (.nop o) h := ⟨_, rfl⟩
theorem execBrx_general : ∃ h : Ctx → Form → State, execBrx o s = runGeneral s (.brx o) h := ⟨_, rfl⟩
theorem execCallx_general : ∃ h : Ctx → Form → State, execCallx o s = runGeneral s (.callx o) h := ⟨_, rfl⟩
theorem execRet_general : ∃ h : Ctx → Form → State, execRet o s = runGeneral s (.ret o) h := ⟨_, rfl⟩
theorem execExit_general : ∃ h : Ctx → Form → State, execExit o s = runGeneral s (.exit o) h := ⟨_, rfl⟩
theorem execYield_general : ∃ h : Ctx → Form → State, execYield o s = runGeneral s (.yield o) h := ⟨_, rfl⟩
theorem execSleep_general : ∃ h : Ctx → Form → State, execSleep o s = runGeneral s (.sleep o) h := ⟨_, rfl⟩
theorem execBrk_general : ∃ h : Ctx → Form → State, execBrk o s = runGeneral s (.brk o) h := ⟨_, rfl⟩
theorem execTrap_general : ∃ h : Ctx → Form → State, execTrap o s = runGeneral s (.trap o) h := ⟨_, rfl⟩
theorem execCfetch_general : ∃ h : Ctx → Form → State, execCfetch o s = runGeneral s (.cfetch o) h := ⟨_, rfl⟩
theorem execCpin_general : ∃ h : Ctx → Form → State, execCpin o s = runGeneral s (.cpin o) h := ⟨_, rfl⟩
theorem execCunpin_general : ∃ h : Ctx → Form → State, execCunpin o s = runGeneral s (.cunpin o) h := ⟨_, rfl⟩
theorem execIadd_general : ∃ h : Ctx → Form → State, execIadd o s = runGeneral s (.iadd o) h := laneOp_general s _ _ _
theorem execIsub_general : ∃ h : Ctx → Form → State, execIsub o s = runGeneral s (.isub o) h := laneOp_general s _ _ _
theorem execIsum3_general : ∃ h : Ctx → Form → State, execIsum3 o s = runGeneral s (.isum3 o) h := laneOp_general s _ _ _
theorem execImul_general : ∃ h : Ctx → Form → State, execImul o s = runGeneral s (.imul o) h := laneOp_general s _ _ _
theorem execImulh_general : ∃ h : Ctx → Form → State, execImulh o s = runGeneral s (.imulh o) h := laneOp_general s _ _ _
theorem execImac_general : ∃ h : Ctx → Form → State, execImac o s = runGeneral s (.imac o) h := laneOp_general s _ _ _
theorem execImacw_general : ∃ h : Ctx → Form → State, execImacw o s = runGeneral s (.imacw o) h := laneOp_general s _ _ _
theorem execIadd64_general : ∃ h : Ctx → Form → State, execIadd64 o s = runGeneral s (.iadd64 o) h := laneOp_general s _ _ _
theorem execIsub64_general : ∃ h : Ctx → Form → State, execIsub64 o s = runGeneral s (.isub64 o) h := laneOp_general s _ _ _
theorem execImin_general : ∃ h : Ctx → Form → State, execImin o s = runGeneral s (.imin o) h := laneOp_general s _ _ _
theorem execImax_general : ∃ h : Ctx → Form → State, execImax o s = runGeneral s (.imax o) h := laneOp_general s _ _ _
theorem execIabs_general : ∃ h : Ctx → Form → State, execIabs o s = runGeneral s (.iabs o) h := laneOp_general s _ _ _
theorem execLea_general : ∃ h : Ctx → Form → State, execLea o s = runGeneral s (.lea o) h := laneOp_general s _ _ _
theorem execLea64_general : ∃ h : Ctx → Form → State, execLea64 o s = runGeneral s (.lea64 o) h := laneOp_general s _ _ _
theorem execIdot4_general : ∃ h : Ctx → Form → State, execIdot4 o s = runGeneral s (.idot4 o) h := laneOp_general s _ _ _
theorem execIdot2_general : ∃ h : Ctx → Form → State, execIdot2 o s = runGeneral s (.idot2 o) h := laneOp_general s _ _ _
theorem execAnd_general : ∃ h : Ctx → Form → State, execAnd o s = runGeneral s (.and o) h := laneOp_general s _ _ _
theorem execOr_general : ∃ h : Ctx → Form → State, execOr o s = runGeneral s (.or o) h := laneOp_general s _ _ _
theorem execXor_general : ∃ h : Ctx → Form → State, execXor o s = runGeneral s (.xor o) h := laneOp_general s _ _ _
theorem execAndn_general : ∃ h : Ctx → Form → State, execAndn o s = runGeneral s (.andn o) h := laneOp_general s _ _ _
theorem execLsel_general : ∃ h : Ctx → Form → State, execLsel o s = runGeneral s (.lsel o) h := laneOp_general s _ _ _
theorem execShl_general : ∃ h : Ctx → Form → State, execShl o s = runGeneral s (.shl o) h := laneOp_general s _ _ _
theorem execShr_general : ∃ h : Ctx → Form → State, execShr o s = runGeneral s (.shr o) h := laneOp_general s _ _ _
theorem execRot_general : ∃ h : Ctx → Form → State, execRot o s = runGeneral s (.rot o) h := laneOp_general s _ _ _
theorem execShd_general : ∃ h : Ctx → Form → State, execShd o s = runGeneral s (.shd o) h := laneOp_general s _ _ _
theorem execPopc_general : ∃ h : Ctx → Form → State, execPopc o s = runGeneral s (.popc o) h := laneOp_general s _ _ _
theorem execClz_general : ∃ h : Ctx → Form → State, execClz o s = runGeneral s (.clz o) h := laneOp_general s _ _ _
theorem execBrev_general : ∃ h : Ctx → Form → State, execBrev o s = runGeneral s (.brev o) h := laneOp_general s _ _ _
theorem execXfld_general : ∃ h : Ctx → Form → State, execXfld o s = runGeneral s (.xfld o) h := laneOp_general s _ _ _
theorem execIfld_general : ∃ h : Ctx → Form → State, execIfld o s = runGeneral s (.ifld o) h := laneOp_general s _ _ _
theorem execBmux_general : ∃ h : Ctx → Form → State, execBmux o s = runGeneral s (.bmux o) h := laneOp_general s _ _ _
theorem execClmul_general : ∃ h : Ctx → Form → State, execClmul o s = runGeneral s (.clmul o) h := laneOp_general s _ _ _
theorem execIcmp_general : ∃ h : Ctx → Form → State, execIcmp o s = runGeneral s (.icmp o) h := laneOp_general s _ _ _
theorem execFcmp_general : ∃ h : Ctx → Form → State, execFcmp o s = runGeneral s (.fcmp o) h := laneOp_general s _ _ _
theorem execSel_general : ∃ h : Ctx → Form → State, execSel o s = runGeneral s (.sel o) h := laneOp_general s _ _ _
theorem execMov_general : ∃ h : Ctx → Form → State, execMov o s = runGeneral s (.mov o) h := laneOp_general s _ _ _
theorem execMovi_general : ∃ h : Ctx → Form → State, execMovi o s = runGeneral s (.movi o) h := laneOp_general s _ _ _
theorem execMovs_general : ∃ h : Ctx → Form → State, execMovs o s = runGeneral s (.movs o) h := ⟨_, rfl⟩
theorem execMov64_general : ∃ h : Ctx → Form → State, execMov64 o s = runGeneral s (.mov64 o) h := laneOp_general s _ _ _
theorem execIcmp64_general : ∃ h : Ctx → Form → State, execIcmp64 o s = runGeneral s (.icmp64 o) h := laneOp_general s _ _ _
theorem execFadd_general : ∃ h : Ctx → Form → State, execFadd o s = runGeneral s (.fadd o) h := laneOp_general s _ _ _
theorem execFmul_general : ∃ h : Ctx → Form → State, execFmul o s = runGeneral s (.fmul o) h := laneOp_general s _ _ _
theorem execFfma_general : ∃ h : Ctx → Form → State, execFfma o s = runGeneral s (.ffma o) h := laneOp_general s _ _ _
theorem execFmin_general : ∃ h : Ctx → Form → State, execFmin o s = runGeneral s (.fmin o) h := laneOp_general s _ _ _
theorem execFmax_general : ∃ h : Ctx → Form → State, execFmax o s = runGeneral s (.fmax o) h := laneOp_general s _ _ _
theorem execFrnd_general : ∃ h : Ctx → Form → State, execFrnd o s = runGeneral s (.frnd o) h := laneOp_general s _ _ _
theorem execFfrc_general : ∃ h : Ctx → Form → State, execFfrc o s = runGeneral s (.ffrc o) h := laneOp_general s _ _ _
theorem execFscl_general : ∃ h : Ctx → Form → State, execFscl o s = runGeneral s (.fscl o) h := laneOp_general s _ _ _
theorem execFrcp_general : ∃ h : Ctx → Form → State, execFrcp o s = runGeneral s (.frcp o) h := laneOp_general s _ _ _
theorem execFrsq_general : ∃ h : Ctx → Form → State, execFrsq o s = runGeneral s (.frsq o) h := laneOp_general s _ _ _
theorem execFsqrt_general : ∃ h : Ctx → Form → State, execFsqrt o s = runGeneral s (.fsqrt o) h := laneOp_general s _ _ _
theorem execFdiv_general : ∃ h : Ctx → Form → State, execFdiv o s = runGeneral s (.fdiv o) h := laneOp_general s _ _ _
theorem execFex2_general : ∃ h : Ctx → Form → State, execFex2 o s = runGeneral s (.fex2 o) h := laneOp_general s _ _ _
theorem execFlg2_general : ∃ h : Ctx → Form → State, execFlg2 o s = runGeneral s (.flg2 o) h := laneOp_general s _ _ _
theorem execFsin_general : ∃ h : Ctx → Form → State, execFsin o s = runGeneral s (.fsin o) h := laneOp_general s _ _ _
theorem execFcos_general : ∃ h : Ctx → Form → State, execFcos o s = runGeneral s (.fcos o) h := laneOp_general s _ _ _
theorem execHadd2_general : ∃ h : Ctx → Form → State, execHadd2 o s = runGeneral s (.hadd2 o) h := laneOp_general s _ _ _
theorem execHmul2_general : ∃ h : Ctx → Form → State, execHmul2 o s = runGeneral s (.hmul2 o) h := laneOp_general s _ _ _
theorem execHfma2_general : ∃ h : Ctx → Form → State, execHfma2 o s = runGeneral s (.hfma2 o) h := laneOp_general s _ _ _
theorem execHmin2_general : ∃ h : Ctx → Form → State, execHmin2 o s = runGeneral s (.hmin2 o) h := laneOp_general s _ _ _
theorem execHmax2_general : ∃ h : Ctx → Form → State, execHmax2 o s = runGeneral s (.hmax2 o) h := laneOp_general s _ _ _
theorem execFdp2_general : ∃ h : Ctx → Form → State, execFdp2 o s = runGeneral s (.fdp2 o) h := laneOp_general s _ _ _
theorem execFdp4_general : ∃ h : Ctx → Form → State, execFdp4 o s = runGeneral s (.fdp4 o) h := laneOp_general s _ _ _
theorem execF2i_general : ∃ h : Ctx → Form → State, execF2i o s = runGeneral s (.f2i o) h := laneOp_general s _ _ _
theorem execI2f_general : ∃ h : Ctx → Form → State, execI2f o s = runGeneral s (.i2f o) h := laneOp_general s _ _ _
theorem execF2f_general : ∃ h : Ctx → Form → State, execF2f o s = runGeneral s (.f2f o) h := laneOp_general s _ _ _
theorem execCvpk_general : ∃ h : Ctx → Form → State, execCvpk o s = runGeneral s (.cvpk o) h := laneOp_general s _ _ _
theorem execCvup_general : ∃ h : Ctx → Form → State, execCvup o s = runGeneral s (.cvup o) h := laneOp_general s _ _ _
theorem execDsenc_general : ∃ h : Ctx → Form → State, execDsenc o s = runGeneral s (.dsenc o) h := laneOp_general s _ _ _
theorem execDsdec_general : ∃ h : Ctx → Form → State, execDsdec o s = runGeneral s (.dsdec o) h := laneOp_general s _ _ _
theorem execRelay_general : ∃ h : Ctx → Form → State, execRelay o s = runGeneral s (.relay o) h := crossOp_general s _ _ _
theorem execPoll_general : ∃ h : Ctx → Form → State, execPoll o s = runGeneral s (.poll o) h := crossOp_general s _ _ _
theorem execSred_general : ∃ h : Ctx → Form → State, execSred o s = runGeneral s (.sred o) h := crossOp_general s _ _ _
theorem execSscan_general : ∃ h : Ctx → Form → State, execSscan o s = runGeneral s (.sscan o) h := crossOp_general s _ _ _
theorem execMatchv_general : ∃ h : Ctx → Form → State, execMatchv o s = runGeneral s (.matchv o) h := crossOp_general s _ _ _
theorem execFirstv_general : ∃ h : Ctx → Form → State, execFirstv o s = runGeneral s (.firstv o) h := crossOp_general s _ _ _
theorem execLd_general : ∃ h : Ctx → Form → State, execLd o s = runGeneral s (.ld o) h := ⟨_, rfl⟩
theorem execSt_general : ∃ h : Ctx → Form → State, execSt o s = runGeneral s (.st o) h := ⟨_, rfl⟩
theorem execLdb_general : ∃ h : Ctx → Form → State, execLdb o s = runGeneral s (.ldb o) h := ⟨_, rfl⟩
theorem execStb_general : ∃ h : Ctx → Form → State, execStb o s = runGeneral s (.stb o) h := ⟨_, rfl⟩
theorem execLdtg_general : ∃ h : Ctx → Form → State, execLdtg o s = runGeneral s (.ldtg o) h := ⟨_, rfl⟩
theorem execSttg_general : ∃ h : Ctx → Form → State, execSttg o s = runGeneral s (.sttg o) h := ⟨_, rfl⟩
theorem execTagrd_general : ∃ h : Ctx → Form → State, execTagrd o s = runGeneral s (.tagrd o) h := ⟨_, rfl⟩
theorem execTagwr_general : ∃ h : Ctx → Form → State, execTagwr o s = runGeneral s (.tagwr o) h := ⟨_, rfl⟩
theorem execPref_general : ∃ h : Ctx → Form → State, execPref o s = runGeneral s (.pref o) h := ⟨_, rfl⟩
theorem execCctl_general : ∃ h : Ctx → Form → State, execCctl o s = runGeneral s (.cctl o) h := ⟨_, rfl⟩
theorem execAtom_general : ∃ h : Ctx → Form → State, execAtom o s = runGeneral s (.atom o) h := ⟨_, rfl⟩
theorem execAtom64_general : ∃ h : Ctx → Form → State, execAtom64 o s = runGeneral s (.atom64 o) h := ⟨_, rfl⟩
theorem execCas_general : ∃ h : Ctx → Form → State, execCas o s = runGeneral s (.cas o) h := ⟨_, rfl⟩
theorem execCas64_general : ∃ h : Ctx → Form → State, execCas64 o s = runGeneral s (.cas64 o) h := ⟨_, rfl⟩
theorem execFatom_general : ∃ h : Ctx → Form → State, execFatom o s = runGeneral s (.fatom o) h := ⟨_, rfl⟩
theorem execHatom2_general : ∃ h : Ctx → Form → State, execHatom2 o s = runGeneral s (.hatom2 o) h := ⟨_, rfl⟩
theorem execRed_general : ∃ h : Ctx → Form → State, execRed o s = runGeneral s (.red o) h := ⟨_, rfl⟩
theorem execFred_general : ∃ h : Ctx → Form → State, execFred o s = runGeneral s (.fred o) h := ⟨_, rfl⟩
theorem execCpy_general : ∃ h : Ctx → Form → State, execCpy o s = runGeneral s (.cpy o) h := ⟨_, rfl⟩
theorem execGath_general : ∃ h : Ctx → Form → State, execGath o s = runGeneral s (.gath o) h := ⟨_, rfl⟩
theorem execBags_general : ∃ h : Ctx → Form → State, execBags o s = runGeneral s (.bags o) h := ⟨_, rfl⟩
theorem execScad_general : ∃ h : Ctx → Form → State, execScad o s = runGeneral s (.scad o) h := ⟨_, rfl⟩
theorem execFill_general : ∃ h : Ctx → Form → State, execFill o s = runGeneral s (.fill o) h := ⟨_, rfl⟩
theorem execWaitc_general : ∃ h : Ctx → Form → State, execWaitc o s = runGeneral s (.waitc o) h := ⟨_, rfl⟩
theorem execCntrd_general : ∃ h : Ctx → Form → State, execCntrd o s = runGeneral s (.cntrd o) h := ⟨_, rfl⟩
theorem execSclaim_general : ∃ h : Ctx → Form → State, execSclaim o s = runGeneral s (.sclaim o) h := ⟨_, rfl⟩
theorem execSrel_general : ∃ h : Ctx → Form → State, execSrel o s = runGeneral s (.srel o) h := ⟨_, rfl⟩
theorem execSwr_general : ∃ h : Ctx → Form → State, execSwr o s = runGeneral s (.swr o) h := ⟨_, rfl⟩
theorem execSrd_general : ∃ h : Ctx → Form → State, execSrd o s = runGeneral s (.srd o) h := ⟨_, rfl⟩
theorem execAclaim_general : ∃ h : Ctx → Form → State, execAclaim o s = runGeneral s (.aclaim o) h := ⟨_, rfl⟩
theorem execArel_general : ∃ h : Ctx → Form → State, execArel o s = runGeneral s (.arel o) h := ⟨_, rfl⟩
theorem execMma_general : ∃ h : Ctx → Form → State, execMma o s = runGeneral s (.mma o) h := ⟨_, rfl⟩
theorem execAclr_general : ∃ h : Ctx → Form → State, execAclr o s = runGeneral s (.aclr o) h := ⟨_, rfl⟩
theorem execArd_general : ∃ h : Ctx → Form → State, execArd o s = runGeneral s (.ard o) h := ⟨_, rfl⟩
theorem execAwr_general : ∃ h : Ctx → Form → State, execAwr o s = runGeneral s (.awr o) h := ⟨_, rfl⟩
theorem execAop_general : ∃ h : Ctx → Form → State, execAop o s = runGeneral s (.aop o) h := ⟨_, rfl⟩
theorem execAdrn_general : ∃ h : Ctx → Form → State, execAdrn o s = runGeneral s (.adrn o) h := ⟨_, rfl⟩
theorem execFence_general : ∃ h : Ctx → Form → State, execFence o s = runGeneral s (.fence o) h := ⟨_, rfl⟩
theorem execBar_general : ∃ h : Ctx → Form → State, execBar o s = runGeneral s (.bar o) h := ⟨_, rfl⟩
theorem execBara_general : ∃ h : Ctx → Form → State, execBara o s = runGeneral s (.bara o) h := ⟨_, rfl⟩
theorem execBarw_general : ∃ h : Ctx → Form → State, execBarw o s = runGeneral s (.barw o) h := ⟨_, rfl⟩
theorem execBoinit_general : ∃ h : Ctx → Form → State, execBoinit o s = runGeneral s (.boinit o) h := ⟨_, rfl⟩
theorem execBoexp_general : ∃ h : Ctx → Form → State, execBoexp o s = runGeneral s (.boexp o) h := ⟨_, rfl⟩
theorem execBoarr_general : ∃ h : Ctx → Form → State, execBoarr o s = runGeneral s (.boarr o) h := ⟨_, rfl⟩
theorem execBowait_general : ∃ h : Ctx → Form → State, execBowait o s = runGeneral s (.bowait o) h := ⟨_, rfl⟩
theorem execAlinit_general : ∃ h : Ctx → Form → State, execAlinit o s = runGeneral s (.alinit o) h := ⟨_, rfl⟩
theorem execAltake_general : ∃ h : Ctx → Form → State, execAltake o s = runGeneral s (.altake o) h := ⟨_, rfl⟩
theorem execAlgive_general : ∃ h : Ctx → Form → State, execAlgive o s = runGeneral s (.algive o) h := ⟨_, rfl⟩
theorem execAlread_general : ∃ h : Ctx → Form → State, execAlread o s = runGeneral s (.alread o) h := ⟨_, rfl⟩
theorem execAlpeek_general : ∃ h : Ctx → Form → State, execAlpeek o s = runGeneral s (.alpeek o) h := ⟨_, rfl⟩
theorem execAlclose_general : ∃ h : Ctx → Form → State, execAlclose o s = runGeneral s (.alclose o) h := ⟨_, rfl⟩
theorem execLaunch_general : ∃ h : Ctx → Form → State, execLaunch o s = runGeneral s (.launch o) h := ⟨_, rfl⟩
theorem execNdec_general : ∃ h : Ctx → Form → State, execNdec o s = runGeneral s (.ndec o) h := ⟨_, rfl⟩
theorem execEvsig_general : ∃ h : Ctx → Form → State, execEvsig o s = runGeneral s (.evsig o) h := ⟨_, rfl⟩
theorem execCsrrd_general : ∃ h : Ctx → Form → State, execCsrrd o s = runGeneral s (.csrrd o) h := ⟨_, rfl⟩
theorem execCsrwr_general : ∃ h : Ctx → Form → State, execCsrwr o s = runGeneral s (.csrwr o) h := ⟨_, rfl⟩
theorem execTret_general : ∃ h : Ctx → Form → State, execTret o s = runGeneral s (.tret o) h := ⟨_, rfl⟩
theorem execCtxsv_general : ∃ h : Ctx → Form → State, execCtxsv o s = runGeneral s (.ctxsv o) h := ⟨_, rfl⟩
theorem execCtxld_general : ∃ h : Ctx → Form → State, execCtxld o s = runGeneral s (.ctxld o) h := ⟨_, rfl⟩
theorem execXlinv_general : ∃ h : Ctx → Form → State, execXlinv o s = runGeneral s (.xlinv o) h := ⟨_, rfl⟩
end

/-- Every general-form instruction passes the checks of `runGeneral` before its effect. -/
theorem exec_general {i : Instr} {o : Ops} {f : Form} (h : i.form = some (o, f)) (s : State) :
    ∃ g : Ctx → Form → State, exec i s = runGeneral s i g := by
  cases i with
  | nop o => exact execNop_general o s
  | brx o => exact execBrx_general o s
  | callx o => exact execCallx_general o s
  | ret o => exact execRet_general o s
  | exit o => exact execExit_general o s
  | yield o => exact execYield_general o s
  | sleep o => exact execSleep_general o s
  | brk o => exact execBrk_general o s
  | trap o => exact execTrap_general o s
  | cfetch o => exact execCfetch_general o s
  | cpin o => exact execCpin_general o s
  | cunpin o => exact execCunpin_general o s
  | iadd o => exact execIadd_general o s
  | isub o => exact execIsub_general o s
  | isum3 o => exact execIsum3_general o s
  | imul o => exact execImul_general o s
  | imulh o => exact execImulh_general o s
  | imac o => exact execImac_general o s
  | imacw o => exact execImacw_general o s
  | iadd64 o => exact execIadd64_general o s
  | isub64 o => exact execIsub64_general o s
  | imin o => exact execImin_general o s
  | imax o => exact execImax_general o s
  | iabs o => exact execIabs_general o s
  | lea o => exact execLea_general o s
  | lea64 o => exact execLea64_general o s
  | idot4 o => exact execIdot4_general o s
  | idot2 o => exact execIdot2_general o s
  | and o => exact execAnd_general o s
  | or o => exact execOr_general o s
  | xor o => exact execXor_general o s
  | andn o => exact execAndn_general o s
  | lsel o => exact execLsel_general o s
  | shl o => exact execShl_general o s
  | shr o => exact execShr_general o s
  | rot o => exact execRot_general o s
  | shd o => exact execShd_general o s
  | popc o => exact execPopc_general o s
  | clz o => exact execClz_general o s
  | brev o => exact execBrev_general o s
  | xfld o => exact execXfld_general o s
  | ifld o => exact execIfld_general o s
  | bmux o => exact execBmux_general o s
  | clmul o => exact execClmul_general o s
  | icmp o => exact execIcmp_general o s
  | fcmp o => exact execFcmp_general o s
  | sel o => exact execSel_general o s
  | mov o => exact execMov_general o s
  | movi o => exact execMovi_general o s
  | movs o => exact execMovs_general o s
  | mov64 o => exact execMov64_general o s
  | icmp64 o => exact execIcmp64_general o s
  | fadd o => exact execFadd_general o s
  | fmul o => exact execFmul_general o s
  | ffma o => exact execFfma_general o s
  | fmin o => exact execFmin_general o s
  | fmax o => exact execFmax_general o s
  | frnd o => exact execFrnd_general o s
  | ffrc o => exact execFfrc_general o s
  | fscl o => exact execFscl_general o s
  | frcp o => exact execFrcp_general o s
  | frsq o => exact execFrsq_general o s
  | fsqrt o => exact execFsqrt_general o s
  | fdiv o => exact execFdiv_general o s
  | fex2 o => exact execFex2_general o s
  | flg2 o => exact execFlg2_general o s
  | fsin o => exact execFsin_general o s
  | fcos o => exact execFcos_general o s
  | hadd2 o => exact execHadd2_general o s
  | hmul2 o => exact execHmul2_general o s
  | hfma2 o => exact execHfma2_general o s
  | hmin2 o => exact execHmin2_general o s
  | hmax2 o => exact execHmax2_general o s
  | fdp2 o => exact execFdp2_general o s
  | fdp4 o => exact execFdp4_general o s
  | f2i o => exact execF2i_general o s
  | i2f o => exact execI2f_general o s
  | f2f o => exact execF2f_general o s
  | cvpk o => exact execCvpk_general o s
  | cvup o => exact execCvup_general o s
  | dsenc o => exact execDsenc_general o s
  | dsdec o => exact execDsdec_general o s
  | relay o => exact execRelay_general o s
  | poll o => exact execPoll_general o s
  | sred o => exact execSred_general o s
  | sscan o => exact execSscan_general o s
  | matchv o => exact execMatchv_general o s
  | firstv o => exact execFirstv_general o s
  | ld o => exact execLd_general o s
  | st o => exact execSt_general o s
  | ldb o => exact execLdb_general o s
  | stb o => exact execStb_general o s
  | ldtg o => exact execLdtg_general o s
  | sttg o => exact execSttg_general o s
  | tagrd o => exact execTagrd_general o s
  | tagwr o => exact execTagwr_general o s
  | pref o => exact execPref_general o s
  | cctl o => exact execCctl_general o s
  | atom o => exact execAtom_general o s
  | atom64 o => exact execAtom64_general o s
  | cas o => exact execCas_general o s
  | cas64 o => exact execCas64_general o s
  | fatom o => exact execFatom_general o s
  | hatom2 o => exact execHatom2_general o s
  | red o => exact execRed_general o s
  | fred o => exact execFred_general o s
  | cpy o => exact execCpy_general o s
  | gath o => exact execGath_general o s
  | bags o => exact execBags_general o s
  | scad o => exact execScad_general o s
  | fill o => exact execFill_general o s
  | waitc o => exact execWaitc_general o s
  | cntrd o => exact execCntrd_general o s
  | sclaim o => exact execSclaim_general o s
  | srel o => exact execSrel_general o s
  | swr o => exact execSwr_general o s
  | srd o => exact execSrd_general o s
  | aclaim o => exact execAclaim_general o s
  | arel o => exact execArel_general o s
  | mma o => exact execMma_general o s
  | aclr o => exact execAclr_general o s
  | ard o => exact execArd_general o s
  | awr o => exact execAwr_general o s
  | aop o => exact execAop_general o s
  | adrn o => exact execAdrn_general o s
  | fence o => exact execFence_general o s
  | bar o => exact execBar_general o s
  | bara o => exact execBara_general o s
  | barw o => exact execBarw_general o s
  | boinit o => exact execBoinit_general o s
  | boexp o => exact execBoexp_general o s
  | boarr o => exact execBoarr_general o s
  | bowait o => exact execBowait_general o s
  | alinit o => exact execAlinit_general o s
  | altake o => exact execAltake_general o s
  | algive o => exact execAlgive_general o s
  | alread o => exact execAlread_general o s
  | alpeek o => exact execAlpeek_general o s
  | alclose o => exact execAlclose_general o s
  | launch o => exact execLaunch_general o s
  | ndec o => exact execNdec_general o s
  | evsig o => exact execEvsig_general o s
  | csrrd o => exact execCsrrd_general o s
  | csrwr o => exact execCsrwr_general o s
  | tret o => exact execTret_general o s
  | ctxsv o => exact execCtxsv_general o s
  | ctxld o => exact execCtxld_general o s
  | xlinv o => exact execXlinv_general o s
  | _ => simp [Instr.form] at h

/-- Every branch-form instruction passes the checks of `runBranch` before its effect. -/
theorem exec_branch {i : Instr} {o : BrOps} (h : i.branch = some o) (s : State) :
    ∃ g : Ctx → State, exec i s = runBranch s i o g := by
  cases i with
  | bra x => simp only [Instr.branch, Option.some.injEq] at h; subst h; exact (⟨_, rfl⟩ : ∃ g, execBra x s = runBranch s (.bra x) x g)
  | brc x => simp only [Instr.branch, Option.some.injEq] at h; subst h; exact (⟨_, rfl⟩ : ∃ g, execBrc x s = runBranch s (.brc x) x g)
  | call x => simp only [Instr.branch, Option.some.injEq] at h; subst h; exact (⟨_, rfl⟩ : ∃ g, execCall x s = runBranch s (.call x) x g)
  | _ => simp [Instr.branch] at h

end Sys2Proof.Machine
end

