-- ==== Sys2Proof/Laws/Map.lean ====
section
/-! SUPPORT. Laws of the sparse maps: reading what was written, and the canonical form. -/

namespace Sys2Proof.Machine

/-! Reading what was written. -/

/-- A read of the key just written. -/
@[simp] theorem mapFind_insert_self {α : Type} (m : Map α) (i : Nat) (x : α) : mapFind (mapInsert m i x) i = some x := by
  induction m with
  | nil => simp [mapInsert, mapFind]
  | cons e rest ih =>
    obtain ⟨k, v⟩ := e
    simp only [mapInsert]
    split
    · simp [mapFind]
    · next h1 =>
      split
      · simp [mapFind]
      · simp [mapFind, h1, ih]

/-- A write leaves every other key alone. -/
theorem mapFind_insert_ne {α : Type} (m : Map α) {i j : Nat} (x : α) (h : j ≠ i) : mapFind (mapInsert m i x) j = mapFind m j := by
  have hji : (j == i) = false := by simpa using h
  induction m with
  | nil => simp [mapInsert, mapFind, hji]
  | cons e rest ih =>
    obtain ⟨k, v⟩ := e
    simp only [mapInsert]
    split
    · next h1 =>
      have h1 : i = k := by simpa using h1
      subst h1
      simp [mapFind, hji]
    · split
      · simp [mapFind, hji]
      · simp only [mapFind, ih]

/-- Two writes of one key: the later one stays. -/
@[simp] theorem mapInsert_insert {α : Type} (m : Map α) (i : Nat) (x y : α) : mapInsert (mapInsert m i x) i y = mapInsert m i y := by
  induction m with
  | nil => simp [mapInsert]
  | cons e rest ih =>
    obtain ⟨k, v⟩ := e
    simp only [mapInsert]
    split
    · simp [mapInsert]
    · next h1 =>
      split
      · simp [mapInsert]
      · next h2 => simp [mapInsert, h1, h2, ih]

@[simp] theorem mapFind_erase_self {α : Type} (m : Map α) (i : Nat) : mapFind (mapErase m i) i = none := by
  induction m with
  | nil => rfl
  | cons e rest ih =>
    obtain ⟨k, v⟩ := e
    unfold mapErase at ih ⊢
    by_cases h : k = i
    · simp [h, ih]
    · have h' : (i == k) = false := by simpa using fun e => h e.symm
      simp [h, mapFind, h', ih]

theorem mapFind_erase_ne {α : Type} (m : Map α) {i j : Nat} (h : j ≠ i) : mapFind (mapErase m i) j = mapFind m j := by
  induction m with
  | nil => rfl
  | cons e rest ih =>
    obtain ⟨k, v⟩ := e
    unfold mapErase at ih ⊢
    by_cases h1 : k = i
    · have h2 : (j == k) = false := by simpa [h1] using h
      simp [h1] at ih ⊢
      simpa [mapFind, h1, h] using ih
    · simp [h1, mapFind, ih]

/-- A read of the key just written. -/
@[simp] theorem mapGetD_putD_self {α : Type} [DecidableEq α] (m : Map α) (i : Nat) (x d : α) : mapGetD (mapPutD m i x d) i d = x := by
  unfold mapGetD mapPutD
  split
  · next h => simp [h]
  · simp

/-- A write leaves every other key alone. -/
theorem mapGetD_putD_ne {α : Type} [DecidableEq α] (m : Map α) {i j : Nat} (x d e : α) (h : j ≠ i) :
    mapGetD (mapPutD m i x d) j e = mapGetD m j e := by
  unfold mapGetD mapPutD
  split
  · rw [mapFind_erase_ne m h]
  · rw [mapFind_insert_ne m x h]

/-- A value changed where it is listed. -/
theorem mapModify_eq {α : Type} {m : Map α} {i : Nat} {v : α} (f : α → α) (h : mapFind m i = some v) :
    mapModify m i f = mapInsert m i (f v) := by
  simp [mapModify, h]

/-! The canonical form. -/

theorem mapSortedFrom_mono {α : Type} {m : Map α} {a b : Nat} (h : a ≤ b) (hm : mapSortedFrom b m = true) :
    mapSortedFrom a m = true := by
  cases m with
  | nil => rfl
  | cons x rest =>
    simp only [mapSortedFrom, Bool.and_eq_true, decide_eq_true_eq] at hm ⊢
    exact ⟨by omega, hm.2⟩

theorem mapSortedFrom_insert {α : Type} {m : Map α} {lo i : Nat} (x : α) (hm : mapSortedFrom lo m = true) (hi : lo ≤ i) :
    mapSortedFrom lo (mapInsert m i x) = true := by
  induction m generalizing lo with
  | nil => simp [mapInsert, mapSortedFrom, hi]
  | cons e rest ih =>
    obtain ⟨k, v⟩ := e
    simp only [mapSortedFrom, Bool.and_eq_true, decide_eq_true_eq] at hm
    simp only [mapInsert]
    split
    · next h1 =>
      have h1 : i = k := by simpa using h1
      subst h1
      simp [mapSortedFrom, hm.1, hm.2]
    · next h1 =>
      have h1 : i ≠ k := by simpa using h1
      split
      · next h2 => simp only [mapSortedFrom, Bool.and_eq_true, decide_eq_true_eq]; exact ⟨hi, by omega, hm.2⟩
      · next h2 => simp only [mapSortedFrom, Bool.and_eq_true, decide_eq_true_eq]; exact ⟨hm.1, ih hm.2 (by omega)⟩

theorem mapSortedFrom_filter {α : Type} {m : Map α} {lo : Nat} (p : Nat × α → Bool) (hm : mapSortedFrom lo m = true) :
    mapSortedFrom lo (m.filter p) = true := by
  induction m generalizing lo with
  | nil => rfl
  | cons e rest ih =>
    simp only [mapSortedFrom, Bool.and_eq_true, decide_eq_true_eq] at hm
    simp only [List.filter_cons]
    split
    · simp only [mapSortedFrom, Bool.and_eq_true, decide_eq_true_eq]; exact ⟨hm.1, ih hm.2⟩
    · exact mapSortedFrom_mono (by omega) (ih hm.2)

theorem mem_of_mem_insert {α : Type} {m : Map α} {i : Nat} {x : α} {e : Nat × α} (h : e ∈ mapInsert m i x) : e = (i, x) ∨ e ∈ m := by
  induction m with
  | nil => simp [mapInsert] at h; exact .inl h
  | cons y rest ih =>
    obtain ⟨k, v⟩ := y
    simp only [mapInsert] at h
    split at h
    · rcases List.mem_cons.mp h with h | h
      · exact .inl h
      · exact .inr (List.mem_cons_of_mem _ h)
    · split at h
      · rcases List.mem_cons.mp h with h | h
        · exact .inl h
        · exact .inr h
      · rcases List.mem_cons.mp h with h | h
        · exact .inr (h ▸ List.mem_cons_self ..)
        · exact (ih h).imp_right (List.mem_cons_of_mem _)

/-- Writing a value keeps the canonical form: the default is never listed. -/
theorem mapWf_putD {α : Type} [DecidableEq α] {m : Map α} {d : α} (i : Nat) (x : α) (hm : mapWf d m = true) :
    mapWf d (mapPutD m i x d) = true := by
  unfold mapWf mapSorted at *
  simp only [Bool.and_eq_true, List.all_eq_true] at hm ⊢
  unfold mapPutD mapErase
  split
  · exact ⟨mapSortedFrom_filter _ hm.1, fun e he => hm.2 e (List.mem_filter.mp he).1⟩
  · next hx =>
    refine ⟨mapSortedFrom_insert x hm.1 (Nat.zero_le _), fun e he => ?_⟩
    rcases mem_of_mem_insert he with rfl | h
    · simp [hx]
    · exact hm.2 e h

/-- Dropping entries keeps the canonical form. -/
theorem mapWf_filter {α : Type} [DecidableEq α] {m : Map α} {d : α} (p : Nat → α → Bool) (hm : mapWf d m = true) :
    mapWf d (mapFilter p m) = true := by
  unfold mapWf mapSorted mapFilter at *
  simp only [Bool.and_eq_true, List.all_eq_true] at hm ⊢
  exact ⟨mapSortedFrom_filter _ hm.1, fun e he => hm.2 e (List.mem_filter.mp he).1⟩

end Sys2Proof.Machine
end

