-- ==== Sys2Proof/Laws/State.lean ====
section
/-! SUPPORT. What each update of one field of the state leaves: one lemma per field and update. -/

namespace Sys2Proof.Machine

/-! setSheaf -/

section
variable (s : State) (k : Nat) (x : Sheaf)
@[simp] theorem setSheaf_dev : (s.setSheaf k x).dev = s.dev := rfl
@[simp] theorem setSheaf_variantL : (s.setSheaf k x).variantL = s.variantL := rfl
@[simp] theorem setSheaf_fuses : (s.setSheaf k x).fuses = s.fuses := rfl
@[simp] theorem setSheaf_flash : (s.setSheaf k x).flash = s.flash := rfl
@[simp] theorem setSheaf_flashExtent : (s.setSheaf k x).flashExtent = s.flashExtent := rfl
@[simp] theorem setSheaf_running : (s.setSheaf k x).running = s.running := rfl
@[simp] theorem setSheaf_mbox : (s.setSheaf k x).mbox = s.mbox := rfl
@[simp] theorem setSheaf_train : (s.setSheaf k x).train = s.train := rfl
@[simp] theorem setSheaf_hostLink : (s.setSheaf k x).hostLink = s.hostLink := rfl
@[simp] theorem setSheaf_transAt : (s.setSheaf k x).transAt = s.transAt := rfl
@[simp] theorem setSheaf_discVersion : (s.setSheaf k x).discVersion = s.discVersion := rfl
@[simp] theorem setSheaf_podSize : (s.setSheaf k x).podSize = s.podSize := rfl
@[simp] theorem setSheaf_pkg : (s.setSheaf k x).pkg = s.pkg := rfl
@[simp] theorem setSheaf_clk : (s.setSheaf k x).clk = s.clk := rfl
@[simp] theorem setSheaf_lsCap : (s.setSheaf k x).lsCap = s.lsCap := rfl
@[simp] theorem setSheaf_expMedia : (s.setSheaf k x).expMedia = s.expMedia := rfl
@[simp] theorem setSheaf_lpddrModules : (s.setSheaf k x).lpddrModules = s.lpddrModules := rfl
@[simp] theorem setSheaf_heap12 : (s.setSheaf k x).heap12 = s.heap12 := rfl
@[simp] theorem setSheaf_heap14 : (s.setSheaf k x).heap14 = s.heap14 := rfl
@[simp] theorem setSheaf_heap14Lost : (s.setSheaf k x).heap14Lost = s.heap14Lost := rfl
@[simp] theorem setSheaf_heap14Owed : (s.setSheaf k x).heap14Owed = s.heap14Owed := rfl
@[simp] theorem setSheaf_heapCaps : (s.setSheaf k x).heapCaps = s.heapCaps := rfl
@[simp] theorem setSheaf_quantum : (s.setSheaf k x).quantum = s.quantum := rfl
@[simp] theorem setSheaf_preWait : (s.setSheaf k x).preWait = s.preWait := rfl
@[simp] theorem setSheaf_mode : (s.setSheaf k x).mode = s.mode := rfl
@[simp] theorem setSheaf_ctxs : (s.setSheaf k x).ctxs = s.ctxs := rfl
@[simp] theorem setSheaf_nodes : (s.setSheaf k x).nodes = s.nodes := rfl
@[simp] theorem setSheaf_status : (s.setSheaf k x).status = s.status := rfl
@[simp] theorem setSheaf_slotBytes : (s.setSheaf k x).slotBytes = s.slotBytes := rfl
@[simp] theorem setSheaf_slotOwner : (s.setSheaf k x).slotOwner = s.slotOwner := rfl
@[simp] theorem setSheaf_wgs : (s.setSheaf k x).wgs = s.wgs := rfl
@[simp] theorem setSheaf_cores : (s.setSheaf k x).cores = s.cores := rfl
@[simp] theorem setSheaf_slices : (s.setSheaf k x).slices = s.slices := rfl
@[simp] theorem setSheaf_alDie : (s.setSheaf k x).alDie = s.alDie := rfl
@[simp] theorem setSheaf_alHome : (s.setSheaf k x).alHome = s.alHome := rfl
@[simp] theorem setSheaf_win : (s.setSheaf k x).win = s.win := rfl
@[simp] theorem setSheaf_winNext : (s.setSheaf k x).winNext = s.winNext := rfl
@[simp] theorem setSheaf_rels : (s.setSheaf k x).rels = s.rels := rfl
@[simp] theorem setSheaf_net : (s.setSheaf k x).net = s.net := rfl
@[simp] theorem setSheaf_granted : (s.setSheaf k x).granted = s.granted := rfl
@[simp] theorem setSheaf_ls : (s.setSheaf k x).ls = s.ls := rfl
@[simp] theorem setSheaf_lsTag : (s.setSheaf k x).lsTag = s.lsTag := rfl
@[simp] theorem setSheaf_lsPoison : (s.setSheaf k x).lsPoison = s.lsPoison := rfl
@[simp] theorem setSheaf_bos : (s.setSheaf k x).bos = s.bos := rfl
@[simp] theorem setSheaf_slotMem : (s.setSheaf k x).slotMem = s.slotMem := rfl
@[simp] theorem setSheaf_slotTag : (s.setSheaf k x).slotTag = s.slotTag := rfl
@[simp] theorem setSheaf_tileMem : (s.setSheaf k x).tileMem = s.tileMem := rfl
@[simp] theorem setSheaf_slotPoison : (s.setSheaf k x).slotPoison = s.slotPoison := rfl
@[simp] theorem setSheaf_mem : (s.setSheaf k x).mem = s.mem := rfl
@[simp] theorem setSheaf_memTag : (s.setSheaf k x).memTag = s.memTag := rfl
@[simp] theorem setSheaf_memPoison : (s.setSheaf k x).memPoison = s.memPoison := rfl
@[simp] theorem setSheaf_msc : (s.setSheaf k x).msc = s.msc := rfl
@[simp] theorem setSheaf_tc : (s.setSheaf k x).tc = s.tc := rfl
@[simp] theorem setSheaf_pend : (s.setSheaf k x).pend = s.pend := rfl
@[simp] theorem setSheaf_released : (s.setSheaf k x).released = s.released := rfl
@[simp] theorem setSheaf_fq : (s.setSheaf k x).fq = s.fq := rfl
@[simp] theorem setSheaf_frames : (s.setSheaf k x).frames = s.frames := rfl
@[simp] theorem setSheaf_hubMarks : (s.setSheaf k x).hubMarks = s.hubMarks := rfl
@[simp] theorem setSheaf_xls : (s.setSheaf k x).xls = s.xls := rfl
@[simp] theorem setSheaf_podOut : (s.setSheaf k x).podOut = s.podOut := rfl
@[simp] theorem setSheaf_podMarks : (s.setSheaf k x).podMarks = s.podMarks := rfl
@[simp] theorem setSheaf_reports : (s.setSheaf k x).reports = s.reports := rfl
@[simp] theorem setSheaf_hostReads : (s.setSheaf k x).hostReads = s.hostReads := rfl
@[simp] theorem setSheaf_attested : (s.setSheaf k x).attested = s.attested := rfl
@[simp] theorem setSheaf_posted : (s.setSheaf k x).posted = s.posted := rfl
@[simp] theorem setSheaf_msiSent : (s.setSheaf k x).msiSent = s.msiSent := rfl
@[simp] theorem setSheaf_msiMask : (s.setSheaf k x).msiMask = s.msiMask := rfl
@[simp] theorem setSheaf_msiPend : (s.setSheaf k x).msiPend = s.msiPend := rfl
@[simp] theorem setSheaf_msiTable : (s.setSheaf k x).msiTable = s.msiTable := rfl
@[simp] theorem setSheaf_evtData : (s.setSheaf k x).evtData = s.evtData := rfl
@[simp] theorem setSheaf_aper : (s.setSheaf k x).aper = s.aper := rfl
@[simp] theorem setSheaf_aperNow : (s.setSheaf k x).aperNow = s.aperNow := rfl
@[simp] theorem setSheaf_ways : (s.setSheaf k x).ways = s.ways := rfl
@[simp] theorem setSheaf_hbm : (s.setSheaf k x).hbm = s.hbm := rfl
@[simp] theorem setSheaf_sramCe : (s.setSheaf k x).sramCe = s.sramCe := rfl
@[simp] theorem setSheaf_sramUe : (s.setSheaf k x).sramUe = s.sramUe := rfl
@[simp] theorem setSheaf_ports : (s.setSheaf k x).ports = s.ports := rfl
@[simp] theorem setSheaf_trk : (s.setSheaf k x).trk = s.trk := rfl
@[simp] theorem setSheaf_power : (s.setSheaf k x).power = s.power := rfl
@[simp] theorem setSheaf_scrubbed : (s.setSheaf k x).scrubbed = s.scrubbed := rfl
@[simp] theorem setSheaf_agenda : (s.setSheaf k x).agenda = s.agenda := rfl
@[simp] theorem setSheaf_cur : (s.setSheaf k x).cur = s.cur := rfl
@[simp] theorem setSheaf_free : (s.setSheaf k x).free = s.free := rfl
end

/-! onSheaf -/

section
variable (s : State) (k : Nat) (f : Sheaf → Sheaf)
@[simp] theorem onSheaf_dev : (s.onSheaf k f).dev = s.dev := rfl
@[simp] theorem onSheaf_variantL : (s.onSheaf k f).variantL = s.variantL := rfl
@[simp] theorem onSheaf_fuses : (s.onSheaf k f).fuses = s.fuses := rfl
@[simp] theorem onSheaf_flash : (s.onSheaf k f).flash = s.flash := rfl
@[simp] theorem onSheaf_flashExtent : (s.onSheaf k f).flashExtent = s.flashExtent := rfl
@[simp] theorem onSheaf_running : (s.onSheaf k f).running = s.running := rfl
@[simp] theorem onSheaf_mbox : (s.onSheaf k f).mbox = s.mbox := rfl
@[simp] theorem onSheaf_train : (s.onSheaf k f).train = s.train := rfl
@[simp] theorem onSheaf_hostLink : (s.onSheaf k f).hostLink = s.hostLink := rfl
@[simp] theorem onSheaf_transAt : (s.onSheaf k f).transAt = s.transAt := rfl
@[simp] theorem onSheaf_discVersion : (s.onSheaf k f).discVersion = s.discVersion := rfl
@[simp] theorem onSheaf_podSize : (s.onSheaf k f).podSize = s.podSize := rfl
@[simp] theorem onSheaf_pkg : (s.onSheaf k f).pkg = s.pkg := rfl
@[simp] theorem onSheaf_clk : (s.onSheaf k f).clk = s.clk := rfl
@[simp] theorem onSheaf_lsCap : (s.onSheaf k f).lsCap = s.lsCap := rfl
@[simp] theorem onSheaf_expMedia : (s.onSheaf k f).expMedia = s.expMedia := rfl
@[simp] theorem onSheaf_lpddrModules : (s.onSheaf k f).lpddrModules = s.lpddrModules := rfl
@[simp] theorem onSheaf_heap12 : (s.onSheaf k f).heap12 = s.heap12 := rfl
@[simp] theorem onSheaf_heap14 : (s.onSheaf k f).heap14 = s.heap14 := rfl
@[simp] theorem onSheaf_heap14Lost : (s.onSheaf k f).heap14Lost = s.heap14Lost := rfl
@[simp] theorem onSheaf_heap14Owed : (s.onSheaf k f).heap14Owed = s.heap14Owed := rfl
@[simp] theorem onSheaf_heapCaps : (s.onSheaf k f).heapCaps = s.heapCaps := rfl
@[simp] theorem onSheaf_quantum : (s.onSheaf k f).quantum = s.quantum := rfl
@[simp] theorem onSheaf_preWait : (s.onSheaf k f).preWait = s.preWait := rfl
@[simp] theorem onSheaf_mode : (s.onSheaf k f).mode = s.mode := rfl
@[simp] theorem onSheaf_ctxs : (s.onSheaf k f).ctxs = s.ctxs := rfl
@[simp] theorem onSheaf_nodes : (s.onSheaf k f).nodes = s.nodes := rfl
@[simp] theorem onSheaf_status : (s.onSheaf k f).status = s.status := rfl
@[simp] theorem onSheaf_slotBytes : (s.onSheaf k f).slotBytes = s.slotBytes := rfl
@[simp] theorem onSheaf_slotOwner : (s.onSheaf k f).slotOwner = s.slotOwner := rfl
@[simp] theorem onSheaf_wgs : (s.onSheaf k f).wgs = s.wgs := rfl
@[simp] theorem onSheaf_cores : (s.onSheaf k f).cores = s.cores := rfl
@[simp] theorem onSheaf_slices : (s.onSheaf k f).slices = s.slices := rfl
@[simp] theorem onSheaf_alDie : (s.onSheaf k f).alDie = s.alDie := rfl
@[simp] theorem onSheaf_alHome : (s.onSheaf k f).alHome = s.alHome := rfl
@[simp] theorem onSheaf_win : (s.onSheaf k f).win = s.win := rfl
@[simp] theorem onSheaf_winNext : (s.onSheaf k f).winNext = s.winNext := rfl
@[simp] theorem onSheaf_rels : (s.onSheaf k f).rels = s.rels := rfl
@[simp] theorem onSheaf_net : (s.onSheaf k f).net = s.net := rfl
@[simp] theorem onSheaf_granted : (s.onSheaf k f).granted = s.granted := rfl
@[simp] theorem onSheaf_ls : (s.onSheaf k f).ls = s.ls := rfl
@[simp] theorem onSheaf_lsTag : (s.onSheaf k f).lsTag = s.lsTag := rfl
@[simp] theorem onSheaf_lsPoison : (s.onSheaf k f).lsPoison = s.lsPoison := rfl
@[simp] theorem onSheaf_bos : (s.onSheaf k f).bos = s.bos := rfl
@[simp] theorem onSheaf_slotMem : (s.onSheaf k f).slotMem = s.slotMem := rfl
@[simp] theorem onSheaf_slotTag : (s.onSheaf k f).slotTag = s.slotTag := rfl
@[simp] theorem onSheaf_tileMem : (s.onSheaf k f).tileMem = s.tileMem := rfl
@[simp] theorem onSheaf_slotPoison : (s.onSheaf k f).slotPoison = s.slotPoison := rfl
@[simp] theorem onSheaf_mem : (s.onSheaf k f).mem = s.mem := rfl
@[simp] theorem onSheaf_memTag : (s.onSheaf k f).memTag = s.memTag := rfl
@[simp] theorem onSheaf_memPoison : (s.onSheaf k f).memPoison = s.memPoison := rfl
@[simp] theorem onSheaf_msc : (s.onSheaf k f).msc = s.msc := rfl
@[simp] theorem onSheaf_tc : (s.onSheaf k f).tc = s.tc := rfl
@[simp] theorem onSheaf_pend : (s.onSheaf k f).pend = s.pend := rfl
@[simp] theorem onSheaf_released : (s.onSheaf k f).released = s.released := rfl
@[simp] theorem onSheaf_fq : (s.onSheaf k f).fq = s.fq := rfl
@[simp] theorem onSheaf_frames : (s.onSheaf k f).frames = s.frames := rfl
@[simp] theorem onSheaf_hubMarks : (s.onSheaf k f).hubMarks = s.hubMarks := rfl
@[simp] theorem onSheaf_xls : (s.onSheaf k f).xls = s.xls := rfl
@[simp] theorem onSheaf_podOut : (s.onSheaf k f).podOut = s.podOut := rfl
@[simp] theorem onSheaf_podMarks : (s.onSheaf k f).podMarks = s.podMarks := rfl
@[simp] theorem onSheaf_reports : (s.onSheaf k f).reports = s.reports := rfl
@[simp] theorem onSheaf_hostReads : (s.onSheaf k f).hostReads = s.hostReads := rfl
@[simp] theorem onSheaf_attested : (s.onSheaf k f).attested = s.attested := rfl
@[simp] theorem onSheaf_posted : (s.onSheaf k f).posted = s.posted := rfl
@[simp] theorem onSheaf_msiSent : (s.onSheaf k f).msiSent = s.msiSent := rfl
@[simp] theorem onSheaf_msiMask : (s.onSheaf k f).msiMask = s.msiMask := rfl
@[simp] theorem onSheaf_msiPend : (s.onSheaf k f).msiPend = s.msiPend := rfl
@[simp] theorem onSheaf_msiTable : (s.onSheaf k f).msiTable = s.msiTable := rfl
@[simp] theorem onSheaf_evtData : (s.onSheaf k f).evtData = s.evtData := rfl
@[simp] theorem onSheaf_aper : (s.onSheaf k f).aper = s.aper := rfl
@[simp] theorem onSheaf_aperNow : (s.onSheaf k f).aperNow = s.aperNow := rfl
@[simp] theorem onSheaf_ways : (s.onSheaf k f).ways = s.ways := rfl
@[simp] theorem onSheaf_hbm : (s.onSheaf k f).hbm = s.hbm := rfl
@[simp] theorem onSheaf_sramCe : (s.onSheaf k f).sramCe = s.sramCe := rfl
@[simp] theorem onSheaf_sramUe : (s.onSheaf k f).sramUe = s.sramUe := rfl
@[simp] theorem onSheaf_ports : (s.onSheaf k f).ports = s.ports := rfl
@[simp] theorem onSheaf_trk : (s.onSheaf k f).trk = s.trk := rfl
@[simp] theorem onSheaf_power : (s.onSheaf k f).power = s.power := rfl
@[simp] theorem onSheaf_scrubbed : (s.onSheaf k f).scrubbed = s.scrubbed := rfl
@[simp] theorem onSheaf_agenda : (s.onSheaf k f).agenda = s.agenda := rfl
@[simp] theorem onSheaf_cur : (s.onSheaf k f).cur = s.cur := rfl
@[simp] theorem onSheaf_free : (s.onSheaf k f).free = s.free := rfl
end

/-! setCore -/

section
variable (s : State) (c : Nat) (x : Core)
@[simp] theorem setCore_dev : (s.setCore c x).dev = s.dev := rfl
@[simp] theorem setCore_variantL : (s.setCore c x).variantL = s.variantL := rfl
@[simp] theorem setCore_fuses : (s.setCore c x).fuses = s.fuses := rfl
@[simp] theorem setCore_flash : (s.setCore c x).flash = s.flash := rfl
@[simp] theorem setCore_flashExtent : (s.setCore c x).flashExtent = s.flashExtent := rfl
@[simp] theorem setCore_running : (s.setCore c x).running = s.running := rfl
@[simp] theorem setCore_mbox : (s.setCore c x).mbox = s.mbox := rfl
@[simp] theorem setCore_train : (s.setCore c x).train = s.train := rfl
@[simp] theorem setCore_hostLink : (s.setCore c x).hostLink = s.hostLink := rfl
@[simp] theorem setCore_transAt : (s.setCore c x).transAt = s.transAt := rfl
@[simp] theorem setCore_discVersion : (s.setCore c x).discVersion = s.discVersion := rfl
@[simp] theorem setCore_podSize : (s.setCore c x).podSize = s.podSize := rfl
@[simp] theorem setCore_pkg : (s.setCore c x).pkg = s.pkg := rfl
@[simp] theorem setCore_clk : (s.setCore c x).clk = s.clk := rfl
@[simp] theorem setCore_lsCap : (s.setCore c x).lsCap = s.lsCap := rfl
@[simp] theorem setCore_expMedia : (s.setCore c x).expMedia = s.expMedia := rfl
@[simp] theorem setCore_lpddrModules : (s.setCore c x).lpddrModules = s.lpddrModules := rfl
@[simp] theorem setCore_heap12 : (s.setCore c x).heap12 = s.heap12 := rfl
@[simp] theorem setCore_heap14 : (s.setCore c x).heap14 = s.heap14 := rfl
@[simp] theorem setCore_heap14Lost : (s.setCore c x).heap14Lost = s.heap14Lost := rfl
@[simp] theorem setCore_heap14Owed : (s.setCore c x).heap14Owed = s.heap14Owed := rfl
@[simp] theorem setCore_heapCaps : (s.setCore c x).heapCaps = s.heapCaps := rfl
@[simp] theorem setCore_quantum : (s.setCore c x).quantum = s.quantum := rfl
@[simp] theorem setCore_preWait : (s.setCore c x).preWait = s.preWait := rfl
@[simp] theorem setCore_mode : (s.setCore c x).mode = s.mode := rfl
@[simp] theorem setCore_ctxs : (s.setCore c x).ctxs = s.ctxs := rfl
@[simp] theorem setCore_nodes : (s.setCore c x).nodes = s.nodes := rfl
@[simp] theorem setCore_status : (s.setCore c x).status = s.status := rfl
@[simp] theorem setCore_slotBytes : (s.setCore c x).slotBytes = s.slotBytes := rfl
@[simp] theorem setCore_slotOwner : (s.setCore c x).slotOwner = s.slotOwner := rfl
@[simp] theorem setCore_wgs : (s.setCore c x).wgs = s.wgs := rfl
@[simp] theorem setCore_sheaves : (s.setCore c x).sheaves = s.sheaves := rfl
@[simp] theorem setCore_slices : (s.setCore c x).slices = s.slices := rfl
@[simp] theorem setCore_alDie : (s.setCore c x).alDie = s.alDie := rfl
@[simp] theorem setCore_alHome : (s.setCore c x).alHome = s.alHome := rfl
@[simp] theorem setCore_win : (s.setCore c x).win = s.win := rfl
@[simp] theorem setCore_winNext : (s.setCore c x).winNext = s.winNext := rfl
@[simp] theorem setCore_rels : (s.setCore c x).rels = s.rels := rfl
@[simp] theorem setCore_net : (s.setCore c x).net = s.net := rfl
@[simp] theorem setCore_granted : (s.setCore c x).granted = s.granted := rfl
@[simp] theorem setCore_ls : (s.setCore c x).ls = s.ls := rfl
@[simp] theorem setCore_lsTag : (s.setCore c x).lsTag = s.lsTag := rfl
@[simp] theorem setCore_lsPoison : (s.setCore c x).lsPoison = s.lsPoison := rfl
@[simp] theorem setCore_bos : (s.setCore c x).bos = s.bos := rfl
@[simp] theorem setCore_slotMem : (s.setCore c x).slotMem = s.slotMem := rfl
@[simp] theorem setCore_slotTag : (s.setCore c x).slotTag = s.slotTag := rfl
@[simp] theorem setCore_tileMem : (s.setCore c x).tileMem = s.tileMem := rfl
@[simp] theorem setCore_slotPoison : (s.setCore c x).slotPoison = s.slotPoison := rfl
@[simp] theorem setCore_mem : (s.setCore c x).mem = s.mem := rfl
@[simp] theorem setCore_memTag : (s.setCore c x).memTag = s.memTag := rfl
@[simp] theorem setCore_memPoison : (s.setCore c x).memPoison = s.memPoison := rfl
@[simp] theorem setCore_msc : (s.setCore c x).msc = s.msc := rfl
@[simp] theorem setCore_tc : (s.setCore c x).tc = s.tc := rfl
@[simp] theorem setCore_pend : (s.setCore c x).pend = s.pend := rfl
@[simp] theorem setCore_released : (s.setCore c x).released = s.released := rfl
@[simp] theorem setCore_fq : (s.setCore c x).fq = s.fq := rfl
@[simp] theorem setCore_frames : (s.setCore c x).frames = s.frames := rfl
@[simp] theorem setCore_hubMarks : (s.setCore c x).hubMarks = s.hubMarks := rfl
@[simp] theorem setCore_xls : (s.setCore c x).xls = s.xls := rfl
@[simp] theorem setCore_podOut : (s.setCore c x).podOut = s.podOut := rfl
@[simp] theorem setCore_podMarks : (s.setCore c x).podMarks = s.podMarks := rfl
@[simp] theorem setCore_reports : (s.setCore c x).reports = s.reports := rfl
@[simp] theorem setCore_hostReads : (s.setCore c x).hostReads = s.hostReads := rfl
@[simp] theorem setCore_attested : (s.setCore c x).attested = s.attested := rfl
@[simp] theorem setCore_posted : (s.setCore c x).posted = s.posted := rfl
@[simp] theorem setCore_msiSent : (s.setCore c x).msiSent = s.msiSent := rfl
@[simp] theorem setCore_msiMask : (s.setCore c x).msiMask = s.msiMask := rfl
@[simp] theorem setCore_msiPend : (s.setCore c x).msiPend = s.msiPend := rfl
@[simp] theorem setCore_msiTable : (s.setCore c x).msiTable = s.msiTable := rfl
@[simp] theorem setCore_evtData : (s.setCore c x).evtData = s.evtData := rfl
@[simp] theorem setCore_aper : (s.setCore c x).aper = s.aper := rfl
@[simp] theorem setCore_aperNow : (s.setCore c x).aperNow = s.aperNow := rfl
@[simp] theorem setCore_ways : (s.setCore c x).ways = s.ways := rfl
@[simp] theorem setCore_hbm : (s.setCore c x).hbm = s.hbm := rfl
@[simp] theorem setCore_sramCe : (s.setCore c x).sramCe = s.sramCe := rfl
@[simp] theorem setCore_sramUe : (s.setCore c x).sramUe = s.sramUe := rfl
@[simp] theorem setCore_ports : (s.setCore c x).ports = s.ports := rfl
@[simp] theorem setCore_trk : (s.setCore c x).trk = s.trk := rfl
@[simp] theorem setCore_power : (s.setCore c x).power = s.power := rfl
@[simp] theorem setCore_scrubbed : (s.setCore c x).scrubbed = s.scrubbed := rfl
@[simp] theorem setCore_agenda : (s.setCore c x).agenda = s.agenda := rfl
@[simp] theorem setCore_cur : (s.setCore c x).cur = s.cur := rfl
@[simp] theorem setCore_free : (s.setCore c x).free = s.free := rfl
end

/-! onCore -/

section
variable (s : State) (c : Nat) (f : Core → Core)
@[simp] theorem onCore_dev : (s.onCore c f).dev = s.dev := rfl
@[simp] theorem onCore_variantL : (s.onCore c f).variantL = s.variantL := rfl
@[simp] theorem onCore_fuses : (s.onCore c f).fuses = s.fuses := rfl
@[simp] theorem onCore_flash : (s.onCore c f).flash = s.flash := rfl
@[simp] theorem onCore_flashExtent : (s.onCore c f).flashExtent = s.flashExtent := rfl
@[simp] theorem onCore_running : (s.onCore c f).running = s.running := rfl
@[simp] theorem onCore_mbox : (s.onCore c f).mbox = s.mbox := rfl
@[simp] theorem onCore_train : (s.onCore c f).train = s.train := rfl
@[simp] theorem onCore_hostLink : (s.onCore c f).hostLink = s.hostLink := rfl
@[simp] theorem onCore_transAt : (s.onCore c f).transAt = s.transAt := rfl
@[simp] theorem onCore_discVersion : (s.onCore c f).discVersion = s.discVersion := rfl
@[simp] theorem onCore_podSize : (s.onCore c f).podSize = s.podSize := rfl
@[simp] theorem onCore_pkg : (s.onCore c f).pkg = s.pkg := rfl
@[simp] theorem onCore_clk : (s.onCore c f).clk = s.clk := rfl
@[simp] theorem onCore_lsCap : (s.onCore c f).lsCap = s.lsCap := rfl
@[simp] theorem onCore_expMedia : (s.onCore c f).expMedia = s.expMedia := rfl
@[simp] theorem onCore_lpddrModules : (s.onCore c f).lpddrModules = s.lpddrModules := rfl
@[simp] theorem onCore_heap12 : (s.onCore c f).heap12 = s.heap12 := rfl
@[simp] theorem onCore_heap14 : (s.onCore c f).heap14 = s.heap14 := rfl
@[simp] theorem onCore_heap14Lost : (s.onCore c f).heap14Lost = s.heap14Lost := rfl
@[simp] theorem onCore_heap14Owed : (s.onCore c f).heap14Owed = s.heap14Owed := rfl
@[simp] theorem onCore_heapCaps : (s.onCore c f).heapCaps = s.heapCaps := rfl
@[simp] theorem onCore_quantum : (s.onCore c f).quantum = s.quantum := rfl
@[simp] theorem onCore_preWait : (s.onCore c f).preWait = s.preWait := rfl
@[simp] theorem onCore_mode : (s.onCore c f).mode = s.mode := rfl
@[simp] theorem onCore_ctxs : (s.onCore c f).ctxs = s.ctxs := rfl
@[simp] theorem onCore_nodes : (s.onCore c f).nodes = s.nodes := rfl
@[simp] theorem onCore_status : (s.onCore c f).status = s.status := rfl
@[simp] theorem onCore_slotBytes : (s.onCore c f).slotBytes = s.slotBytes := rfl
@[simp] theorem onCore_slotOwner : (s.onCore c f).slotOwner = s.slotOwner := rfl
@[simp] theorem onCore_wgs : (s.onCore c f).wgs = s.wgs := rfl
@[simp] theorem onCore_sheaves : (s.onCore c f).sheaves = s.sheaves := rfl
@[simp] theorem onCore_slices : (s.onCore c f).slices = s.slices := rfl
@[simp] theorem onCore_alDie : (s.onCore c f).alDie = s.alDie := rfl
@[simp] theorem onCore_alHome : (s.onCore c f).alHome = s.alHome := rfl
@[simp] theorem onCore_win : (s.onCore c f).win = s.win := rfl
@[simp] theorem onCore_winNext : (s.onCore c f).winNext = s.winNext := rfl
@[simp] theorem onCore_rels : (s.onCore c f).rels = s.rels := rfl
@[simp] theorem onCore_net : (s.onCore c f).net = s.net := rfl
@[simp] theorem onCore_granted : (s.onCore c f).granted = s.granted := rfl
@[simp] theorem onCore_ls : (s.onCore c f).ls = s.ls := rfl
@[simp] theorem onCore_lsTag : (s.onCore c f).lsTag = s.lsTag := rfl
@[simp] theorem onCore_lsPoison : (s.onCore c f).lsPoison = s.lsPoison := rfl
@[simp] theorem onCore_bos : (s.onCore c f).bos = s.bos := rfl
@[simp] theorem onCore_slotMem : (s.onCore c f).slotMem = s.slotMem := rfl
@[simp] theorem onCore_slotTag : (s.onCore c f).slotTag = s.slotTag := rfl
@[simp] theorem onCore_tileMem : (s.onCore c f).tileMem = s.tileMem := rfl
@[simp] theorem onCore_slotPoison : (s.onCore c f).slotPoison = s.slotPoison := rfl
@[simp] theorem onCore_mem : (s.onCore c f).mem = s.mem := rfl
@[simp] theorem onCore_memTag : (s.onCore c f).memTag = s.memTag := rfl
@[simp] theorem onCore_memPoison : (s.onCore c f).memPoison = s.memPoison := rfl
@[simp] theorem onCore_msc : (s.onCore c f).msc = s.msc := rfl
@[simp] theorem onCore_tc : (s.onCore c f).tc = s.tc := rfl
@[simp] theorem onCore_pend : (s.onCore c f).pend = s.pend := rfl
@[simp] theorem onCore_released : (s.onCore c f).released = s.released := rfl
@[simp] theorem onCore_fq : (s.onCore c f).fq = s.fq := rfl
@[simp] theorem onCore_frames : (s.onCore c f).frames = s.frames := rfl
@[simp] theorem onCore_hubMarks : (s.onCore c f).hubMarks = s.hubMarks := rfl
@[simp] theorem onCore_xls : (s.onCore c f).xls = s.xls := rfl
@[simp] theorem onCore_podOut : (s.onCore c f).podOut = s.podOut := rfl
@[simp] theorem onCore_podMarks : (s.onCore c f).podMarks = s.podMarks := rfl
@[simp] theorem onCore_reports : (s.onCore c f).reports = s.reports := rfl
@[simp] theorem onCore_hostReads : (s.onCore c f).hostReads = s.hostReads := rfl
@[simp] theorem onCore_attested : (s.onCore c f).attested = s.attested := rfl
@[simp] theorem onCore_posted : (s.onCore c f).posted = s.posted := rfl
@[simp] theorem onCore_msiSent : (s.onCore c f).msiSent = s.msiSent := rfl
@[simp] theorem onCore_msiMask : (s.onCore c f).msiMask = s.msiMask := rfl
@[simp] theorem onCore_msiPend : (s.onCore c f).msiPend = s.msiPend := rfl
@[simp] theorem onCore_msiTable : (s.onCore c f).msiTable = s.msiTable := rfl
@[simp] theorem onCore_evtData : (s.onCore c f).evtData = s.evtData := rfl
@[simp] theorem onCore_aper : (s.onCore c f).aper = s.aper := rfl
@[simp] theorem onCore_aperNow : (s.onCore c f).aperNow = s.aperNow := rfl
@[simp] theorem onCore_ways : (s.onCore c f).ways = s.ways := rfl
@[simp] theorem onCore_hbm : (s.onCore c f).hbm = s.hbm := rfl
@[simp] theorem onCore_sramCe : (s.onCore c f).sramCe = s.sramCe := rfl
@[simp] theorem onCore_sramUe : (s.onCore c f).sramUe = s.sramUe := rfl
@[simp] theorem onCore_ports : (s.onCore c f).ports = s.ports := rfl
@[simp] theorem onCore_trk : (s.onCore c f).trk = s.trk := rfl
@[simp] theorem onCore_power : (s.onCore c f).power = s.power := rfl
@[simp] theorem onCore_scrubbed : (s.onCore c f).scrubbed = s.scrubbed := rfl
@[simp] theorem onCore_agenda : (s.onCore c f).agenda = s.agenda := rfl
@[simp] theorem onCore_cur : (s.onCore c f).cur = s.cur := rfl
@[simp] theorem onCore_free : (s.onCore c f).free = s.free := rfl
end

/-! onWg -/

section
variable (s : State) (g : Nat) (f : Workgroup → Workgroup)
@[simp] theorem onWg_dev : (s.onWg g f).dev = s.dev := rfl
@[simp] theorem onWg_variantL : (s.onWg g f).variantL = s.variantL := rfl
@[simp] theorem onWg_fuses : (s.onWg g f).fuses = s.fuses := rfl
@[simp] theorem onWg_flash : (s.onWg g f).flash = s.flash := rfl
@[simp] theorem onWg_flashExtent : (s.onWg g f).flashExtent = s.flashExtent := rfl
@[simp] theorem onWg_running : (s.onWg g f).running = s.running := rfl
@[simp] theorem onWg_mbox : (s.onWg g f).mbox = s.mbox := rfl
@[simp] theorem onWg_train : (s.onWg g f).train = s.train := rfl
@[simp] theorem onWg_hostLink : (s.onWg g f).hostLink = s.hostLink := rfl
@[simp] theorem onWg_transAt : (s.onWg g f).transAt = s.transAt := rfl
@[simp] theorem onWg_discVersion : (s.onWg g f).discVersion = s.discVersion := rfl
@[simp] theorem onWg_podSize : (s.onWg g f).podSize = s.podSize := rfl
@[simp] theorem onWg_pkg : (s.onWg g f).pkg = s.pkg := rfl
@[simp] theorem onWg_clk : (s.onWg g f).clk = s.clk := rfl
@[simp] theorem onWg_lsCap : (s.onWg g f).lsCap = s.lsCap := rfl
@[simp] theorem onWg_expMedia : (s.onWg g f).expMedia = s.expMedia := rfl
@[simp] theorem onWg_lpddrModules : (s.onWg g f).lpddrModules = s.lpddrModules := rfl
@[simp] theorem onWg_heap12 : (s.onWg g f).heap12 = s.heap12 := rfl
@[simp] theorem onWg_heap14 : (s.onWg g f).heap14 = s.heap14 := rfl
@[simp] theorem onWg_heap14Lost : (s.onWg g f).heap14Lost = s.heap14Lost := rfl
@[simp] theorem onWg_heap14Owed : (s.onWg g f).heap14Owed = s.heap14Owed := rfl
@[simp] theorem onWg_heapCaps : (s.onWg g f).heapCaps = s.heapCaps := rfl
@[simp] theorem onWg_quantum : (s.onWg g f).quantum = s.quantum := rfl
@[simp] theorem onWg_preWait : (s.onWg g f).preWait = s.preWait := rfl
@[simp] theorem onWg_mode : (s.onWg g f).mode = s.mode := rfl
@[simp] theorem onWg_ctxs : (s.onWg g f).ctxs = s.ctxs := rfl
@[simp] theorem onWg_nodes : (s.onWg g f).nodes = s.nodes := rfl
@[simp] theorem onWg_status : (s.onWg g f).status = s.status := rfl
@[simp] theorem onWg_slotBytes : (s.onWg g f).slotBytes = s.slotBytes := rfl
@[simp] theorem onWg_slotOwner : (s.onWg g f).slotOwner = s.slotOwner := rfl
@[simp] theorem onWg_sheaves : (s.onWg g f).sheaves = s.sheaves := rfl
@[simp] theorem onWg_cores : (s.onWg g f).cores = s.cores := rfl
@[simp] theorem onWg_slices : (s.onWg g f).slices = s.slices := rfl
@[simp] theorem onWg_alDie : (s.onWg g f).alDie = s.alDie := rfl
@[simp] theorem onWg_alHome : (s.onWg g f).alHome = s.alHome := rfl
@[simp] theorem onWg_win : (s.onWg g f).win = s.win := rfl
@[simp] theorem onWg_winNext : (s.onWg g f).winNext = s.winNext := rfl
@[simp] theorem onWg_rels : (s.onWg g f).rels = s.rels := rfl
@[simp] theorem onWg_net : (s.onWg g f).net = s.net := rfl
@[simp] theorem onWg_granted : (s.onWg g f).granted = s.granted := rfl
@[simp] theorem onWg_ls : (s.onWg g f).ls = s.ls := rfl
@[simp] theorem onWg_lsTag : (s.onWg g f).lsTag = s.lsTag := rfl
@[simp] theorem onWg_lsPoison : (s.onWg g f).lsPoison = s.lsPoison := rfl
@[simp] theorem onWg_bos : (s.onWg g f).bos = s.bos := rfl
@[simp] theorem onWg_slotMem : (s.onWg g f).slotMem = s.slotMem := rfl
@[simp] theorem onWg_slotTag : (s.onWg g f).slotTag = s.slotTag := rfl
@[simp] theorem onWg_tileMem : (s.onWg g f).tileMem = s.tileMem := rfl
@[simp] theorem onWg_slotPoison : (s.onWg g f).slotPoison = s.slotPoison := rfl
@[simp] theorem onWg_mem : (s.onWg g f).mem = s.mem := rfl
@[simp] theorem onWg_memTag : (s.onWg g f).memTag = s.memTag := rfl
@[simp] theorem onWg_memPoison : (s.onWg g f).memPoison = s.memPoison := rfl
@[simp] theorem onWg_msc : (s.onWg g f).msc = s.msc := rfl
@[simp] theorem onWg_tc : (s.onWg g f).tc = s.tc := rfl
@[simp] theorem onWg_pend : (s.onWg g f).pend = s.pend := rfl
@[simp] theorem onWg_released : (s.onWg g f).released = s.released := rfl
@[simp] theorem onWg_fq : (s.onWg g f).fq = s.fq := rfl
@[simp] theorem onWg_frames : (s.onWg g f).frames = s.frames := rfl
@[simp] theorem onWg_hubMarks : (s.onWg g f).hubMarks = s.hubMarks := rfl
@[simp] theorem onWg_xls : (s.onWg g f).xls = s.xls := rfl
@[simp] theorem onWg_podOut : (s.onWg g f).podOut = s.podOut := rfl
@[simp] theorem onWg_podMarks : (s.onWg g f).podMarks = s.podMarks := rfl
@[simp] theorem onWg_reports : (s.onWg g f).reports = s.reports := rfl
@[simp] theorem onWg_hostReads : (s.onWg g f).hostReads = s.hostReads := rfl
@[simp] theorem onWg_attested : (s.onWg g f).attested = s.attested := rfl
@[simp] theorem onWg_posted : (s.onWg g f).posted = s.posted := rfl
@[simp] theorem onWg_msiSent : (s.onWg g f).msiSent = s.msiSent := rfl
@[simp] theorem onWg_msiMask : (s.onWg g f).msiMask = s.msiMask := rfl
@[simp] theorem onWg_msiPend : (s.onWg g f).msiPend = s.msiPend := rfl
@[simp] theorem onWg_msiTable : (s.onWg g f).msiTable = s.msiTable := rfl
@[simp] theorem onWg_evtData : (s.onWg g f).evtData = s.evtData := rfl
@[simp] theorem onWg_aper : (s.onWg g f).aper = s.aper := rfl
@[simp] theorem onWg_aperNow : (s.onWg g f).aperNow = s.aperNow := rfl
@[simp] theorem onWg_ways : (s.onWg g f).ways = s.ways := rfl
@[simp] theorem onWg_hbm : (s.onWg g f).hbm = s.hbm := rfl
@[simp] theorem onWg_sramCe : (s.onWg g f).sramCe = s.sramCe := rfl
@[simp] theorem onWg_sramUe : (s.onWg g f).sramUe = s.sramUe := rfl
@[simp] theorem onWg_ports : (s.onWg g f).ports = s.ports := rfl
@[simp] theorem onWg_trk : (s.onWg g f).trk = s.trk := rfl
@[simp] theorem onWg_power : (s.onWg g f).power = s.power := rfl
@[simp] theorem onWg_scrubbed : (s.onWg g f).scrubbed = s.scrubbed := rfl
@[simp] theorem onWg_agenda : (s.onWg g f).agenda = s.agenda := rfl
@[simp] theorem onWg_cur : (s.onWg g f).cur = s.cur := rfl
@[simp] theorem onWg_free : (s.onWg g f).free = s.free := rfl
end

/-! onNode -/

section
variable (s : State) (n : Nat) (f : Node → Node)
@[simp] theorem onNode_dev : (s.onNode n f).dev = s.dev := rfl
@[simp] theorem onNode_variantL : (s.onNode n f).variantL = s.variantL := rfl
@[simp] theorem onNode_fuses : (s.onNode n f).fuses = s.fuses := rfl
@[simp] theorem onNode_flash : (s.onNode n f).flash = s.flash := rfl
@[simp] theorem onNode_flashExtent : (s.onNode n f).flashExtent = s.flashExtent := rfl
@[simp] theorem onNode_running : (s.onNode n f).running = s.running := rfl
@[simp] theorem onNode_mbox : (s.onNode n f).mbox = s.mbox := rfl
@[simp] theorem onNode_train : (s.onNode n f).train = s.train := rfl
@[simp] theorem onNode_hostLink : (s.onNode n f).hostLink = s.hostLink := rfl
@[simp] theorem onNode_transAt : (s.onNode n f).transAt = s.transAt := rfl
@[simp] theorem onNode_discVersion : (s.onNode n f).discVersion = s.discVersion := rfl
@[simp] theorem onNode_podSize : (s.onNode n f).podSize = s.podSize := rfl
@[simp] theorem onNode_pkg : (s.onNode n f).pkg = s.pkg := rfl
@[simp] theorem onNode_clk : (s.onNode n f).clk = s.clk := rfl
@[simp] theorem onNode_lsCap : (s.onNode n f).lsCap = s.lsCap := rfl
@[simp] theorem onNode_expMedia : (s.onNode n f).expMedia = s.expMedia := rfl
@[simp] theorem onNode_lpddrModules : (s.onNode n f).lpddrModules = s.lpddrModules := rfl
@[simp] theorem onNode_heap12 : (s.onNode n f).heap12 = s.heap12 := rfl
@[simp] theorem onNode_heap14 : (s.onNode n f).heap14 = s.heap14 := rfl
@[simp] theorem onNode_heap14Lost : (s.onNode n f).heap14Lost = s.heap14Lost := rfl
@[simp] theorem onNode_heap14Owed : (s.onNode n f).heap14Owed = s.heap14Owed := rfl
@[simp] theorem onNode_heapCaps : (s.onNode n f).heapCaps = s.heapCaps := rfl
@[simp] theorem onNode_quantum : (s.onNode n f).quantum = s.quantum := rfl
@[simp] theorem onNode_preWait : (s.onNode n f).preWait = s.preWait := rfl
@[simp] theorem onNode_mode : (s.onNode n f).mode = s.mode := rfl
@[simp] theorem onNode_ctxs : (s.onNode n f).ctxs = s.ctxs := rfl
@[simp] theorem onNode_status : (s.onNode n f).status = s.status := rfl
@[simp] theorem onNode_slotBytes : (s.onNode n f).slotBytes = s.slotBytes := rfl
@[simp] theorem onNode_slotOwner : (s.onNode n f).slotOwner = s.slotOwner := rfl
@[simp] theorem onNode_wgs : (s.onNode n f).wgs = s.wgs := rfl
@[simp] theorem onNode_sheaves : (s.onNode n f).sheaves = s.sheaves := rfl
@[simp] theorem onNode_cores : (s.onNode n f).cores = s.cores := rfl
@[simp] theorem onNode_slices : (s.onNode n f).slices = s.slices := rfl
@[simp] theorem onNode_alDie : (s.onNode n f).alDie = s.alDie := rfl
@[simp] theorem onNode_alHome : (s.onNode n f).alHome = s.alHome := rfl
@[simp] theorem onNode_win : (s.onNode n f).win = s.win := rfl
@[simp] theorem onNode_winNext : (s.onNode n f).winNext = s.winNext := rfl
@[simp] theorem onNode_rels : (s.onNode n f).rels = s.rels := rfl
@[simp] theorem onNode_net : (s.onNode n f).net = s.net := rfl
@[simp] theorem onNode_granted : (s.onNode n f).granted = s.granted := rfl
@[simp] theorem onNode_ls : (s.onNode n f).ls = s.ls := rfl
@[simp] theorem onNode_lsTag : (s.onNode n f).lsTag = s.lsTag := rfl
@[simp] theorem onNode_lsPoison : (s.onNode n f).lsPoison = s.lsPoison := rfl
@[simp] theorem onNode_bos : (s.onNode n f).bos = s.bos := rfl
@[simp] theorem onNode_slotMem : (s.onNode n f).slotMem = s.slotMem := rfl
@[simp] theorem onNode_slotTag : (s.onNode n f).slotTag = s.slotTag := rfl
@[simp] theorem onNode_tileMem : (s.onNode n f).tileMem = s.tileMem := rfl
@[simp] theorem onNode_slotPoison : (s.onNode n f).slotPoison = s.slotPoison := rfl
@[simp] theorem onNode_mem : (s.onNode n f).mem = s.mem := rfl
@[simp] theorem onNode_memTag : (s.onNode n f).memTag = s.memTag := rfl
@[simp] theorem onNode_memPoison : (s.onNode n f).memPoison = s.memPoison := rfl
@[simp] theorem onNode_msc : (s.onNode n f).msc = s.msc := rfl
@[simp] theorem onNode_tc : (s.onNode n f).tc = s.tc := rfl
@[simp] theorem onNode_pend : (s.onNode n f).pend = s.pend := rfl
@[simp] theorem onNode_released : (s.onNode n f).released = s.released := rfl
@[simp] theorem onNode_fq : (s.onNode n f).fq = s.fq := rfl
@[simp] theorem onNode_frames : (s.onNode n f).frames = s.frames := rfl
@[simp] theorem onNode_hubMarks : (s.onNode n f).hubMarks = s.hubMarks := rfl
@[simp] theorem onNode_xls : (s.onNode n f).xls = s.xls := rfl
@[simp] theorem onNode_podOut : (s.onNode n f).podOut = s.podOut := rfl
@[simp] theorem onNode_podMarks : (s.onNode n f).podMarks = s.podMarks := rfl
@[simp] theorem onNode_reports : (s.onNode n f).reports = s.reports := rfl
@[simp] theorem onNode_hostReads : (s.onNode n f).hostReads = s.hostReads := rfl
@[simp] theorem onNode_attested : (s.onNode n f).attested = s.attested := rfl
@[simp] theorem onNode_posted : (s.onNode n f).posted = s.posted := rfl
@[simp] theorem onNode_msiSent : (s.onNode n f).msiSent = s.msiSent := rfl
@[simp] theorem onNode_msiMask : (s.onNode n f).msiMask = s.msiMask := rfl
@[simp] theorem onNode_msiPend : (s.onNode n f).msiPend = s.msiPend := rfl
@[simp] theorem onNode_msiTable : (s.onNode n f).msiTable = s.msiTable := rfl
@[simp] theorem onNode_evtData : (s.onNode n f).evtData = s.evtData := rfl
@[simp] theorem onNode_aper : (s.onNode n f).aper = s.aper := rfl
@[simp] theorem onNode_aperNow : (s.onNode n f).aperNow = s.aperNow := rfl
@[simp] theorem onNode_ways : (s.onNode n f).ways = s.ways := rfl
@[simp] theorem onNode_hbm : (s.onNode n f).hbm = s.hbm := rfl
@[simp] theorem onNode_sramCe : (s.onNode n f).sramCe = s.sramCe := rfl
@[simp] theorem onNode_sramUe : (s.onNode n f).sramUe = s.sramUe := rfl
@[simp] theorem onNode_ports : (s.onNode n f).ports = s.ports := rfl
@[simp] theorem onNode_trk : (s.onNode n f).trk = s.trk := rfl
@[simp] theorem onNode_power : (s.onNode n f).power = s.power := rfl
@[simp] theorem onNode_scrubbed : (s.onNode n f).scrubbed = s.scrubbed := rfl
@[simp] theorem onNode_agenda : (s.onNode n f).agenda = s.agenda := rfl
@[simp] theorem onNode_cur : (s.onNode n f).cur = s.cur := rfl
@[simp] theorem onNode_free : (s.onNode n f).free = s.free := rfl
end

/-! tick -/

section
variable (s : State) (n : Nat)
@[simp] theorem tick_dev : (s.tick n).dev = s.dev := rfl
@[simp] theorem tick_variantL : (s.tick n).variantL = s.variantL := rfl
@[simp] theorem tick_fuses : (s.tick n).fuses = s.fuses := rfl
@[simp] theorem tick_flash : (s.tick n).flash = s.flash := rfl
@[simp] theorem tick_flashExtent : (s.tick n).flashExtent = s.flashExtent := rfl
@[simp] theorem tick_running : (s.tick n).running = s.running := rfl
@[simp] theorem tick_mbox : (s.tick n).mbox = s.mbox := rfl
@[simp] theorem tick_train : (s.tick n).train = s.train := rfl
@[simp] theorem tick_hostLink : (s.tick n).hostLink = s.hostLink := rfl
@[simp] theorem tick_transAt : (s.tick n).transAt = s.transAt := rfl
@[simp] theorem tick_discVersion : (s.tick n).discVersion = s.discVersion := rfl
@[simp] theorem tick_podSize : (s.tick n).podSize = s.podSize := rfl
@[simp] theorem tick_pkg : (s.tick n).pkg = s.pkg := rfl
@[simp] theorem tick_lsCap : (s.tick n).lsCap = s.lsCap := rfl
@[simp] theorem tick_expMedia : (s.tick n).expMedia = s.expMedia := rfl
@[simp] theorem tick_lpddrModules : (s.tick n).lpddrModules = s.lpddrModules := rfl
@[simp] theorem tick_heap12 : (s.tick n).heap12 = s.heap12 := rfl
@[simp] theorem tick_heap14 : (s.tick n).heap14 = s.heap14 := rfl
@[simp] theorem tick_heap14Lost : (s.tick n).heap14Lost = s.heap14Lost := rfl
@[simp] theorem tick_heap14Owed : (s.tick n).heap14Owed = s.heap14Owed := rfl
@[simp] theorem tick_heapCaps : (s.tick n).heapCaps = s.heapCaps := rfl
@[simp] theorem tick_quantum : (s.tick n).quantum = s.quantum := rfl
@[simp] theorem tick_preWait : (s.tick n).preWait = s.preWait := rfl
@[simp] theorem tick_mode : (s.tick n).mode = s.mode := rfl
@[simp] theorem tick_ctxs : (s.tick n).ctxs = s.ctxs := rfl
@[simp] theorem tick_nodes : (s.tick n).nodes = s.nodes := rfl
@[simp] theorem tick_status : (s.tick n).status = s.status := rfl
@[simp] theorem tick_slotBytes : (s.tick n).slotBytes = s.slotBytes := rfl
@[simp] theorem tick_slotOwner : (s.tick n).slotOwner = s.slotOwner := rfl
@[simp] theorem tick_wgs : (s.tick n).wgs = s.wgs := rfl
@[simp] theorem tick_sheaves : (s.tick n).sheaves = s.sheaves := rfl
@[simp] theorem tick_cores : (s.tick n).cores = s.cores := rfl
@[simp] theorem tick_slices : (s.tick n).slices = s.slices := rfl
@[simp] theorem tick_alDie : (s.tick n).alDie = s.alDie := rfl
@[simp] theorem tick_alHome : (s.tick n).alHome = s.alHome := rfl
@[simp] theorem tick_win : (s.tick n).win = s.win := rfl
@[simp] theorem tick_winNext : (s.tick n).winNext = s.winNext := rfl
@[simp] theorem tick_rels : (s.tick n).rels = s.rels := rfl
@[simp] theorem tick_net : (s.tick n).net = s.net := rfl
@[simp] theorem tick_granted : (s.tick n).granted = s.granted := rfl
@[simp] theorem tick_ls : (s.tick n).ls = s.ls := rfl
@[simp] theorem tick_lsTag : (s.tick n).lsTag = s.lsTag := rfl
@[simp] theorem tick_lsPoison : (s.tick n).lsPoison = s.lsPoison := rfl
@[simp] theorem tick_bos : (s.tick n).bos = s.bos := rfl
@[simp] theorem tick_slotMem : (s.tick n).slotMem = s.slotMem := rfl
@[simp] theorem tick_slotTag : (s.tick n).slotTag = s.slotTag := rfl
@[simp] theorem tick_tileMem : (s.tick n).tileMem = s.tileMem := rfl
@[simp] theorem tick_slotPoison : (s.tick n).slotPoison = s.slotPoison := rfl
@[simp] theorem tick_mem : (s.tick n).mem = s.mem := rfl
@[simp] theorem tick_memTag : (s.tick n).memTag = s.memTag := rfl
@[simp] theorem tick_memPoison : (s.tick n).memPoison = s.memPoison := rfl
@[simp] theorem tick_msc : (s.tick n).msc = s.msc := rfl
@[simp] theorem tick_tc : (s.tick n).tc = s.tc := rfl
@[simp] theorem tick_pend : (s.tick n).pend = s.pend := rfl
@[simp] theorem tick_released : (s.tick n).released = s.released := rfl
@[simp] theorem tick_fq : (s.tick n).fq = s.fq := rfl
@[simp] theorem tick_frames : (s.tick n).frames = s.frames := rfl
@[simp] theorem tick_hubMarks : (s.tick n).hubMarks = s.hubMarks := rfl
@[simp] theorem tick_xls : (s.tick n).xls = s.xls := rfl
@[simp] theorem tick_podOut : (s.tick n).podOut = s.podOut := rfl
@[simp] theorem tick_podMarks : (s.tick n).podMarks = s.podMarks := rfl
@[simp] theorem tick_reports : (s.tick n).reports = s.reports := rfl
@[simp] theorem tick_hostReads : (s.tick n).hostReads = s.hostReads := rfl
@[simp] theorem tick_attested : (s.tick n).attested = s.attested := rfl
@[simp] theorem tick_posted : (s.tick n).posted = s.posted := rfl
@[simp] theorem tick_msiSent : (s.tick n).msiSent = s.msiSent := rfl
@[simp] theorem tick_msiMask : (s.tick n).msiMask = s.msiMask := rfl
@[simp] theorem tick_msiPend : (s.tick n).msiPend = s.msiPend := rfl
@[simp] theorem tick_msiTable : (s.tick n).msiTable = s.msiTable := rfl
@[simp] theorem tick_evtData : (s.tick n).evtData = s.evtData := rfl
@[simp] theorem tick_aper : (s.tick n).aper = s.aper := rfl
@[simp] theorem tick_aperNow : (s.tick n).aperNow = s.aperNow := rfl
@[simp] theorem tick_ways : (s.tick n).ways = s.ways := rfl
@[simp] theorem tick_hbm : (s.tick n).hbm = s.hbm := rfl
@[simp] theorem tick_sramCe : (s.tick n).sramCe = s.sramCe := rfl
@[simp] theorem tick_sramUe : (s.tick n).sramUe = s.sramUe := rfl
@[simp] theorem tick_ports : (s.tick n).ports = s.ports := rfl
@[simp] theorem tick_trk : (s.tick n).trk = s.trk := rfl
@[simp] theorem tick_power : (s.tick n).power = s.power := rfl
@[simp] theorem tick_scrubbed : (s.tick n).scrubbed = s.scrubbed := rfl
@[simp] theorem tick_agenda : (s.tick n).agenda = s.agenda := rfl
@[simp] theorem tick_cur : (s.tick n).cur = s.cur := rfl
@[simp] theorem tick_free : (s.tick n).free = s.free := rfl
end

/-! setMemByte -/

section
variable (s : State) (a : Nat) (b : Byte)
@[simp] theorem setMemByte_dev : (s.setMemByte a b).dev = s.dev := rfl
@[simp] theorem setMemByte_variantL : (s.setMemByte a b).variantL = s.variantL := rfl
@[simp] theorem setMemByte_fuses : (s.setMemByte a b).fuses = s.fuses := rfl
@[simp] theorem setMemByte_flash : (s.setMemByte a b).flash = s.flash := rfl
@[simp] theorem setMemByte_flashExtent : (s.setMemByte a b).flashExtent = s.flashExtent := rfl
@[simp] theorem setMemByte_running : (s.setMemByte a b).running = s.running := rfl
@[simp] theorem setMemByte_mbox : (s.setMemByte a b).mbox = s.mbox := rfl
@[simp] theorem setMemByte_train : (s.setMemByte a b).train = s.train := rfl
@[simp] theorem setMemByte_hostLink : (s.setMemByte a b).hostLink = s.hostLink := rfl
@[simp] theorem setMemByte_transAt : (s.setMemByte a b).transAt = s.transAt := rfl
@[simp] theorem setMemByte_discVersion : (s.setMemByte a b).discVersion = s.discVersion := rfl
@[simp] theorem setMemByte_podSize : (s.setMemByte a b).podSize = s.podSize := rfl
@[simp] theorem setMemByte_pkg : (s.setMemByte a b).pkg = s.pkg := rfl
@[simp] theorem setMemByte_clk : (s.setMemByte a b).clk = s.clk := rfl
@[simp] theorem setMemByte_lsCap : (s.setMemByte a b).lsCap = s.lsCap := rfl
@[simp] theorem setMemByte_expMedia : (s.setMemByte a b).expMedia = s.expMedia := rfl
@[simp] theorem setMemByte_lpddrModules : (s.setMemByte a b).lpddrModules = s.lpddrModules := rfl
@[simp] theorem setMemByte_heap12 : (s.setMemByte a b).heap12 = s.heap12 := rfl
@[simp] theorem setMemByte_heap14 : (s.setMemByte a b).heap14 = s.heap14 := rfl
@[simp] theorem setMemByte_heap14Lost : (s.setMemByte a b).heap14Lost = s.heap14Lost := rfl
@[simp] theorem setMemByte_heap14Owed : (s.setMemByte a b).heap14Owed = s.heap14Owed := rfl
@[simp] theorem setMemByte_heapCaps : (s.setMemByte a b).heapCaps = s.heapCaps := rfl
@[simp] theorem setMemByte_quantum : (s.setMemByte a b).quantum = s.quantum := rfl
@[simp] theorem setMemByte_preWait : (s.setMemByte a b).preWait = s.preWait := rfl
@[simp] theorem setMemByte_mode : (s.setMemByte a b).mode = s.mode := rfl
@[simp] theorem setMemByte_ctxs : (s.setMemByte a b).ctxs = s.ctxs := rfl
@[simp] theorem setMemByte_nodes : (s.setMemByte a b).nodes = s.nodes := rfl
@[simp] theorem setMemByte_status : (s.setMemByte a b).status = s.status := rfl
@[simp] theorem setMemByte_slotBytes : (s.setMemByte a b).slotBytes = s.slotBytes := rfl
@[simp] theorem setMemByte_slotOwner : (s.setMemByte a b).slotOwner = s.slotOwner := rfl
@[simp] theorem setMemByte_wgs : (s.setMemByte a b).wgs = s.wgs := rfl
@[simp] theorem setMemByte_sheaves : (s.setMemByte a b).sheaves = s.sheaves := rfl
@[simp] theorem setMemByte_cores : (s.setMemByte a b).cores = s.cores := rfl
@[simp] theorem setMemByte_slices : (s.setMemByte a b).slices = s.slices := rfl
@[simp] theorem setMemByte_alDie : (s.setMemByte a b).alDie = s.alDie := rfl
@[simp] theorem setMemByte_alHome : (s.setMemByte a b).alHome = s.alHome := rfl
@[simp] theorem setMemByte_win : (s.setMemByte a b).win = s.win := rfl
@[simp] theorem setMemByte_winNext : (s.setMemByte a b).winNext = s.winNext := rfl
@[simp] theorem setMemByte_rels : (s.setMemByte a b).rels = s.rels := rfl
@[simp] theorem setMemByte_net : (s.setMemByte a b).net = s.net := rfl
@[simp] theorem setMemByte_granted : (s.setMemByte a b).granted = s.granted := rfl
@[simp] theorem setMemByte_ls : (s.setMemByte a b).ls = s.ls := rfl
@[simp] theorem setMemByte_lsTag : (s.setMemByte a b).lsTag = s.lsTag := rfl
@[simp] theorem setMemByte_lsPoison : (s.setMemByte a b).lsPoison = s.lsPoison := rfl
@[simp] theorem setMemByte_bos : (s.setMemByte a b).bos = s.bos := rfl
@[simp] theorem setMemByte_slotMem : (s.setMemByte a b).slotMem = s.slotMem := rfl
@[simp] theorem setMemByte_slotTag : (s.setMemByte a b).slotTag = s.slotTag := rfl
@[simp] theorem setMemByte_tileMem : (s.setMemByte a b).tileMem = s.tileMem := rfl
@[simp] theorem setMemByte_slotPoison : (s.setMemByte a b).slotPoison = s.slotPoison := rfl
@[simp] theorem setMemByte_memTag : (s.setMemByte a b).memTag = s.memTag := rfl
@[simp] theorem setMemByte_memPoison : (s.setMemByte a b).memPoison = s.memPoison := rfl
@[simp] theorem setMemByte_msc : (s.setMemByte a b).msc = s.msc := rfl
@[simp] theorem setMemByte_tc : (s.setMemByte a b).tc = s.tc := rfl
@[simp] theorem setMemByte_pend : (s.setMemByte a b).pend = s.pend := rfl
@[simp] theorem setMemByte_released : (s.setMemByte a b).released = s.released := rfl
@[simp] theorem setMemByte_fq : (s.setMemByte a b).fq = s.fq := rfl
@[simp] theorem setMemByte_frames : (s.setMemByte a b).frames = s.frames := rfl
@[simp] theorem setMemByte_hubMarks : (s.setMemByte a b).hubMarks = s.hubMarks := rfl
@[simp] theorem setMemByte_xls : (s.setMemByte a b).xls = s.xls := rfl
@[simp] theorem setMemByte_podOut : (s.setMemByte a b).podOut = s.podOut := rfl
@[simp] theorem setMemByte_podMarks : (s.setMemByte a b).podMarks = s.podMarks := rfl
@[simp] theorem setMemByte_reports : (s.setMemByte a b).reports = s.reports := rfl
@[simp] theorem setMemByte_hostReads : (s.setMemByte a b).hostReads = s.hostReads := rfl
@[simp] theorem setMemByte_attested : (s.setMemByte a b).attested = s.attested := rfl
@[simp] theorem setMemByte_posted : (s.setMemByte a b).posted = s.posted := rfl
@[simp] theorem setMemByte_msiSent : (s.setMemByte a b).msiSent = s.msiSent := rfl
@[simp] theorem setMemByte_msiMask : (s.setMemByte a b).msiMask = s.msiMask := rfl
@[simp] theorem setMemByte_msiPend : (s.setMemByte a b).msiPend = s.msiPend := rfl
@[simp] theorem setMemByte_msiTable : (s.setMemByte a b).msiTable = s.msiTable := rfl
@[simp] theorem setMemByte_evtData : (s.setMemByte a b).evtData = s.evtData := rfl
@[simp] theorem setMemByte_aper : (s.setMemByte a b).aper = s.aper := rfl
@[simp] theorem setMemByte_aperNow : (s.setMemByte a b).aperNow = s.aperNow := rfl
@[simp] theorem setMemByte_ways : (s.setMemByte a b).ways = s.ways := rfl
@[simp] theorem setMemByte_hbm : (s.setMemByte a b).hbm = s.hbm := rfl
@[simp] theorem setMemByte_sramCe : (s.setMemByte a b).sramCe = s.sramCe := rfl
@[simp] theorem setMemByte_sramUe : (s.setMemByte a b).sramUe = s.sramUe := rfl
@[simp] theorem setMemByte_ports : (s.setMemByte a b).ports = s.ports := rfl
@[simp] theorem setMemByte_trk : (s.setMemByte a b).trk = s.trk := rfl
@[simp] theorem setMemByte_power : (s.setMemByte a b).power = s.power := rfl
@[simp] theorem setMemByte_scrubbed : (s.setMemByte a b).scrubbed = s.scrubbed := rfl
@[simp] theorem setMemByte_agenda : (s.setMemByte a b).agenda = s.agenda := rfl
@[simp] theorem setMemByte_cur : (s.setMemByte a b).cur = s.cur := rfl
@[simp] theorem setMemByte_free : (s.setMemByte a b).free = s.free := rfl
end

/-! setLsByte -/

section
variable (s : State) (c a : Nat) (b : Byte)
@[simp] theorem setLsByte_dev : (s.setLsByte c a b).dev = s.dev := rfl
@[simp] theorem setLsByte_variantL : (s.setLsByte c a b).variantL = s.variantL := rfl
@[simp] theorem setLsByte_fuses : (s.setLsByte c a b).fuses = s.fuses := rfl
@[simp] theorem setLsByte_flash : (s.setLsByte c a b).flash = s.flash := rfl
@[simp] theorem setLsByte_flashExtent : (s.setLsByte c a b).flashExtent = s.flashExtent := rfl
@[simp] theorem setLsByte_running : (s.setLsByte c a b).running = s.running := rfl
@[simp] theorem setLsByte_mbox : (s.setLsByte c a b).mbox = s.mbox := rfl
@[simp] theorem setLsByte_train : (s.setLsByte c a b).train = s.train := rfl
@[simp] theorem setLsByte_hostLink : (s.setLsByte c a b).hostLink = s.hostLink := rfl
@[simp] theorem setLsByte_transAt : (s.setLsByte c a b).transAt = s.transAt := rfl
@[simp] theorem setLsByte_discVersion : (s.setLsByte c a b).discVersion = s.discVersion := rfl
@[simp] theorem setLsByte_podSize : (s.setLsByte c a b).podSize = s.podSize := rfl
@[simp] theorem setLsByte_pkg : (s.setLsByte c a b).pkg = s.pkg := rfl
@[simp] theorem setLsByte_clk : (s.setLsByte c a b).clk = s.clk := rfl
@[simp] theorem setLsByte_lsCap : (s.setLsByte c a b).lsCap = s.lsCap := rfl
@[simp] theorem setLsByte_expMedia : (s.setLsByte c a b).expMedia = s.expMedia := rfl
@[simp] theorem setLsByte_lpddrModules : (s.setLsByte c a b).lpddrModules = s.lpddrModules := rfl
@[simp] theorem setLsByte_heap12 : (s.setLsByte c a b).heap12 = s.heap12 := rfl
@[simp] theorem setLsByte_heap14 : (s.setLsByte c a b).heap14 = s.heap14 := rfl
@[simp] theorem setLsByte_heap14Lost : (s.setLsByte c a b).heap14Lost = s.heap14Lost := rfl
@[simp] theorem setLsByte_heap14Owed : (s.setLsByte c a b).heap14Owed = s.heap14Owed := rfl
@[simp] theorem setLsByte_heapCaps : (s.setLsByte c a b).heapCaps = s.heapCaps := rfl
@[simp] theorem setLsByte_quantum : (s.setLsByte c a b).quantum = s.quantum := rfl
@[simp] theorem setLsByte_preWait : (s.setLsByte c a b).preWait = s.preWait := rfl
@[simp] theorem setLsByte_mode : (s.setLsByte c a b).mode = s.mode := rfl
@[simp] theorem setLsByte_ctxs : (s.setLsByte c a b).ctxs = s.ctxs := rfl
@[simp] theorem setLsByte_nodes : (s.setLsByte c a b).nodes = s.nodes := rfl
@[simp] theorem setLsByte_status : (s.setLsByte c a b).status = s.status := rfl
@[simp] theorem setLsByte_slotBytes : (s.setLsByte c a b).slotBytes = s.slotBytes := rfl
@[simp] theorem setLsByte_slotOwner : (s.setLsByte c a b).slotOwner = s.slotOwner := rfl
@[simp] theorem setLsByte_wgs : (s.setLsByte c a b).wgs = s.wgs := rfl
@[simp] theorem setLsByte_sheaves : (s.setLsByte c a b).sheaves = s.sheaves := rfl
@[simp] theorem setLsByte_cores : (s.setLsByte c a b).cores = s.cores := rfl
@[simp] theorem setLsByte_slices : (s.setLsByte c a b).slices = s.slices := rfl
@[simp] theorem setLsByte_alDie : (s.setLsByte c a b).alDie = s.alDie := rfl
@[simp] theorem setLsByte_alHome : (s.setLsByte c a b).alHome = s.alHome := rfl
@[simp] theorem setLsByte_win : (s.setLsByte c a b).win = s.win := rfl
@[simp] theorem setLsByte_winNext : (s.setLsByte c a b).winNext = s.winNext := rfl
@[simp] theorem setLsByte_rels : (s.setLsByte c a b).rels = s.rels := rfl
@[simp] theorem setLsByte_net : (s.setLsByte c a b).net = s.net := rfl
@[simp] theorem setLsByte_granted : (s.setLsByte c a b).granted = s.granted := rfl
@[simp] theorem setLsByte_lsTag : (s.setLsByte c a b).lsTag = s.lsTag := rfl
@[simp] theorem setLsByte_lsPoison : (s.setLsByte c a b).lsPoison = s.lsPoison := rfl
@[simp] theorem setLsByte_bos : (s.setLsByte c a b).bos = s.bos := rfl
@[simp] theorem setLsByte_slotMem : (s.setLsByte c a b).slotMem = s.slotMem := rfl
@[simp] theorem setLsByte_slotTag : (s.setLsByte c a b).slotTag = s.slotTag := rfl
@[simp] theorem setLsByte_tileMem : (s.setLsByte c a b).tileMem = s.tileMem := rfl
@[simp] theorem setLsByte_slotPoison : (s.setLsByte c a b).slotPoison = s.slotPoison := rfl
@[simp] theorem setLsByte_mem : (s.setLsByte c a b).mem = s.mem := rfl
@[simp] theorem setLsByte_memTag : (s.setLsByte c a b).memTag = s.memTag := rfl
@[simp] theorem setLsByte_memPoison : (s.setLsByte c a b).memPoison = s.memPoison := rfl
@[simp] theorem setLsByte_msc : (s.setLsByte c a b).msc = s.msc := rfl
@[simp] theorem setLsByte_tc : (s.setLsByte c a b).tc = s.tc := rfl
@[simp] theorem setLsByte_pend : (s.setLsByte c a b).pend = s.pend := rfl
@[simp] theorem setLsByte_released : (s.setLsByte c a b).released = s.released := rfl
@[simp] theorem setLsByte_fq : (s.setLsByte c a b).fq = s.fq := rfl
@[simp] theorem setLsByte_frames : (s.setLsByte c a b).frames = s.frames := rfl
@[simp] theorem setLsByte_hubMarks : (s.setLsByte c a b).hubMarks = s.hubMarks := rfl
@[simp] theorem setLsByte_xls : (s.setLsByte c a b).xls = s.xls := rfl
@[simp] theorem setLsByte_podOut : (s.setLsByte c a b).podOut = s.podOut := rfl
@[simp] theorem setLsByte_podMarks : (s.setLsByte c a b).podMarks = s.podMarks := rfl
@[simp] theorem setLsByte_reports : (s.setLsByte c a b).reports = s.reports := rfl
@[simp] theorem setLsByte_hostReads : (s.setLsByte c a b).hostReads = s.hostReads := rfl
@[simp] theorem setLsByte_attested : (s.setLsByte c a b).attested = s.attested := rfl
@[simp] theorem setLsByte_posted : (s.setLsByte c a b).posted = s.posted := rfl
@[simp] theorem setLsByte_msiSent : (s.setLsByte c a b).msiSent = s.msiSent := rfl
@[simp] theorem setLsByte_msiMask : (s.setLsByte c a b).msiMask = s.msiMask := rfl
@[simp] theorem setLsByte_msiPend : (s.setLsByte c a b).msiPend = s.msiPend := rfl
@[simp] theorem setLsByte_msiTable : (s.setLsByte c a b).msiTable = s.msiTable := rfl
@[simp] theorem setLsByte_evtData : (s.setLsByte c a b).evtData = s.evtData := rfl
@[simp] theorem setLsByte_aper : (s.setLsByte c a b).aper = s.aper := rfl
@[simp] theorem setLsByte_aperNow : (s.setLsByte c a b).aperNow = s.aperNow := rfl
@[simp] theorem setLsByte_ways : (s.setLsByte c a b).ways = s.ways := rfl
@[simp] theorem setLsByte_hbm : (s.setLsByte c a b).hbm = s.hbm := rfl
@[simp] theorem setLsByte_sramCe : (s.setLsByte c a b).sramCe = s.sramCe := rfl
@[simp] theorem setLsByte_sramUe : (s.setLsByte c a b).sramUe = s.sramUe := rfl
@[simp] theorem setLsByte_ports : (s.setLsByte c a b).ports = s.ports := rfl
@[simp] theorem setLsByte_trk : (s.setLsByte c a b).trk = s.trk := rfl
@[simp] theorem setLsByte_power : (s.setLsByte c a b).power = s.power := rfl
@[simp] theorem setLsByte_scrubbed : (s.setLsByte c a b).scrubbed = s.scrubbed := rfl
@[simp] theorem setLsByte_agenda : (s.setLsByte c a b).agenda = s.agenda := rfl
@[simp] theorem setLsByte_cur : (s.setLsByte c a b).cur = s.cur := rfl
@[simp] theorem setLsByte_free : (s.setLsByte c a b).free = s.free := rfl
end

end Sys2Proof.Machine
end

