-- ==== Sys2Proof/Laws/Issue.lean ====
section
/-! SUPPORT. An instruction that meets every check before its effect has its effect. -/

namespace Sys2Proof.Machine

@[simp] theorem setSheaf_setSheaf (s : State) (k : Nat) (x y : Sheaf) : (s.setSheaf k x).setSheaf k y = s.setSheaf k y := by
  simp [State.setSheaf]

@[simp] theorem sheaf_setSheaf (s : State) (k : Nat) (x : Sheaf) : (s.setSheaf k x).sheaf k = some x := by
  simp [State.sheaf, State.setSheaf]

theorem sheaf_setSheaf_ne (s : State) {k j : Nat} (x : Sheaf) (h : j ≠ k) : (s.setSheaf k x).sheaf j = s.sheaf j :=
  mapFind_insert_ne s.sheaves x h

theorem onSheaf_eq {s : State} {k : Nat} {sh : Sheaf} (f : Sheaf → Sheaf) (h : s.sheaf k = some sh) :
    s.onSheaf k f = s.setSheaf k (f sh) := by
  unfold State.onSheaf State.setSheaf
  rw [mapModify_eq f h]

section
variable (sh : Sheaf)
@[simp] theorem atHead_wg : sh.atHead.wg = sh.wg := by unfold Sheaf.atHead; split <;> rfl
@[simp] theorem atHead_idx : sh.atHead.idx = sh.idx := by unfold Sheaf.atHead; split <;> rfl
@[simp] theorem atHead_pc : sh.atHead.pc = sh.pc := by unfold Sheaf.atHead; split <;> rfl
@[simp] theorem atHead_m : sh.atHead.m = sh.m := by unfold Sheaf.atHead; split <;> rfl
@[simp] theorem atHead_live : sh.atHead.live = sh.live := by unfold Sheaf.atHead; split <;> rfl
@[simp] theorem atHead_stack : sh.atHead.stack = sh.stack := by unfold Sheaf.atHead; split <;> rfl
@[simp] theorem atHead_spilled : sh.atHead.spilled = sh.spilled := by unfold Sheaf.atHead; split <;> rfl
@[simp] theorem atHead_regs : sh.atHead.regs = sh.regs := by unfold Sheaf.atHead; split <;> rfl
@[simp] theorem atHead_rpoison : sh.atHead.rpoison = sh.rpoison := by unfold Sheaf.atHead; split <;> rfl
@[simp] theorem atHead_cls : sh.atHead.cls = sh.cls := by unfold Sheaf.atHead; split <;> rfl
@[simp] theorem atHead_pend : sh.atHead.pend = sh.pend := by unfold Sheaf.atHead; split <;> rfl
@[simp] theorem atHead_cCopy : sh.atHead.cCopy = sh.cCopy := by unfold Sheaf.atHead; split <;> rfl
@[simp] theorem atHead_cMatrix : sh.atHead.cMatrix = sh.cMatrix := by unfold Sheaf.atHead; split <;> rfl
@[simp] theorem atHead_cCode : sh.atHead.cCode = sh.cCode := by unfold Sheaf.atHead; split <;> rfl
@[simp] theorem atHead_cRemote : sh.atHead.cRemote = sh.cRemote := by unfold Sheaf.atHead; split <;> rfl
@[simp] theorem atHead_errCopy : sh.atHead.errCopy = sh.errCopy := by unfold Sheaf.atHead; split <;> rfl
@[simp] theorem atHead_errMatrix : sh.atHead.errMatrix = sh.errMatrix := by unfold Sheaf.atHead; split <;> rfl
@[simp] theorem atHead_chain : sh.atHead.chain = sh.chain := by unfold Sheaf.atHead; split <;> rfl
@[simp] theorem atHead_conv : sh.atHead.conv = sh.conv := by unfold Sheaf.atHead; split <;> rfl
@[simp] theorem atHead_level : sh.atHead.level = sh.level := by unfold Sheaf.atHead; split <;> rfl
@[simp] theorem atHead_trap : sh.atHead.trap = sh.trap := by unfold Sheaf.atHead; split <;> rfl
@[simp] theorem atHead_handler : sh.atHead.handler = sh.handler := by unfold Sheaf.atHead; split <;> rfl
@[simp] theorem atHead_ctxAsid : sh.atHead.ctxAsid = sh.ctxAsid := by unfold Sheaf.atHead; split <;> rfl
@[simp] theorem atHead_wait : sh.atHead.wait = sh.wait := by unfold Sheaf.atHead; split <;> rfl
@[simp] theorem atHead_parks : sh.atHead.parks = sh.parks := by unfold Sheaf.atHead; split <;> rfl
@[simp] theorem atHead_replays : sh.atHead.replays = sh.replays := by unfold Sheaf.atHead; split <;> rfl
@[simp] theorem atHead_respTraps : sh.atHead.respTraps = sh.respTraps := by unfold Sheaf.atHead; split <;> rfl
@[simp] theorem atHead_force : sh.atHead.force = sh.force := by unfold Sheaf.atHead; split <;> rfl
@[simp] theorem atHead_fbuf : sh.atHead.fbuf = sh.fbuf := by unfold Sheaf.atHead; split <;> rfl
@[simp] theorem atHead_fetching : sh.atHead.fetching = sh.fetching := by unfold Sheaf.atHead; split <;> rfl
@[simp] theorem atHead_readyAt : sh.atHead.readyAt = sh.readyAt := by unfold Sheaf.atHead; split <;> rfl
@[simp] theorem atHead_lastOp : sh.atHead.lastOp = sh.lastOp := by unfold Sheaf.atHead; split <;> rfl
@[simp] theorem atHead_yielded : sh.atHead.yielded = sh.yielded := by unfold Sheaf.atHead; split <;> rfl
@[simp] theorem atHead_bpSkip : sh.atHead.bpSkip = sh.bpSkip := by unfold Sheaf.atHead; split <;> rfl
@[simp] theorem atHead_fresh : sh.atHead.fresh = sh.fresh := by unfold Sheaf.atHead; split <;> rfl
@[simp] theorem atHead_halted : sh.atHead.halted = sh.halted := by unfold Sheaf.atHead; split <;> rfl
@[simp] theorem atHead_stopped : sh.atHead.stopped = sh.stopped := by unfold Sheaf.atHead; split <;> rfl
@[simp] theorem atHead_ended : sh.atHead.ended = sh.ended := by unfold Sheaf.atHead; split <;> rfl
@[simp] theorem issued_wg : sh.issued.wg = sh.wg := by unfold Sheaf.issued Sheaf.seqFetch; split <;> simp
@[simp] theorem issued_idx : sh.issued.idx = sh.idx := by unfold Sheaf.issued Sheaf.seqFetch; split <;> simp
@[simp] theorem issued_pc : sh.issued.pc = sh.pc := by unfold Sheaf.issued Sheaf.seqFetch; split <;> simp
@[simp] theorem issued_m : sh.issued.m = sh.m := by unfold Sheaf.issued Sheaf.seqFetch; split <;> simp
@[simp] theorem issued_live : sh.issued.live = sh.live := by unfold Sheaf.issued Sheaf.seqFetch; split <;> simp
@[simp] theorem issued_stack : sh.issued.stack = sh.stack := by unfold Sheaf.issued Sheaf.seqFetch; split <;> simp
@[simp] theorem issued_spilled : sh.issued.spilled = sh.spilled := by unfold Sheaf.issued Sheaf.seqFetch; split <;> simp
@[simp] theorem issued_regs : sh.issued.regs = sh.regs := by unfold Sheaf.issued Sheaf.seqFetch; split <;> simp
@[simp] theorem issued_rpoison : sh.issued.rpoison = sh.rpoison := by unfold Sheaf.issued Sheaf.seqFetch; split <;> simp
@[simp] theorem issued_cls : sh.issued.cls = sh.cls := by unfold Sheaf.issued Sheaf.seqFetch; split <;> simp
@[simp] theorem issued_pend : sh.issued.pend = sh.pend := by unfold Sheaf.issued Sheaf.seqFetch; split <;> simp
@[simp] theorem issued_cCopy : sh.issued.cCopy = sh.cCopy := by unfold Sheaf.issued Sheaf.seqFetch; split <;> simp
@[simp] theorem issued_cMatrix : sh.issued.cMatrix = sh.cMatrix := by unfold Sheaf.issued Sheaf.seqFetch; split <;> simp
@[simp] theorem issued_cCode : sh.issued.cCode = sh.cCode := by unfold Sheaf.issued Sheaf.seqFetch; split <;> simp
@[simp] theorem issued_cRemote : sh.issued.cRemote = sh.cRemote := by unfold Sheaf.issued Sheaf.seqFetch; split <;> simp
@[simp] theorem issued_errCopy : sh.issued.errCopy = sh.errCopy := by unfold Sheaf.issued Sheaf.seqFetch; split <;> simp
@[simp] theorem issued_errMatrix : sh.issued.errMatrix = sh.errMatrix := by unfold Sheaf.issued Sheaf.seqFetch; split <;> simp
@[simp] theorem issued_chain : sh.issued.chain = sh.chain := by unfold Sheaf.issued Sheaf.seqFetch; split <;> simp
@[simp] theorem issued_conv : sh.issued.conv = sh.conv := by unfold Sheaf.issued Sheaf.seqFetch; split <;> simp
@[simp] theorem issued_level : sh.issued.level = sh.level := by unfold Sheaf.issued Sheaf.seqFetch; split <;> simp
@[simp] theorem issued_trap : sh.issued.trap = sh.trap := by unfold Sheaf.issued Sheaf.seqFetch; split <;> simp
@[simp] theorem issued_handler : sh.issued.handler = sh.handler := by unfold Sheaf.issued Sheaf.seqFetch; split <;> simp
@[simp] theorem issued_ctxAsid : sh.issued.ctxAsid = sh.ctxAsid := by unfold Sheaf.issued Sheaf.seqFetch; split <;> simp
@[simp] theorem issued_wait : sh.issued.wait = sh.wait := by unfold Sheaf.issued Sheaf.seqFetch; split <;> simp
@[simp] theorem issued_parks : sh.issued.parks = sh.parks := by unfold Sheaf.issued Sheaf.seqFetch; split <;> simp
@[simp] theorem issued_replays : sh.issued.replays = sh.replays := by unfold Sheaf.issued Sheaf.seqFetch; split <;> simp
@[simp] theorem issued_respTraps : sh.issued.respTraps = sh.respTraps := by unfold Sheaf.issued Sheaf.seqFetch; split <;> simp
@[simp] theorem issued_force : sh.issued.force = sh.force := by unfold Sheaf.issued Sheaf.seqFetch; split <;> simp
@[simp] theorem issued_fbuf : sh.issued.fbuf = sh.fbuf := by unfold Sheaf.issued Sheaf.seqFetch; split <;> simp
@[simp] theorem issued_fetching : sh.issued.fetching = sh.fetching := by unfold Sheaf.issued Sheaf.seqFetch; split <;> simp
@[simp] theorem issued_readyAt : sh.issued.readyAt = sh.readyAt := by unfold Sheaf.issued Sheaf.seqFetch; split <;> simp
@[simp] theorem issued_lastOp : sh.issued.lastOp = sh.lastOp := by unfold Sheaf.issued Sheaf.seqFetch; split <;> simp
@[simp] theorem issued_yielded : sh.issued.yielded = sh.yielded := by unfold Sheaf.issued Sheaf.seqFetch; split <;> simp
@[simp] theorem issued_bpSkip : sh.issued.bpSkip = sh.bpSkip := by unfold Sheaf.issued Sheaf.seqFetch; split <;> simp
@[simp] theorem issued_fresh : sh.issued.fresh = sh.fresh := by unfold Sheaf.issued Sheaf.seqFetch; split <;> simp
@[simp] theorem issued_halted : sh.issued.halted = sh.halted := by unfold Sheaf.issued Sheaf.seqFetch; split <;> simp
@[simp] theorem issued_stopped : sh.issued.stopped = sh.stopped := by unfold Sheaf.issued Sheaf.seqFetch; split <;> simp
@[simp] theorem issued_ended : sh.issued.ended = sh.ended := by unfold Sheaf.issued Sheaf.seqFetch; split <;> simp
end

/-- The way of an instruction that meets the checks. -/
theorem issueGeneral_go {s : State} {i : Instr} {o : Ops} {f : Form} {k : Nat} {sh : Sheaf} {w : Workgroup}
    (h : Starts s i o f k sh w) : issueGeneral s i o f = .go (startCtx s o f k sh w) := by
  have hwin := h.window
  unfold issueGeneral startCtx
  simp only [h.cur, h.sheaf, h.wg, h.issues, h.board, h.decode, h.operands, h.latches, h.clean, Bool.not_true, Bool.or_self,
    Bool.false_eq_true, if_false, bne_self_eq_false, atHead_level]
  split
  · next he => simp at he; simp [he]
  · next he =>
    have he' : execMask sh.atHead o.pn o.p ≠ 0 := by simpa using he
    simp only [he', false_or] at hwin
    split
    · next r hr => rw [hr] at hwin; simp [ExtValue.ok] at hwin
    · rfl

theorem runGeneral_go {s : State} {i : Instr} {o : Ops} {f : Form} {k : Nat} {sh : Sheaf} {w : Workgroup}
    (h : Starts s i o f k sh w) (g : Ctx → Form → State) : runGeneral s i g = .next (g (startCtx s o f k sh w) f) := by
  simp only [runGeneral, h.form, issueGeneral_go h]

theorem maskOf_eq_zero {p : Nat → Bool} (h : ∀ t, t < 32 → p t = false) : maskOf p = 0 := by
  have : (List.range 32).foldl (fun s i => if p i then s + 2 ^ i else s) 0 = 0 := by
    have aux : ∀ (l : List Nat), (∀ t ∈ l, p t = false) → l.foldl (fun s i => if p i then s + 2 ^ i else s) 0 = 0 := by
      intro l
      induction l with
      | nil => simp
      | cons a l ih => intro hl; simp [hl a (by simp)]; exact ih (fun t ht => hl t (by simp [ht]))
    exact aux _ (fun t ht => h t (List.mem_range.mp ht))
  unfold maskOf
  rw [this]; rfl

/-- The way of a branch-form instruction that meets the checks. -/
theorem issueBranch_go {s : State} {i : Instr} {o : BrOps} {k : Nat} {sh : Sheaf} {w : Workgroup}
    (h : StartsBranch s i o k sh w) : issueBranch s i o = .go (branchCtx s o k sh w) := by
  have hb : (o.p != 0 && sh.pend.getLsbD o.p.toNat) = false := by
    rcases h.board with h | h <;> simp [h]
  have ho : (o.p != 0 && decide (w.nReg ≤ o.p.toNat)) = false := by
    rcases h.operands with h | h
    · simp [h]
    · simp [Nat.not_le.mpr h]
  have hc : maskOf (fun t => o.p != 0 && sh.force.isNone && sh.m.getLsbD t && sh.rpoison.contains (o.p.toNat * 32 + t)) = 0 := by
    refine maskOf_eq_zero (fun t ht => ?_)
    rcases h.clean with h | h | h
    · simp [h]
    · cases hf : sh.force <;> simp_all
    · cases hm : sh.m.getLsbD t
      · simp
      · rw [h t ht hm]; simp
  unfold issueBranch branchCtx
  simp only [h.cur, h.sheaf, h.wg, h.issues, hb, h.fields, ho, hc, Bool.not_true, Bool.or_self, Bool.false_eq_true, if_false,
    bne_self_eq_false, atHead_force, atHead_m, atHead_rpoison]

theorem runBranch_go {s : State} {i : Instr} {o : BrOps} {k : Nat} {sh : Sheaf} {w : Workgroup}
    (h : StartsBranch s i o k sh w) (g : Ctx → State) : runBranch s i o g = .next (g (branchCtx s o k sh w)) := by
  simp only [runBranch, issueBranch_go h]

end Sys2Proof.Machine
end

