-- ==== Sys2Proof/Laws/Lane.lean ====
section
/-! SUPPORT. What writing registers and latches does, and the one lemma about every lane instruction. -/

namespace Sys2Proof.Machine

theorem key_eq {r r' t t' : Nat} (ht : t < 32) (ht' : t' < 32) : r' * 32 + t' = r * 32 + t ↔ r' = r ∧ t' = t := by omega

theorem reg_setReg (sh : Sheaf) {r r' t t' : Nat} (v : Word) (ht : t < 32) (ht' : t' < 32) :
    (sh.setReg r t v).reg r' t' = if r' = r ∧ t' = t then v else sh.reg r' t' := by
  unfold Sheaf.setReg Sheaf.reg
  by_cases h : r' * 32 + t' = r * 32 + t
  · simp only [(key_eq ht ht').mp h, and_self, if_true]
    simp
  · have h' : ¬ (r' = r ∧ t' = t) := fun e => h ((key_eq ht ht').mpr e)
    simp only [h', if_false]
    exact mapGetD_putD_ne _ _ _ _ h

theorem span_cases (w : Width) : w.span = 1 ∨ w.span = 2 ∨ w.span = 4 := by cases w <;> simp [Width.span]

/-- A wide write, register by register. -/
theorem reg_setWide (sh : Sheaf) (w : Width) {r r' t t' : Nat} (v : BitVec 128) (ht : t < 32) (ht' : t' < 32) :
    (sh.setWide w r t v).reg r' t' =
      if t' = t ∧ r ≤ r' ∧ r' < r + w.span then v.extractLsb' (32 * (r' - r)) 32 else sh.reg r' t' := by
  unfold Sheaf.setWide
  have aux : ∀ n, ((List.range n).foldl (fun sh i => sh.setReg (r + i) t (v.extractLsb' (32 * i) 32)) sh).reg r' t' =
      if t' = t ∧ r ≤ r' ∧ r' < r + n then v.extractLsb' (32 * (r' - r)) 32 else sh.reg r' t' := by
    intro n
    induction n with
    | zero => simp <;> omega
    | succ n ih =>
      rw [List.range_succ, List.foldl_append]
      simp only [List.foldl_cons, List.foldl_nil]
      rw [reg_setReg _ _ ht ht', ih]
      by_cases h1 : r' = r + n ∧ t' = t
      · simp [h1]
      · simp only [h1, if_false]
        have : (t' = t ∧ r ≤ r' ∧ r' < r + (n + 1)) ↔ (t' = t ∧ r ≤ r' ∧ r' < r + n) := by omega
        simp only [this]
  exact aux w.span

@[simp] theorem setLatch_reg (sh : Sheaf) (l : Bool) (t : Nat) (v : DWord) (r u : Nat) : (sh.setLatch l t v).reg r u = sh.reg r u := by
  cases l <;> rfl

theorem latch_setLatch (sh : Sheaf) (l l' : Bool) (t t' : Nat) (v : DWord) :
    (sh.setLatch l t v).latch l' t' = if l' = l ∧ t' = t then v else sh.latch l' t' := by
  cases l <;> cases l' <;> simp only [Sheaf.setLatch, Sheaf.latch] <;> by_cases h : t' = t <;>
    simp [h, mapGetD_putD_ne]

/-- The parts of a sheaf that writing results may change. -/
def SameBut (sh sh' : Sheaf) : Prop :=
  ∃ regs rp cls l0 l1 v0 v1, sh' = { sh with regs := regs, rpoison := rp, cls := cls, latch0 := l0, latch1 := l1, valid0 := v0, valid1 := v1 }

theorem SameBut.refl (sh : Sheaf) : SameBut sh sh := ⟨_, _, _, _, _, _, _, rfl⟩
theorem SameBut.trans {a b c : Sheaf} (h : SameBut a b) (g : SameBut b c) : SameBut a c := by
  obtain ⟨_, _, _, _, _, _, _, rfl⟩ := h
  obtain ⟨_, _, _, _, _, _, _, rfl⟩ := g
  exact ⟨_, _, _, _, _, _, _, rfl⟩
theorem setReg_same (sh : Sheaf) (r t : Nat) (v : Word) : SameBut sh (sh.setReg r t v) := ⟨_, _, _, _, _, _, _, rfl⟩
theorem setLatch_same (sh : Sheaf) (l : Bool) (t : Nat) (v : DWord) : SameBut sh (sh.setLatch l t v) := by
  cases l <;> exact ⟨_, _, _, _, _, _, _, rfl⟩
theorem setClasses_same (sh : Sheaf) (rs : List Nat) (c : RegClass) : SameBut sh (sh.setClasses rs c) := ⟨_, _, _, _, _, _, _, rfl⟩

theorem foldl_same {α : Type} (g : Sheaf → α → Sheaf) (h : ∀ s a, SameBut s (g s a)) (l : List α) (sh : Sheaf) :
    SameBut sh (l.foldl g sh) := by
  induction l generalizing sh with
  | nil => exact .refl sh
  | cons a l ih => exact (h sh a).trans (ih _)

theorem setWide_same (sh : Sheaf) (w : Width) (r t : Nat) (v : BitVec 128) : SameBut sh (sh.setWide w r t v) :=
  foldl_same _ (fun s _ => setReg_same s _ _ _) _ sh

theorem result_same (sh : Sheaf) (o : Ops) (w : Width) (t : Nat) (v : BitVec 128) : SameBut sh (sh.result o w t v) := by
  unfold Sheaf.result
  refine SameBut.trans ?_ (setLatch_same _ _ _ _)
  split
  · exact .refl sh
  · exact setWide_same _ _ _ _ _

theorem results_same (sh : Sheaf) (o : Ops) (w : Width) (e : TMask) (v : Nat → DWord) : SameBut sh (sh.results o w e v) :=
  foldl_same _ (fun s t => result_same s o w t _) _ sh

@[simp] theorem setWide_latch (sh : Sheaf) (w : Width) (r t : Nat) (v : BitVec 128) (l : Bool) (u : Nat) :
    (sh.setWide w r t v).latch l u = sh.latch l u := by
  unfold Sheaf.setWide
  generalize List.range w.span = is
  induction is generalizing sh with
  | nil => rfl
  | cons i is ih => exact ih (sh.setReg (r + i) t _)

@[simp] theorem setWide_valid0 (sh : Sheaf) (w : Width) (r t : Nat) (v : BitVec 128) : (sh.setWide w r t v).valid0 = sh.valid0 := by
  unfold Sheaf.setWide
  generalize List.range w.span = is
  induction is generalizing sh with
  | nil => rfl
  | cons i is ih => exact ih (sh.setReg (r + i) t _)

@[simp] theorem setWide_valid1 (sh : Sheaf) (w : Width) (r t : Nat) (v : BitVec 128) : (sh.setWide w r t v).valid1 = sh.valid1 := by
  unfold Sheaf.setWide
  generalize List.range w.span = is
  induction is generalizing sh with
  | nil => rfl
  | cons i is ih => exact ih (sh.setReg (r + i) t _)

/-- The 64-bit value that a latch takes (R127). -/
def latchValue (w : Width) (v : BitVec 128) : DWord :=
  match w with
  | .w32 => (v.extractLsb' 0 32).setWidth 64
  | _ => v.extractLsb' 0 64

theorem result_reg (sh : Sheaf) (o : Ops) (w : Width) {t t' : Nat} (v : BitVec 128) (r' : Nat) (ht : t < 32) (ht' : t' < 32) :
    (sh.result o w t v).reg r' t' =
      if o.nw = false ∧ t' = t ∧ o.d.toNat ≤ r' ∧ r' < o.d.toNat + w.span then v.extractLsb' (32 * (r' - o.d.toNat)) 32 else sh.reg r' t' := by
  unfold Sheaf.result
  rw [setLatch_reg]
  cases o.nw
  · simp only [Bool.false_eq_true, if_false, true_and]
    exact reg_setWide sh w v ht ht'
  · simp

theorem result_latch (sh : Sheaf) (o : Ops) (w : Width) (t t' : Nat) (v : BitVec 128) (l : Bool) :
    (sh.result o w t v).latch l t' = if l = o.ls ∧ t' = t then latchValue w v else sh.latch l t' := by
  have key : ∀ x : Sheaf, (∀ l u, x.latch l u = sh.latch l u) →
      (x.setLatch o.ls t (latchValue w v)).latch l t' = if l = o.ls ∧ t' = t then latchValue w v else sh.latch l t' := by
    intro x hx
    rw [latch_setLatch, hx]
  unfold Sheaf.result
  cases w <;> exact key _ (by intro l u; split <;> simp)

theorem result_valid0 (sh : Sheaf) (o : Ops) (w : Width) (t : Nat) (v : BitVec 128) :
    (sh.result o w t v).valid0 = if o.ls then sh.valid0 else true := by
  unfold Sheaf.result
  cases o.ls <;> cases o.nw <;> simp [Sheaf.setLatch]

theorem result_valid1 (sh : Sheaf) (o : Ops) (w : Width) (t : Nat) (v : BitVec 128) :
    (sh.result o w t v).valid1 = if o.ls then true else sh.valid1 := by
  unfold Sheaf.result
  cases o.ls <;> cases o.nw <;> simp [Sheaf.setLatch]

theorem mem_threadsOf {e : TMask} {t : Nat} : t ∈ threadsOf e ↔ t < 32 ∧ e.getLsbD t = true := by
  simp [threadsOf]

theorem threadsOf_nodup (e : TMask) : (threadsOf e).Nodup := List.Pairwise.filter _ List.nodup_range

/-- The fold of results over a list of threads without repeats. -/
theorem foldResults (o : Ops) (w : Width) (v : Nat → DWord) :
    ∀ (l : List Nat), l.Nodup → (∀ t ∈ l, t < 32) → ∀ (sh : Sheaf),
      (∀ r' t', t' < 32 → (l.foldl (fun s t => s.result o w t ((v t).setWidth 128)) sh).reg r' t' =
        if o.nw = false ∧ t' ∈ l ∧ o.d.toNat ≤ r' ∧ r' < o.d.toNat + w.span then ((v t').setWidth 128).extractLsb' (32 * (r' - o.d.toNat)) 32
        else sh.reg r' t') ∧
      (∀ lt t', (l.foldl (fun s t => s.result o w t ((v t).setWidth 128)) sh).latch lt t' =
        if lt = o.ls ∧ t' ∈ l then latchValue w ((v t').setWidth 128) else sh.latch lt t') := by
  intro l
  induction l with
  | nil => intro _ _ sh; simp
  | cons a l ih =>
    intro hn hl sh
    obtain ⟨ha, hn⟩ := List.nodup_cons.mp hn
    have hal : a < 32 := hl a (by simp)
    obtain ⟨ih1, ih2⟩ := ih hn (fun t ht => hl t (by simp [ht])) (sh.result o w a ((v a).setWidth 128))
    simp only [List.foldl_cons]
    constructor
    · intro r' t' ht'
      rw [ih1 r' t' ht', result_reg _ _ _ _ _ hal ht']
      by_cases hta : t' = a
      · subst hta
        simp [ha]
      · simp [hta]
    · intro lt t'
      rw [ih2 lt t', result_latch]
      by_cases hta : t' = a
      · subst hta
        simp [ha]
      · simp [hta]

theorem foldValid (o : Ops) (w : Width) (v : Nat → DWord) (l : List Nat) (sh : Sheaf) :
    (l.foldl (fun s t => s.result o w t ((v t).setWidth 128)) sh).valid0 = (if o.ls then sh.valid0 else (l != [] || sh.valid0)) ∧
    (l.foldl (fun s t => s.result o w t ((v t).setWidth 128)) sh).valid1 = (if o.ls then (l != [] || sh.valid1) else sh.valid1) := by
  induction l generalizing sh with
  | nil => cases o.ls <;> simp
  | cons a l ih =>
    simp only [List.foldl_cons]
    rw [(ih _).1, (ih _).2, result_valid0, result_valid1]
    cases o.ls <;> simp

theorem threadsOf_zero : threadsOf 0 = [] := by decide

theorem threadsOf_ne_nil {e : TMask} (h : e ≠ 0) : threadsOf e ≠ [] := by
  intro hn
  apply h
  apply BitVec.eq_of_getLsbD_eq
  intro i hi
  cases hb : e.getLsbD i
  · simp
  · have : i ∈ threadsOf e := mem_threadsOf.mpr ⟨hi, hb⟩
    rw [hn] at this; simp at this

theorem low_wide (v : DWord) : (v.setWidth 128).extractLsb' 0 32 = v.extractLsb' 0 32 := by
  ext i hi
  simp
  omega

theorem dword_wide (v : DWord) : (v.setWidth 128).extractLsb' 0 64 = v := by
  ext i hi
  simp [hi]
  omega

/-- The whole effect of `results` and of the pc's advance. -/
theorem laneEffect_of {sh x : Sheaf} {i : Instr} {o : Ops} {w : Width} {e : TMask} {v : Nat → DWord} (hw : w ≠ .w128)
    (cls : Map RegClass)
    (hx : x = { sh.results o w e v with
      cls := cls, conv := if selectsSR i && e != 0 then sh.conv + 1 else sh.conv, pc := sh.pc + BitVec.ofNat 64 i.size }) :
    LaneEffect sh x i o w e v := by
  have hfold := foldResults o w v (threadsOf e) (threadsOf_nodup e) (fun t ht => (mem_threadsOf.mp ht).1) sh
  have hval := foldValid o w v (threadsOf e) sh
  have hregs : x.reg = (sh.results o w e v).reg := by rw [hx]; rfl
  have hlat : x.latch = (sh.results o w e v).latch := by rw [hx]; rfl
  have hv0 : x.valid0 = (sh.results o w e v).valid0 := by rw [hx]
  have hv1 : x.valid1 = (sh.results o w e v).valid1 := by rw [hx]
  have hsame := results_same sh o w e v
  refine ⟨?_, ?_, ?_, ?_, ?_, ?_, ?_, ?_, ?_⟩
  · intro t j ht hj he hn
    rw [hregs]
    refine (hfold.1 _ t ht).trans ?_
    have hm : t ∈ threadsOf e := mem_threadsOf.mpr ⟨ht, he⟩
    have hlt : o.d.toNat + j < o.d.toNat + w.span := by omega
    have hsub : o.d.toNat + j - o.d.toNat = j := by omega
    simp [hn, hm, hj, hsub]
  · intro t r ht h
    rw [hregs]
    refine (hfold.1 _ t ht).trans ?_
    rw [if_neg]
    rintro ⟨h1, h2, h3, h4⟩
    rcases h with h | h | h | h
    · simp [(mem_threadsOf.mp h2).2] at h
    · simp [h1] at h
    · omega
    · omega
  · intro t ht he
    rw [hlat]
    refine (hfold.2 _ t).trans ?_
    have hm : t ∈ threadsOf e := mem_threadsOf.mpr ⟨ht, he⟩
    cases w
    · simp only [hm, latchValue, and_self, if_true]
      exact congrArg _ (low_wide (v t))
    · simp only [hm, latchValue, and_self, if_true]
      rw [if_neg (by decide)]
      exact dword_wide (v t)
    · exact absurd rfl hw
  · intro t ht he
    rw [hlat]
    refine (hfold.2 _ t).trans ?_
    have hm : t ∉ threadsOf e := fun hm => by simp [(mem_threadsOf.mp hm).2] at he
    simp [hm]
  · intro t
    rw [hlat]
    refine (hfold.2 _ t).trans ?_
    simp
  · obtain ⟨_, _, _, _, _, _, _, hs⟩ := hsame
    rw [hs] at hx
    rw [hx]
  · intro he
    rw [hv0, hv1]
    have hne : (threadsOf e != []) = true := by simpa using threadsOf_ne_nil he
    cases hl : o.ls
    · simp only [Bool.false_eq_true, if_false]
      refine (hval.1).trans ?_
      simp [hl, hne]
    · simp only [if_true]
      refine (hval.2).trans ?_
      simp [hl, hne]
  · rw [hv0, hv1]
    cases hl : o.ls
    · simp only [Bool.false_eq_true, if_false]
      refine (hval.2).trans ?_
      simp [hl]
    · simp only [if_true]
      refine (hval.1).trans ?_
      simp [hl]
  · rw [hx]

theorem countThreads_le (e : TMask) : countThreads e ≤ 32 := by
  unfold countThreads threadsOf
  exact Nat.le_trans (List.length_filter_le _ _) (by simp)

theorem occupied_bounds (sh : Sheaf) (rs : List Nat) (e : TMask) {n : Nat} (h1 : 1 ≤ n) (h2 : n ≤ 64) :
    1 ≤ sh.occupied rs e n ∧ sh.occupied rs e n ≤ 64 := by
  unfold Sheaf.occupied
  split <;> omega

theorem laneOccupancy_bounds (sh : Sheaf) (i : Instr) (o : Ops) (f : Form) (e : TMask) (b : Bool) :
    1 ≤ laneOccupancy sh i o f e b ∧ laneOccupancy sh i o f e b ≤ 64 := by
  have hle := countThreads_le e
  unfold laneOccupancy
  refine occupied_bounds _ _ _ ?_ ?_ <;> split
  · omega
  · next h => simp only [Bool.or_eq_true, beq_iff_eq, not_or] at h; split <;> omega
  · omega
  · split <;> omega

/-- Recording the class of a result changes the classes alone. -/
theorem setResultClass_cls (sh : Sheaf) (rs : List Nat) (c : RegClass) (v : DWord) :
    sh.setResultClass rs c v = { sh with cls := (sh.setResultClass rs c v).cls } := by
  unfold Sheaf.setResultClass
  generalize rs.zipIdx = xs
  induction xs generalizing sh with
  | nil => rfl
  | cons x xs ih =>
    simp only [List.foldl_cons]
    rw [ih]
    rfl

/-- `endLane` writes the results into the sheaf and ends the instruction. -/
theorem endLane_effect (c : Ctx) (i : Instr) (o : Ops) (f : Form) (v : Nat → DWord) (hw : f.dst.width ≠ .w128) :
    ∃ sh' n, c.endLane i o f v = (c.s.setSheaf c.k sh').finish c.k o.hd n ∧ 1 ≤ n ∧ n ≤ 64 ∧
      LaneEffect c.sh sh' i o f.dst.width c.e v := by
  refine ⟨_, _, rfl, (laneOccupancy_bounds _ _ _ _ _ _).1, (laneOccupancy_bounds _ _ _ _ _ _).2, ?_⟩
  by_cases he : c.e = 0
  · refine laneEffect_of hw ?_ (cls := (c.sh.results o f.dst.width c.e v).cls)
    obtain ⟨_, _, _, _, _, _, _, hs⟩ := results_same c.sh o f.dst.width c.e v
    rw [hs]
    simp [he, Sheaf.advance]
  · refine laneEffect_of hw ?_
      (cls := ((c.sh.results o f.dst.width c.e v).setResultClass (dstRegs o f.dst)
        (classAndUnit c.sh c.ext i o f c.e ((v 0).extractLsb' 0 32)).1 (v 0)).cls)
    have hb : (c.e == 0) = false := by simpa using he
    have hb' : (c.e != 0) = true := by simpa using he
    simp only [hb, hb']
    rw [setResultClass_cls]
    obtain ⟨_, _, _, _, _, _, _, hs⟩ := results_same c.sh o f.dst.width c.e v
    rw [hs]
    cases selectsSR i <;> rfl

/-- The lane instructions have no 128-bit destination when their form says so. -/
theorem laneOp_result {s : State} {i : Instr} {o : Ops} {f : Form} {k : Nat} {sh : Sheaf} {w : Workgroup} (h : Starts s i o f k sh w)
    (hw : f.dst.width ≠ .w128) (g : LaneIn → DWord) :
    ∃ sh' n, laneOp s i o g = .next ((s.setSheaf k sh').finish k o.hd n) ∧ 1 ≤ n ∧ n ≤ 64 ∧
      LaneEffect sh.issued sh' i o f.dst.width (startCtx s o f k sh w).e (fun t => g ((startCtx s o f k sh w).laneIn o f t)) := by
  obtain ⟨sh', n, h1, h2, h3, h4⟩ := endLane_effect (startCtx s o f k sh w) i o f
    (fun t => g ((startCtx s o f k sh w).laneIn o f t)) hw
  refine ⟨sh', n, ?_, h2, h3, h4⟩
  rw [laneOp, runGeneral_go h, h1]
  simp [startCtx]

theorem crossOp_result {s : State} {i : Instr} {o : Ops} {f : Form} {k : Nat} {sh : Sheaf} {w : Workgroup} (h : Starts s i o f k sh w)
    (hw : f.dst.width ≠ .w128) (g : TMask → (Nat → LaneIn) → Nat → DWord) :
    ∃ sh' n, crossOp s i o g = .next ((s.setSheaf k sh').finish k o.hd n) ∧ 1 ≤ n ∧ n ≤ 64 ∧
      LaneEffect sh.issued sh' i o f.dst.width (startCtx s o f k sh w).e
        (fun t => g (startCtx s o f k sh w).e ((startCtx s o f k sh w).laneIn o f) t) := by
  obtain ⟨sh', n, h1, h2, h3, h4⟩ := endLane_effect (startCtx s o f k sh w) i o f
    (fun t => g (startCtx s o f k sh w).e ((startCtx s o f k sh w).laneIn o f) t) hw
  refine ⟨sh', n, ?_, h2, h3, h4⟩
  rw [crossOp, runGeneral_go h, h1]
  simp [startCtx]

theorem decodeFails_none {l : Level} {op : BitVec 8} {ok : Bool} (h : decodeFails l op ok = none) : ok = true := by
  unfold decodeFails at h
  split at h
  · simp at h
  · split at h
    · assumption
    · simp at h

/-- A lane instruction whose function agrees with `val` on well-formed fields. -/
theorem laneResult_of {mk : Ops → Instr} {val : Ops → LaneIn → DWord} (alu : Ops → LaneIn → DWord)
    (hexec : ∀ o s, exec (mk o) s = laneOp s (mk o) o (alu o)) (hw : ∀ o o' f, (mk o).form = some (o', f) → f.dst.width ≠ .w128)
    (heq : ∀ o v, (mk o).wfGeneral = true → alu o v = val o v) : LaneResult mk val := by
  intro o f s k sh w h
  have hwf := decodeFails_none h.decode
  obtain ⟨sh', n, h1, h2, h3, h4⟩ := laneOp_result h (hw o o f h.form) (alu o)
  refine ⟨sh', n, (hexec o s).trans h1, h2, h3, ?_⟩
  have : alu o = val o := funext (fun v => heq o v hwf)
  rw [this] at h4
  exact h4

theorem crossResult_of {mk : Ops → Instr} {val : Ops → TMask → (Nat → LaneIn) → Nat → DWord} (g : Ops → TMask → (Nat → LaneIn) → Nat → DWord)
    (hexec : ∀ o s, exec (mk o) s = crossOp s (mk o) o (g o)) (hw : ∀ o o' f, (mk o).form = some (o', f) → f.dst.width ≠ .w128)
    (heq : ∀ o e v t, (mk o).wfGeneral = true → g o e v t = val o e v t) : CrossResult mk val := by
  intro o f s k sh w h
  have hwf := decodeFails_none h.decode
  obtain ⟨sh', n, h1, h2, h3, h4⟩ := crossOp_result h (hw o o f h.form) (g o)
  refine ⟨sh', n, (hexec o s).trans h1, h2, h3, ?_⟩
  have : g o = val o := funext (fun e => funext (fun v => funext (fun t => heq o e v t hwf)))
  rw [this] at h4
  exact h4

/-- What the form of a well-formed instruction says of its fields. -/
theorem form_of_wfGeneral {i : Instr} (h : i.wfGeneral = true) : ∃ o f op, i.form = some (o, f) ∧ i.opcode = some op ∧ generalOk op o f = true := by
  unfold Instr.wfGeneral at h
  split at h
  · next o f op hf ho => exact ⟨o, f, op, hf, ho, h⟩
  · simp at h

end Sys2Proof.Machine
end

