-- ==== Sys2Proof/Laws/Mem.lean ====
section
/-! SUPPORT. Bytes read after bytes written, in device memory and in local store, and the canonical form that writes keep. -/

namespace Sys2Proof.Machine

theorem memByte_setMemByte (s : State) (a b : Nat) (v : Byte) :
    (s.setMemByte a v).memByte b = if b = a then v else s.memByte b := by
  unfold State.setMemByte State.memByte
  by_cases h : b = a
  · subst h; simp
  · simp only [h, if_false]; exact mapGetD_putD_ne _ _ _ _ h

theorem lsByte_setLsByte (s : State) (c a d b : Nat) (v : Byte) :
    (s.setLsByte c a v).lsByte d b = if lsKey d b = lsKey c a then v else s.lsByte d b := by
  unfold State.setLsByte State.lsByte
  by_cases h : lsKey d b = lsKey c a
  · rw [h]; simp
  · simp only [h, if_false]; exact mapGetD_putD_ne _ _ _ _ h

theorem memWrite_cons (s : State) (a : Nat) (b : Byte) (bs : List Byte) :
    s.memWrite a (b :: bs) = (s.setMemByte a b).memWrite (a + 1) bs := by
  unfold State.memWrite
  rw [List.zipIdx_cons, List.foldl_cons]
  have : ∀ (l : List Byte) (n : Nat) (t : State),
      (l.zipIdx (n + 1)).foldl (fun s bi => s.setMemByte (a + bi.2) bi.1) t =
      (l.zipIdx n).foldl (fun s bi => s.setMemByte (a + 1 + bi.2) bi.1) t := by
    intro l
    induction l with
    | nil => intro n t; rfl
    | cons x l ih =>
      intro n t
      rw [List.zipIdx_cons, List.foldl_cons, List.zipIdx_cons, List.foldl_cons, ih (n + 1)]
      simp only [Nat.add_assoc, Nat.add_comm 1 n]
  exact this bs 0 _

theorem lsWrite_cons (s : State) (c a : Nat) (b : Byte) (bs : List Byte) :
    s.lsWrite c a (b :: bs) = (s.setLsByte c a b).lsWrite c (a + 1) bs := by
  unfold State.lsWrite
  rw [List.zipIdx_cons, List.foldl_cons]
  have : ∀ (l : List Byte) (n : Nat) (t : State),
      (l.zipIdx (n + 1)).foldl (fun s bi => s.setLsByte c (a + bi.2) bi.1) t =
      (l.zipIdx n).foldl (fun s bi => s.setLsByte c (a + 1 + bi.2) bi.1) t := by
    intro l
    induction l with
    | nil => intro n t; rfl
    | cons x l ih =>
      intro n t
      rw [List.zipIdx_cons, List.foldl_cons, List.zipIdx_cons, List.foldl_cons, ih (n + 1)]
      simp only [Nat.add_assoc, Nat.add_comm 1 n]
  exact this bs 0 _

/-- A byte after a run of bytes has been written. -/
theorem memByte_memWrite (bs : List Byte) : ∀ (s : State) (a b : Nat),
    (s.memWrite a bs).memByte b = if a ≤ b ∧ b < a + bs.length then bs.getD (b - a) 0 else s.memByte b := by
  induction bs with
  | nil =>
    intro s a b
    have h : ¬ (a ≤ b ∧ b < a + ([] : List Byte).length) := by rintro ⟨h1, h2⟩; simp at h2; omega
    rw [if_neg h]; rfl
  | cons x bs ih =>
    intro s a b
    rw [memWrite_cons, ih, memByte_setMemByte]
    by_cases hb : b = a
    · subst hb
      rw [if_neg (by omega), if_pos rfl, if_pos (by simp)]
      simp
    · by_cases hin : a + 1 ≤ b ∧ b < a + 1 + bs.length
      · rw [if_pos hin, if_pos (by simp; omega)]
        obtain ⟨m, rfl⟩ : ∃ m, b = a + 1 + m := ⟨b - (a + 1), by omega⟩
        have h1 : a + 1 + m - (a + 1) = m := by omega
        have h2 : a + 1 + m - a = m + 1 := by omega
        rw [h1, h2]; simp
      · rw [if_neg hin, if_neg hb, if_neg (by simp; omega)]

theorem lsByte_lsWrite (bs : List Byte) : ∀ (s : State) (c a d b : Nat),
    (s.lsWrite c a bs).lsByte d b =
      if lsKey c a ≤ lsKey d b ∧ lsKey d b < lsKey c a + bs.length then bs.getD (lsKey d b - lsKey c a) 0 else s.lsByte d b := by
  induction bs with
  | nil =>
    intro s c a d b
    have h : ¬ (lsKey c a ≤ lsKey d b ∧ lsKey d b < lsKey c a + ([] : List Byte).length) := by rintro ⟨h1, h2⟩; simp at h2; omega
    rw [if_neg h]; rfl
  | cons x bs ih =>
    intro s c a d b
    have hk : lsKey c (a + 1) = lsKey c a + 1 := by unfold lsKey; omega
    rw [lsWrite_cons, ih, lsByte_setLsByte, hk]
    by_cases hb : lsKey d b = lsKey c a
    · rw [hb, if_neg (by omega), if_pos rfl, if_pos (by simp)]
      simp
    · by_cases hin : lsKey c a + 1 ≤ lsKey d b ∧ lsKey d b < lsKey c a + 1 + bs.length
      · rw [if_pos hin, if_pos (by simp; omega)]
        obtain ⟨m, hm⟩ : ∃ m, lsKey d b = lsKey c a + 1 + m := ⟨lsKey d b - (lsKey c a + 1), by omega⟩
        have h1 : lsKey d b - (lsKey c a + 1) = m := by omega
        have h2 : lsKey d b - lsKey c a = m + 1 := by omega
        rw [h1, h2]; simp
      · rw [if_neg hin, if_neg hb, if_neg (by simp; omega)]

/-- Writing bytes changes device memory only. -/
theorem memWrite_frame (bs : List Byte) : ∀ (s : State) (a : Nat), s.memWrite a bs = { s with mem := (s.memWrite a bs).mem } := by
  induction bs with
  | nil => intro s a; rfl
  | cons x bs ih => intro s a; rw [memWrite_cons, ih]; rfl

/-- Writing local store changes local store only. -/
theorem lsWrite_frame (bs : List Byte) : ∀ (s : State) (c a : Nat), s.lsWrite c a bs = { s with ls := (s.lsWrite c a bs).ls } := by
  induction bs with
  | nil => intro s c a; rfl
  | cons x bs ih => intro s c a; rw [lsWrite_cons, ih]; rfl

theorem leBytes_length (n v : Nat) : (leBytes n v).length = n := by simp [leBytes]

theorem leBytes_getD (n v i : Nat) (h : i < n) : (leBytes n v).getD i 0 = BitVec.ofNat 8 (v >>> (8 * i)) := by
  simp [leBytes, h]

/-! The canonical form. -/

theorem setMemByte_wf {s : State} (a : Nat) (b : Byte) (h : Memory.wf s.mem = true) : Memory.wf (s.setMemByte a b).mem = true :=
  mapWf_putD a b h

theorem memWrite_wf (bs : List Byte) : ∀ {s : State} (a : Nat), Memory.wf s.mem = true → Memory.wf (s.memWrite a bs).mem = true := by
  induction bs with
  | nil => intro s a h; exact h
  | cons x bs ih => intro s a h; rw [memWrite_cons]; exact ih _ (setMemByte_wf a x h)

theorem setLsByte_wf {s : State} (c a : Nat) (b : Byte) (h : Memory.wf s.ls = true) : Memory.wf (s.setLsByte c a b).ls = true :=
  mapWf_putD _ b h

theorem lsWrite_wf (bs : List Byte) : ∀ {s : State} (c a : Nat), Memory.wf s.ls = true → Memory.wf (s.lsWrite c a bs).ls = true := by
  induction bs with
  | nil => intro s c a h; exact h
  | cons x bs ih => intro s c a h; rw [lsWrite_cons]; exact ih _ _ (setLsByte_wf c a x h)

end Sys2Proof.Machine
end

