-- ==== Sys2Proof/Laws/Net.lean ====
section
/-! SUPPORT. The network: what taking, receiving, sending and passing packets do (R343, R421). -/

namespace Sys2Proof.Machine

/-! Taking a flight out of the network. -/

theorem takeFlight_of {p : Flight → Bool} {pre rest : List Flight} {f : Flight} (hpre : ∀ g ∈ pre, p g = false) (hf : p f = true) :
    takeFlight p (pre ++ f :: rest) = some (f, pre ++ rest) := by
  induction pre with
  | nil => simp [takeFlight, hf]
  | cons g pre ih =>
    have hg : p g = false := hpre g (by simp)
    simp [takeFlight, hg, ih (fun x hx => hpre x (by simp [hx]))]

theorem takeFlight_none {p : Flight → Bool} {l : List Flight} (h : ∀ g ∈ l, p g = false) : takeFlight p l = none := by
  induction l with
  | nil => rfl
  | cons g l ih => simp [takeFlight, h g (by simp), ih (fun x hx => h x (by simp [hx]))]

/-- What is taken was there, met the condition, and nothing before it did. -/
theorem takeFlight_some {p : Flight → Bool} {l rest : List Flight} {f : Flight} (h : takeFlight p l = some (f, rest)) :
    ∃ pre post, l = pre ++ f :: post ∧ rest = pre ++ post ∧ p f = true ∧ ∀ g ∈ pre, p g = false := by
  induction l generalizing rest with
  | nil => simp [takeFlight] at h
  | cons g l ih =>
    unfold takeFlight at h
    split at h
    · rename_i hg
      cases h
      exact ⟨[], _, rfl, rfl, hg, by simp⟩
    · rename_i hg
      cases hr : takeFlight p l with
      | none => simp [hr] at h
      | some x =>
        simp [hr] at h
        obtain ⟨rfl, rfl⟩ := h
        obtain ⟨pre, post, rfl, h2, h3, h4⟩ := ih (rest := x.2) hr
        refine ⟨g :: pre, post, rfl, by simp [h2], h3, fun x hx => ?_⟩
        rcases List.mem_cons.mp hx with rfl | hx
        · simpa using hg
        · exact h4 x hx

/-! Taking a message in the order of its inbox. -/

/-- A flight that meets the condition is taken where no flight of any inbox was passed over. -/
theorem takeOrdered_of {p : Flight → Bool} {pre rest seen : List Flight} {f : Flight} (hpre : ∀ g ∈ pre, p g = false) (hf : p f = true)
    (hbox : ∀ g ∈ pre, g.place ≠ .inbox) (hseen : ∀ g ∈ seen, g.place ≠ .inbox) :
    takeOrdered p seen (pre ++ f :: rest) = some (f, pre ++ rest) := by
  induction pre generalizing seen with
  | nil =>
    have h : (seen.any fun e => e.place == .inbox && e.p.dst == f.p.dst && f.p.behind e.p) = false :=
      List.any_eq_false.mpr (fun g hg => by simp [hseen g hg])
    simp [takeOrdered, hf, h]
  | cons g pre ih =>
    have hs : ∀ x ∈ g :: seen, x.place ≠ .inbox := by
      intro x hx
      rcases List.mem_cons.mp hx with rfl | hx
      · exact hbox x (by simp)
      · exact hseen x hx
    simp [takeOrdered, hpre g (by simp), ih (fun x hx => hpre x (by simp [hx])) (fun x hx => hbox x (by simp [hx])) hs]

theorem takeOrdered_none {p : Flight → Bool} {l seen : List Flight} (h : ∀ g ∈ l, p g = false) : takeOrdered p seen l = none := by
  induction l generalizing seen with
  | nil => rfl
  | cons g l ih => simp [takeOrdered, h g (by simp), ih (fun x hx => h x (by simp [hx]))]

/-- What is taken was there and met the condition, and no earlier message of its inbox comes before it. -/
theorem takeOrdered_some {p : Flight → Bool} {l rest seen : List Flight} {f : Flight} (h : takeOrdered p seen l = some (f, rest)) :
    ∃ pre post, l = pre ++ f :: post ∧ rest = pre ++ post ∧ p f = true ∧
      ∀ g ∈ pre, ¬(g.place = .inbox ∧ g.p.dst = f.p.dst ∧ f.p.behind g.p = true) := by
  suffices H : ∃ pre post, l = pre ++ f :: post ∧ rest = pre ++ post ∧ p f = true ∧
      ∀ g ∈ pre ++ seen, ¬(g.place = .inbox ∧ g.p.dst = f.p.dst ∧ f.p.behind g.p = true) by
    obtain ⟨pre, post, h1, h2, h3, h4⟩ := H
    exact ⟨pre, post, h1, h2, h3, fun g hg => h4 g (by simp [hg])⟩
  induction l generalizing rest seen with
  | nil => simp [takeOrdered] at h
  | cons g l ih =>
    unfold takeOrdered at h
    split at h
    · rename_i hg
      cases h
      rw [Bool.and_eq_true] at hg
      refine ⟨[], _, rfl, rfl, hg.1, fun x hx hb => ?_⟩
      have hs := hg.2
      simp only [List.nil_append] at hx
      simp only [Bool.not_eq_true', List.any_eq_false] at hs
      exact hs x hx (by simp [hb.1, hb.2.1, hb.2.2])
    · cases hr : takeOrdered p (g :: seen) l with
      | none => simp [hr] at h
      | some x =>
        simp [hr] at h
        obtain ⟨rfl, rfl⟩ := h
        obtain ⟨pre, post, rfl, h2, h3, h4⟩ := ih (rest := x.2) hr
        refine ⟨g :: pre, post, rfl, by simp [h2], h3, fun y hy => h4 y ?_⟩
        simp only [List.mem_append, List.mem_cons, List.cons_append] at hy ⊢
        rcases hy with h | h | h
        · exact Or.inr (Or.inl h)
        · exact Or.inl h
        · exact Or.inr (Or.inr h)

/-! Receiving. -/

section
variable {s u : State} {p : Packet}

/-- The packet received is the first that the agent's inbox accepts. -/
theorem receive_of {α : Type} (h : Received s p u) {a : Agent} {f : Msg → Option α} {v : α} (hd : p.dst = a) (hf : f p.msg = some v) :
    s.receive a f = some (v, p, u) := by
  obtain ⟨⟨pre, g, rest, hs, hu, rfl, hg, hpre⟩, hr⟩ := h
  unfold State.receive
  rw [hs, takeOrdered_of (fun x hx => by simp [hpre x hx]) (by simp [hg, hd, hf]) hpre (by simp)]
  simp only [hf, Option.map_some]
  rw [hr, hu]

/-- The packet received is the first that any inbox accepts. -/
theorem receiveAny_of {α : Type} (h : Received s p u) {f : Agent → Msg → Option α} {v : α} (hf : f p.dst p.msg = some v) :
    s.receiveAny f = some (v, p, u) := by
  obtain ⟨⟨pre, g, rest, hs, hu, rfl, hg, hpre⟩, hr⟩ := h
  unfold State.receiveAny
  rw [hs, takeOrdered_of (fun x hx => by simp [hpre x hx]) (by simp [hg, hf]) hpre (by simp)]
  simp only [hf, Option.map_some]
  rw [hr, hu]

/-- The packet received is the first that a step acts on. -/
theorem firstEnabled_of (h : Received s p u) {act : State → Packet → Option State} {t : State} (h0 : (act s p).isSome = true)
    (h1 : act u p = some t) : s.firstEnabled act = t := by
  obtain ⟨⟨pre, g, rest, hs, hu, rfl, hg, hpre⟩, hr⟩ := h
  unfold State.firstEnabled
  rw [hs, takeOrdered_of (fun x hx => by simp [hpre x hx]) (by simp [hg, h0]) hpre (by simp)]
  simp only
  have : ({ s with net := pre ++ rest } : State) = u := by rw [hr, hu]
  rw [this, h1]
  rfl

theorem received_eq (h : Received s p u) : u = { s with net := u.net } := h.rest

/-- A received packet was somewhere in the network. -/
theorem received_mem (h : Received s p u) : ∃ f ∈ s.net, f.p = p ∧ f.place = .inbox := by
  obtain ⟨⟨pre, g, rest, hs, -, hp, hg, -⟩, -⟩ := h
  exact ⟨g, by simp [hs], hp, hg⟩
end

/-- Nothing is received where no packet lies in an inbox. -/
theorem receive_none {α : Type} {s : State} {a : Agent} {f : Msg → Option α} (h : ∀ g ∈ s.net, g.place ≠ .inbox) : s.receive a f = none := by
  unfold State.receive
  rw [takeOrdered_none (fun g hg => by simp [h g hg])]

theorem receiveAny_none {α : Type} {s : State} {f : Agent → Msg → Option α} (h : ∀ g ∈ s.net, g.place ≠ .inbox) : s.receiveAny f = none := by
  unfold State.receiveAny
  rw [takeOrdered_none (fun g hg => by simp [h g hg])]

theorem firstEnabled_none {s : State} {act : State → Packet → Option State} (h : ∀ g ∈ s.net, g.place ≠ .inbox) : s.firstEnabled act = s := by
  unfold State.firstEnabled
  rw [takeOrdered_none (fun g hg => by simp [h g hg])]

/-! Sending. -/

theorem send_eq (s : State) (src dst : Agent) (prio : Nat) (part : Option Nat) (m : Msg) :
    s.send src dst prio part m = { s with net := s.net ++ [sentFlight s.clk src dst prio part m] } := by
  unfold State.send State.sendPkt sentFlight
  simp

end Sys2Proof.Machine
end

