-- ==== Sys2Proof/Laws/PerInstr.lean ====
section
/-! SUPPORT. Facts about every instruction as syntax, one lemma per constructor. -/

namespace Sys2Proof.Laws.Opcode

/-- The first word of an instruction's encoding carries its opcode in its lowest byte, and at most one word follows (R125, R126). -/
def Statement (i : Instr) : Prop :=
  ∀ op ws, i.opcode = some op → encode i = some ws → ∃ w rest, ws = w :: rest ∧ w.extractLsb' 0 8 = op ∧ rest.length ≤ 1

theorem encodeOps_opcode (op : BitVec 8) (o : Ops) : (encodeOps op o).extractLsb' 0 8 = op := by
  unfold encodeOps
  exact BitVec.extractLsb'_append_eq_right

theorem encodeBrOps_opcode (op : BitVec 8) (o : BrOps) : (encodeBrOps op o).extractLsb' 0 8 = op := by
  unfold encodeBrOps
  exact BitVec.extractLsb'_append_eq_right

theorem encodeExt_short (e : Ext) : (encodeExt e).toList.length ≤ 1 := by
  cases e <;> simp [encodeExt]

theorem every (i : Instr) : Statement i := by
  intro op ws hop hws
  unfold encode at hws
  split at hws
  · simp [Instr.opcode] at hop
  · split at hws
    · rename_i o f b op' hf hb ho
      rw [hop] at ho
      cases ho
      cases hws
      exact ⟨_, _, rfl, encodeOps_opcode _ _, encodeExt_short _⟩
    · rename_i o op' hb ho hf
      rw [hop] at ho
      cases ho
      cases hws
      exact ⟨_, _, rfl, encodeBrOps_opcode _ _, by simp⟩
    · cases hws

theorem nop (o : Ops) : Statement (.nop o) := every _
theorem bra (o : BrOps) : Statement (.bra o) := every _
theorem brc (o : BrOps) : Statement (.brc o) := every _
theorem brx (o : Ops) : Statement (.brx o) := every _
theorem call (o : BrOps) : Statement (.call o) := every _
theorem callx (o : Ops) : Statement (.callx o) := every _
theorem ret (o : Ops) : Statement (.ret o) := every _
theorem exit (o : Ops) : Statement (.exit o) := every _
theorem yield (o : Ops) : Statement (.yield o) := every _
theorem sleep (o : Ops) : Statement (.sleep o) := every _
theorem brk (o : Ops) : Statement (.brk o) := every _
theorem trap (o : Ops) : Statement (.trap o) := every _
theorem cfetch (o : Ops) : Statement (.cfetch o) := every _
theorem cpin (o : Ops) : Statement (.cpin o) := every _
theorem cunpin (o : Ops) : Statement (.cunpin o) := every _
theorem iadd (o : Ops) : Statement (.iadd o) := every _
theorem isub (o : Ops) : Statement (.isub o) := every _
theorem isum3 (o : Ops) : Statement (.isum3 o) := every _
theorem imul (o : Ops) : Statement (.imul o) := every _
theorem imulh (o : Ops) : Statement (.imulh o) := every _
theorem imac (o : Ops) : Statement (.imac o) := every _
theorem imacw (o : Ops) : Statement (.imacw o) := every _
theorem iadd64 (o : Ops) : Statement (.iadd64 o) := every _
theorem isub64 (o : Ops) : Statement (.isub64 o) := every _
theorem imin (o : Ops) : Statement (.imin o) := every _
theorem imax (o : Ops) : Statement (.imax o) := every _
theorem iabs (o : Ops) : Statement (.iabs o) := every _
theorem lea (o : Ops) : Statement (.lea o) := every _
theorem lea64 (o : Ops) : Statement (.lea64 o) := every _
theorem idot4 (o : Ops) : Statement (.idot4 o) := every _
theorem idot2 (o : Ops) : Statement (.idot2 o) := every _
theorem and (o : Ops) : Statement (.and o) := every _
theorem or (o : Ops) : Statement (.or o) := every _
theorem xor (o : Ops) : Statement (.xor o) := every _
theorem andn (o : Ops) : Statement (.andn o) := every _
theorem lsel (o : Ops) : Statement (.lsel o) := every _
theorem shl (o : Ops) : Statement (.shl o) := every _
theorem shr (o : Ops) : Statement (.shr o) := every _
theorem rot (o : Ops) : Statement (.rot o) := every _
theorem shd (o : Ops) : Statement (.shd o) := every _
theorem popc (o : Ops) : Statement (.popc o) := every _
theorem clz (o : Ops) : Statement (.clz o) := every _
theorem brev (o : Ops) : Statement (.brev o) := every _
theorem xfld (o : Ops) : Statement (.xfld o) := every _
theorem ifld (o : Ops) : Statement (.ifld o) := every _
theorem bmux (o : Ops) : Statement (.bmux o) := every _
theorem clmul (o : Ops) : Statement (.clmul o) := every _
theorem icmp (o : Ops) : Statement (.icmp o) := every _
theorem fcmp (o : Ops) : Statement (.fcmp o) := every _
theorem sel (o : Ops) : Statement (.sel o) := every _
theorem mov (o : Ops) : Statement (.mov o) := every _
theorem movi (o : Ops) : Statement (.movi o) := every _
theorem movs (o : Ops) : Statement (.movs o) := every _
theorem mov64 (o : Ops) : Statement (.mov64 o) := every _
theorem icmp64 (o : Ops) : Statement (.icmp64 o) := every _
theorem fadd (o : Ops) : Statement (.fadd o) := every _
theorem fmul (o : Ops) : Statement (.fmul o) := every _
theorem ffma (o : Ops) : Statement (.ffma o) := every _
theorem fmin (o : Ops) : Statement (.fmin o) := every _
theorem fmax (o : Ops) : Statement (.fmax o) := every _
theorem frnd (o : Ops) : Statement (.frnd o) := every _
theorem ffrc (o : Ops) : Statement (.ffrc o) := every _
theorem fscl (o : Ops) : Statement (.fscl o) := every _
theorem frcp (o : Ops) : Statement (.frcp o) := every _
theorem frsq (o : Ops) : Statement (.frsq o) := every _
theorem fsqrt (o : Ops) : Statement (.fsqrt o) := every _
theorem fdiv (o : Ops) : Statement (.fdiv o) := every _
theorem fex2 (o : Ops) : Statement (.fex2 o) := every _
theorem flg2 (o : Ops) : Statement (.flg2 o) := every _
theorem fsin (o : Ops) : Statement (.fsin o) := every _
theorem fcos (o : Ops) : Statement (.fcos o) := every _
theorem hadd2 (o : Ops) : Statement (.hadd2 o) := every _
theorem hmul2 (o : Ops) : Statement (.hmul2 o) := every _
theorem hfma2 (o : Ops) : Statement (.hfma2 o) := every _
theorem hmin2 (o : Ops) : Statement (.hmin2 o) := every _
theorem hmax2 (o : Ops) : Statement (.hmax2 o) := every _
theorem fdp2 (o : Ops) : Statement (.fdp2 o) := every _
theorem fdp4 (o : Ops) : Statement (.fdp4 o) := every _
theorem f2i (o : Ops) : Statement (.f2i o) := every _
theorem i2f (o : Ops) : Statement (.i2f o) := every _
theorem f2f (o : Ops) : Statement (.f2f o) := every _
theorem cvpk (o : Ops) : Statement (.cvpk o) := every _
theorem cvup (o : Ops) : Statement (.cvup o) := every _
theorem dsenc (o : Ops) : Statement (.dsenc o) := every _
theorem dsdec (o : Ops) : Statement (.dsdec o) := every _
theorem relay (o : Ops) : Statement (.relay o) := every _
theorem poll (o : Ops) : Statement (.poll o) := every _
theorem sred (o : Ops) : Statement (.sred o) := every _
theorem sscan (o : Ops) : Statement (.sscan o) := every _
theorem matchv (o : Ops) : Statement (.matchv o) := every _
theorem firstv (o : Ops) : Statement (.firstv o) := every _
theorem ld (o : Ops) : Statement (.ld o) := every _
theorem st (o : Ops) : Statement (.st o) := every _
theorem ldb (o : Ops) : Statement (.ldb o) := every _
theorem stb (o : Ops) : Statement (.stb o) := every _
theorem ldtg (o : Ops) : Statement (.ldtg o) := every _
theorem sttg (o : Ops) : Statement (.sttg o) := every _
theorem tagrd (o : Ops) : Statement (.tagrd o) := every _
theorem tagwr (o : Ops) : Statement (.tagwr o) := every _
theorem pref (o : Ops) : Statement (.pref o) := every _
theorem cctl (o : Ops) : Statement (.cctl o) := every _
theorem atom (o : Ops) : Statement (.atom o) := every _
theorem atom64 (o : Ops) : Statement (.atom64 o) := every _
theorem cas (o : Ops) : Statement (.cas o) := every _
theorem cas64 (o : Ops) : Statement (.cas64 o) := every _
theorem fatom (o : Ops) : Statement (.fatom o) := every _
theorem hatom2 (o : Ops) : Statement (.hatom2 o) := every _
theorem red (o : Ops) : Statement (.red o) := every _
theorem fred (o : Ops) : Statement (.fred o) := every _
theorem cpy (o : Ops) : Statement (.cpy o) := every _
theorem gath (o : Ops) : Statement (.gath o) := every _
theorem bags (o : Ops) : Statement (.bags o) := every _
theorem scad (o : Ops) : Statement (.scad o) := every _
theorem fill (o : Ops) : Statement (.fill o) := every _
theorem waitc (o : Ops) : Statement (.waitc o) := every _
theorem cntrd (o : Ops) : Statement (.cntrd o) := every _
theorem sclaim (o : Ops) : Statement (.sclaim o) := every _
theorem srel (o : Ops) : Statement (.srel o) := every _
theorem swr (o : Ops) : Statement (.swr o) := every _
theorem srd (o : Ops) : Statement (.srd o) := every _
theorem aclaim (o : Ops) : Statement (.aclaim o) := every _
theorem arel (o : Ops) : Statement (.arel o) := every _
theorem mma (o : Ops) : Statement (.mma o) := every _
theorem aclr (o : Ops) : Statement (.aclr o) := every _
theorem ard (o : Ops) : Statement (.ard o) := every _
theorem awr (o : Ops) : Statement (.awr o) := every _
theorem aop (o : Ops) : Statement (.aop o) := every _
theorem adrn (o : Ops) : Statement (.adrn o) := every _
theorem fence (o : Ops) : Statement (.fence o) := every _
theorem bar (o : Ops) : Statement (.bar o) := every _
theorem bara (o : Ops) : Statement (.bara o) := every _
theorem barw (o : Ops) : Statement (.barw o) := every _
theorem boinit (o : Ops) : Statement (.boinit o) := every _
theorem boexp (o : Ops) : Statement (.boexp o) := every _
theorem boarr (o : Ops) : Statement (.boarr o) := every _
theorem bowait (o : Ops) : Statement (.bowait o) := every _
theorem alinit (o : Ops) : Statement (.alinit o) := every _
theorem altake (o : Ops) : Statement (.altake o) := every _
theorem algive (o : Ops) : Statement (.algive o) := every _
theorem alread (o : Ops) : Statement (.alread o) := every _
theorem alpeek (o : Ops) : Statement (.alpeek o) := every _
theorem alclose (o : Ops) : Statement (.alclose o) := every _
theorem launch (o : Ops) : Statement (.launch o) := every _
theorem ndec (o : Ops) : Statement (.ndec o) := every _
theorem evsig (o : Ops) : Statement (.evsig o) := every _
theorem csrrd (o : Ops) : Statement (.csrrd o) := every _
theorem csrwr (o : Ops) : Statement (.csrwr o) := every _
theorem tret (o : Ops) : Statement (.tret o) := every _
theorem ctxsv (o : Ops) : Statement (.ctxsv o) := every _
theorem ctxld (o : Ops) : Statement (.ctxld o) := every _
theorem xlinv (o : Ops) : Statement (.xlinv o) := every _
theorem unassignedOpcode (w : DWord) : Statement (.unassignedOpcode w) := every _
theorem registerWrite (off : Nat) (width : Nat) (v : DWord) : Statement (.registerWrite off width v) := every _
theorem trainingAttemptDone (u : TrainUnit) (pass : Bool) : Statement (.trainingAttemptDone u pass) := every _
theorem minSvnRaise (v : BitVec 16) : Statement (.minSvnRaise v) := every _
theorem attestationReport (nonce : List Byte) : Statement (.attestationReport nonce) := every _
theorem setPartitionMode (m : PartMode) : Statement (.setPartitionMode m) := every _
theorem contextCreate (asid : BitVec 16) (spec : CtxSpec) : Statement (.contextCreate asid spec) := every _
theorem rootEntryUpdate (asid : BitVec 16) (heap : Fin 16) (entry : DWord) : Statement (.rootEntryUpdate asid heap entry) := every _
theorem slotWrite (slot : Nat) (first : Nat) (bytes : List Byte) : Statement (.slotWrite slot first bytes) := every _
theorem nodeArm (slot : Nat) (record : Blk) : Statement (.nodeArm slot record) := every _
theorem decrement (slot : Nat) : Statement (.decrement slot) := every _
theorem priorityAgeing (slot : Nat) : Statement (.priorityAgeing slot) := every _
theorem placeWorkgroup (partition : Nat) : Statement (.placeWorkgroup partition) := every _
theorem reclaimDone (wg : Nat) : Statement (.reclaimDone wg) := every _
theorem preemptCandidate (partition : Nat) : Statement (.preemptCandidate partition) := every _
theorem vacateRequest (wg : Nat) : Statement (.vacateRequest wg) := every _
theorem vacateAbandonTimer (wg : Nat) : Statement (.vacateAbandonTimer wg) := every _
theorem workgroupSave (wg : Nat) : Statement (.workgroupSave wg) := every _
theorem vacateDone (wg : Nat) : Statement (.vacateDone wg) := every _
theorem workgroupRestore (wg : Nat) : Statement (.workgroupRestore wg) := every _
theorem workgroupRetire (wg : Nat) : Statement (.workgroupRetire wg) := every _
theorem completionReleaseDone (slot : Nat) : Statement (.completionReleaseDone slot) := every _
theorem completionWordDone (slot : Nat) : Statement (.completionWordDone slot) := every _
theorem icacheFill (core : Nat) : Statement (.icacheFill core) := every _
theorem fetchBufferFill (core : Nat) : Statement (.fetchBufferFill core) := every _
theorem constFillReturn (core : Nat) (victim : Option Nat) : Statement (.constFillReturn core victim) := every _
theorem loadResponse (core : Nat) (victim : Option Nat) : Statement (.loadResponse core victim) := every _
theorem storeConfirm (core : Nat) : Statement (.storeConfirm core) := every _
theorem storeBufferDrain (core : Nat) (lgrp : Nat) : Statement (.storeBufferDrain core lgrp) := every _
theorem writeThroughArrive (die : Nat) (slice : Nat) : Statement (.writeThroughArrive die slice) := every _
theorem sliceRead (die : Nat) (slice : Nat) : Statement (.sliceRead die slice) := every _
theorem sliceFillReturn (die : Nat) (slice : Nat) (victim : Option Nat) : Statement (.sliceFillReturn die slice victim) := every _
theorem lsBankAccept (core : Nat) (bank : Nat) : Statement (.lsBankAccept core bank) := every _
theorem peerLsAccess (core : Nat) : Statement (.peerLsAccess core) := every _
theorem translationWalk (heap : Nat) : Statement (.translationWalk heap) := every _
theorem faultResponse (core : Nat) : Statement (.faultResponse core) := every _
theorem parkReleaseReplay (parkId : Word) : Statement (.parkReleaseReplay parkId) := every _
theorem parkReleaseFail (parkId : Word) : Statement (.parkReleaseFail parkId) := every _
theorem parkReplay (sheaf : Nat) : Statement (.parkReplay sheaf) := every _
theorem responseTimeTrap (sheaf : Nat) : Statement (.responseTimeTrap sheaf) := every _
theorem debugResume (sheaf : Nat) (skip : Bool) : Statement (.debugResume sheaf skip) := every _
theorem debugRegisterAccess (sheaf : Nat) (reg : Nat) (thread : Nat) (write : Option Word) : Statement (.debugRegisterAccess sheaf reg thread write) := every _
theorem debugPatchPinned (core : Nat) (asid : BitVec 16) (va : DWord) (word : DWord) : Statement (.debugPatchPinned core asid va word) := every _
theorem sleepExpiry (sheaf : Nat) : Statement (.sleepExpiry sheaf) := every _
theorem barrierWake (sheaf : Nat) : Statement (.barrierWake sheaf) := every _
theorem boWake (sheaf : Nat) : Statement (.boWake sheaf) := every _
theorem releaseDone (sheaf : Nat) : Statement (.releaseDone sheaf) := every _
theorem atomicLineIdleWriteThrough (core : Nat) (line : Nat) : Statement (.atomicLineIdleWriteThrough core line) := every _
theorem l1Atomic (core : Nat) (victim : Option Nat) : Statement (.l1Atomic core victim) := every _
theorem atomicResponse (core : Nat) : Statement (.atomicResponse core) := every _
theorem hostAtomicopCompletion (result : Option DWord) : Statement (.hostAtomicopCompletion result) := every _
theorem crossbarGrant (die : Nat) (output : Nat) : Statement (.crossbarGrant die output) := every _
theorem linkPortSend (die : Nat) (toDie : Nat) : Statement (.linkPortSend die toDie) := every _
theorem apertureRead (off : Nat) (len : Nat) : Statement (.apertureRead off len) := every _
theorem apertureWrite (off : Nat) (bytes : List Byte) : Statement (.apertureWrite off bytes) := every _
theorem msixVectorUnmask (vector : Nat) : Statement (.msixVectorUnmask vector) := every _
theorem engineOpBegin (core : Nat) : Statement (.engineOpBegin core) := every _
theorem engineBlockWrite (core : Nat) : Statement (.engineBlockWrite core) := every _
theorem boArrival (core : Nat) : Statement (.boArrival core) := every _
theorem engineComplete (core : Nat) : Statement (.engineComplete core) := every _
theorem matrixAdmit (core : Nat) (lgrp : Nat) : Statement (.matrixAdmit core lgrp) := every _
theorem matrixOpBegin (core : Nat) (lgrp : Nat) : Statement (.matrixOpBegin core lgrp) := every _
theorem matrixOpEnd (core : Nat) (lgrp : Nat) : Statement (.matrixOpEnd core lgrp) := every _
theorem swrCommit (core : Nat) (lane : Nat) : Statement (.swrCommit core lane) := every _
theorem xlinvDone (sheaf : Nat) : Statement (.xlinvDone sheaf) := every _
theorem mxCmdFree (core : Nat) : Statement (.mxCmdFree core) := every _
theorem mxCmdAdopt (core : Nat) : Statement (.mxCmdAdopt core) := every _
theorem migrationCopyPhaseDone (page : Nat) : Statement (.migrationCopyPhaseDone page) := every _
theorem hbmRateChange (stack : Nat) (rate : BitVec 2) : Statement (.hbmRateChange stack rate) := every _
theorem hbmChannelRateSwitched (stack : Nat) (channel : Nat) : Statement (.hbmChannelRateSwitched stack channel) := every _
theorem hbmPowerDownEntry (stack : Nat) (pc : Nat) : Statement (.hbmPowerDownEntry stack pc) := every _
theorem hbmSelfRefreshEntry (stack : Nat) (pc : Nat) : Statement (.hbmSelfRefreshEntry stack pc) := every _
theorem hbmCrcFailure (stack : Nat) (channel : Nat) : Statement (.hbmCrcFailure stack channel) := every _
theorem eccErrorDetected (loc : EccLoc) (uncorrectable : Bool) : Statement (.eccErrorDetected loc uncorrectable) := every _
theorem registerScrub (core : Nat) : Statement (.registerScrub core) := every _
theorem expanderLinkDrop (port : Nat) : Statement (.expanderLinkDrop port) := every _
theorem troxiaFlitReceive (port : Nat) (flit : Flit) : Statement (.troxiaFlitReceive port flit) := every _
theorem troxiaPortDown (port : Nat) : Statement (.troxiaPortDown port) := every _
theorem keyRollover (port : Nat) (seq : BitVec 24) : Statement (.keyRollover port seq) := every _
theorem troxiaOldKeyErase (port : Nat) : Statement (.troxiaOldKeyErase port) := every _
theorem powerAverageUpdate (mw : Word) : Statement (.powerAverageUpdate mw) := every _
theorem dieOverTemperature (die : Nat) (temp : BitVec 16) : Statement (.dieOverTemperature die temp) := every _
theorem engineBlockReadReturn (core : Nat) : Statement (.engineBlockReadReturn core) := every _
theorem linkPortReceive (die : Nat) (fromDie : Nat) : Statement (.linkPortReceive die fromDie) := every _
theorem contextTeardown (asid : BitVec 16) : Statement (.contextTeardown asid) := every _
theorem workgroupRestoreDone (wg : Nat) : Statement (.workgroupRestoreDone wg) := every _
theorem hostReadCompletion (data : Option Blk) : Statement (.hostReadCompletion data) := every _
theorem expanderAccessCompletion (poisoned : Bool) : Statement (.expanderAccessCompletion poisoned) := every _
theorem dieTemperatureBelowLimit (die : Nat) (temp : BitVec 16) : Statement (.dieTemperatureBelowLimit die temp) := every _
theorem packageReset : Statement (.packageReset) := every _
theorem manifestCheck : Statement (.manifestCheck) := every _
theorem recoveryCheckAndStore : Statement (.recoveryCheckAndStore) := every _
theorem recoverySetChecked : Statement (.recoverySetChecked) := every _
theorem recoveryResetRequest : Statement (.recoveryResetRequest) := every _
theorem hostPortLinkUp : Statement (.hostPortLinkUp) := every _
theorem transitionGraceExpiry : Statement (.transitionGraceExpiry) := every _
theorem transitionFinish : Statement (.transitionFinish) := every _
theorem heap14Restore : Statement (.heap14Restore) := every _
theorem homeWrite : Statement (.homeWrite) := every _
theorem writeAck : Statement (.writeAck) := every _
theorem sliceMarker : Statement (.sliceMarker) := every _
theorem faultRecordTimer : Statement (.faultRecordTimer) := every _
theorem faultQueueRoom : Statement (.faultQueueRoom) := every _
theorem homeAtomic : Statement (.homeAtomic) := every _
theorem hostFlushReadComplete : Statement (.hostFlushReadComplete) := every _
theorem troxiaPodMarker : Statement (.troxiaPodMarker) := every _
theorem hostPostedWrite : Statement (.hostPostedWrite) := every _
theorem alTakeAtDie : Statement (.alTakeAtDie) := every _
theorem alTakeAtHome : Statement (.alTakeAtHome) := every _
theorem alGrant : Statement (.alGrant) := every _
theorem alRecall : Statement (.alRecall) := every _
theorem alReturn : Statement (.alReturn) := every _
theorem alGiveForward : Statement (.alGiveForward) := every _
theorem alPoison : Statement (.alPoison) := every _
theorem alAnswer : Statement (.alAnswer) := every _
theorem evsigRequest : Statement (.evsigRequest) := every _
theorem ctxsvRequest : Statement (.ctxsvRequest) := every _
theorem ctxldRequest : Statement (.ctxldRequest) := every _
theorem hubStatusReturn : Statement (.hubStatusReturn) := every _
theorem trackingPeriodEnd : Statement (.trackingPeriodEnd) := every _
theorem expanderAccessTimeout : Statement (.expanderAccessTimeout) := every _
theorem homeRead : Statement (.homeRead) := every _
theorem remoteStoreAck : Statement (.remoteStoreAck) := every _
theorem alreadAlcloseAtHome : Statement (.alreadAlcloseAtHome) := every _

end Sys2Proof.Laws.Opcode
end

