-- ==== Sys2Proof/Tests/Slice0.lean ====
section
/-! SUPPORT. Tests of the model: ill-formed terms, words of every instruction written out from the spec's encoding tables (R126, R128,
R133, R134, R137, R139), one-step checks, and for each statement states and operands that meet its hypotheses. -/

namespace Sys2Proof.Tests

open Sys2Proof Sys2Proof.Machine

set_option maxRecDepth 20000
set_option exponentiation.threshold 600

/-! A small machine: one context, one node, one workgroup of one sheaf of 64 registers in slot 0, at USER level, chosen. -/

def ctx1 : Context :=
  { partition := 0, mode := .one, sys := true, trapBase := 0x10000, root := List.replicate 16 0, saveAreas := [], repro := false, seed := 0 }

def regsOf (rs : List (Nat × Word)) : Map Word :=
  rs.flatMap (fun r => (List.range 32).map (fun t => (r.1 * 32 + t, r.2)))

def sheaf1 : Sheaf := { Sheaf.placed 1 0 0x400 1 .user 0 with regs := regsOf [(9, 1)] }
def wg1 : Workgroup := { probeWorkgroup with node := 5, asid := 1, nReg := 64 }
def node1 : Node :=
  { record := 0, asid := 1, windows := [], succ := [], live := 0, armTime := 0, next := 1, retired := 0, dies := [], blocked := none,
    waiting := 0, prio := 3, claimant := false, errored := false, held := false, key := 0, compl := .none }

def machine (rs : List (Nat × Word)) : State :=
  { State.reset with
    dev := { State.reset.dev with phase := 6 }
    ctxs := [(1, ctx1)]
    nodes := [(5, node1)]
    wgs := [(1, wg1)]
    sheaves := [(0, { sheaf1 with regs := regsOf rs })]
    cur := some 0 }
def box : State := machine [(9, 1)]
def priv : State := { box with sheaves := [(0, { sheaf1 with level := .system })] }

/-! The conditions of `Starts` as a check, and what it gives. -/

def starts (s : State) (i : Instr) (k : Nat) : Bool :=
  match i.form, s.sheaf k with
  | some (o, f), some sh =>
    (match mapFind s.wgs sh.wg with
    | some w => decide (s.cur = some k) && sh.issues && scoreboardFree sh o f
        && decide (decodeFails sh.level (i.opcode.getD 0) i.wfGeneral = none) && operandsOk w.nReg o f && latchesOk sh.atHead o
        && decide (poisonedThreads sh.atHead (execMask sh.atHead o.pn o.p) o f = 0)
        && (decide (execMask sh.atHead o.pn o.p = 0) || ((s.setSheaf k sh.atHead).extValue k w o f).ok)
    | none => false)
  | _, _ => false

theorem starts_gives {s : State} {i : Instr} {k : Nat} (h : starts s i k = true) : ∃ o f sh w, Starts s i o f k sh w := by
  unfold starts at h
  split at h
  · rename_i o f sh hf hs
    split at h
    · rename_i w hw
      simp only [Bool.and_eq_true, Bool.or_eq_true, decide_eq_true_eq] at h
      obtain ⟨⟨⟨⟨⟨⟨⟨h1, h2⟩, h3⟩, h4⟩, h5⟩, h6⟩, h7⟩, h8⟩ := h
      exact ⟨o, f, sh, w, ⟨hf, h1, hs, hw, h2, h3, h4, h5, h6, h7, h8⟩⟩
    · cases h
  · cases h

/-- A word decodes to an instruction that may start, with every thread executing. -/
def startsAt (s : State) (w : Nat) (i : Instr) : Bool := decide (decodeTableWord 128 w = some i) && starts s i 0


theorem words_control : [
    (0x0000000000000000, Instr.nop plainOps),
    (0x02400C0404000003, Instr.brx { plainOps with p := 9, b := .imm 1, a := .reg 4 }),
    (0x02400C0404000005, Instr.callx { plainOps with p := 9, b := .imm 1, a := .reg 4 }),
    (0x0240000000000006, Instr.ret { plainOps with p := 9 }),
    (0x0240000000000007, Instr.exit { plainOps with p := 9 }),
    (0x0000000000000008, Instr.yield plainOps),
    (0x0240000004000009, Instr.sleep { plainOps with p := 9, a := .reg 4 }),
    (0x024000000000000A, Instr.brk { plainOps with p := 9 }),
    (0x024000030100000B, Instr.trap { plainOps with p := 9, a := .imm 1 }),
    (0x024000000408000C, Instr.cfetch { plainOps with p := 9, a := .reg 4, mod := 1 }),
    (0x02400000040A080D, Instr.cpin { plainOps with p := 9, a := .reg 4, mod := 1, ls := true, d := 8 }),
    (0x024000000408000E, Instr.cunpin { plainOps with p := 9, a := .reg 4, mod := 1 }) ].all (fun p => startsAt box p.1 p.2) = true := by decide

theorem words_integer : [
    (0x02400030040A0810, Instr.iadd { plainOps with p := 9, b := .reg 12, a := .reg 4, mod := 1, ls := true, d := 8 }),
    (0x02400030040A0811, Instr.isub { plainOps with p := 9, b := .reg 12, a := .reg 4, mod := 1, ls := true, d := 8 }),
    (0x02410030040A0812, Instr.isum3 { plainOps with p := 9, c := .reg 16, b := .reg 12, a := .reg 4, mod := 1, ls := true, d := 8 }),
    (0x0240003004020813, Instr.imul { plainOps with p := 9, b := .reg 12, a := .reg 4, ls := true, d := 8 }),
    (0x02400030040A0814, Instr.imulh { plainOps with p := 9, b := .reg 12, a := .reg 4, mod := 1, ls := true, d := 8 }),
    (0x0241003004020815, Instr.imac { plainOps with p := 9, c := .reg 16, b := .reg 12, a := .reg 4, ls := true, d := 8 }),
    (0x02410030040A0816, Instr.imacw { plainOps with p := 9, c := .reg 16, b := .reg 12, a := .reg 4, mod := 1, ls := true, d := 8 }),
    (0x0240003004020817, Instr.iadd64 { plainOps with p := 9, b := .reg 12, a := .reg 4, ls := true, d := 8 }),
    (0x0240003004020818, Instr.isub64 { plainOps with p := 9, b := .reg 12, a := .reg 4, ls := true, d := 8 }),
    (0x02400030040A0819, Instr.imin { plainOps with p := 9, b := .reg 12, a := .reg 4, mod := 1, ls := true, d := 8 }),
    (0x02400030040A081A, Instr.imax { plainOps with p := 9, b := .reg 12, a := .reg 4, mod := 1, ls := true, d := 8 }),
    (0x02400000040A081B, Instr.iabs { plainOps with p := 9, a := .reg 4, mod := 1, ls := true, d := 8 }),
    (0x027020300402081C, Instr.lea { plainOps with p := 9, c := .imm 2, b := .reg 12, a := .reg 4, ls := true, d := 8 }),
    (0x02702030040A081D, Instr.lea64 { plainOps with p := 9, c := .imm 2, b := .reg 12, a := .reg 4, mod := 1, ls := true, d := 8 }),
    (0x02410030040A081E, Instr.idot4 { plainOps with p := 9, c := .reg 16, b := .reg 12, a := .reg 4, mod := 1, ls := true, d := 8 }),
    (0x02410030040A081F, Instr.idot2 { plainOps with p := 9, c := .reg 16, b := .reg 12, a := .reg 4, mod := 1, ls := true, d := 8 }) ].all (fun p => startsAt box p.1 p.2) = true := by decide

theorem words_logic : [
    (0x0240003004020820, Instr.and { plainOps with p := 9, b := .reg 12, a := .reg 4, ls := true, d := 8 }),
    (0x0240003004020821, Instr.or { plainOps with p := 9, b := .reg 12, a := .reg 4, ls := true, d := 8 }),
    (0x0240003004020822, Instr.xor { plainOps with p := 9, b := .reg 12, a := .reg 4, ls := true, d := 8 }),
    (0x0240003004020823, Instr.andn { plainOps with p := 9, b := .reg 12, a := .reg 4, ls := true, d := 8 }),
    (0x0270203004020824, Instr.lsel { plainOps with p := 9, c := .imm 2, b := .reg 12, a := .reg 4, ls := true, d := 8 }),
    (0x0240003004020825, Instr.shl { plainOps with p := 9, b := .reg 12, a := .reg 4, ls := true, d := 8 }),
    (0x02400030040A0826, Instr.shr { plainOps with p := 9, b := .reg 12, a := .reg 4, mod := 1, ls := true, d := 8 }),
    (0x02400030040A0827, Instr.rot { plainOps with p := 9, b := .reg 12, a := .reg 4, mod := 1, ls := true, d := 8 }),
    (0x02410030040A0828, Instr.shd { plainOps with p := 9, c := .reg 16, b := .reg 12, a := .reg 4, mod := 1, ls := true, d := 8 }),
    (0x0240000004020829, Instr.popc { plainOps with p := 9, a := .reg 4, ls := true, d := 8 }),
    (0x024000000402082A, Instr.clz { plainOps with p := 9, a := .reg 4, ls := true, d := 8 }),
    (0x024000000402082B, Instr.brev { plainOps with p := 9, a := .reg 4, ls := true, d := 8 }),
    (0x02400030040A082C, Instr.xfld { plainOps with p := 9, b := .reg 12, a := .reg 4, mod := 1, ls := true, d := 8 }),
    (0x024100300402082D, Instr.ifld { plainOps with p := 9, c := .reg 16, b := .reg 12, a := .reg 4, ls := true, d := 8 }),
    (0x024100300402082E, Instr.bmux { plainOps with p := 9, c := .reg 16, b := .reg 12, a := .reg 4, ls := true, d := 8 }),
    (0x02400030040A082F, Instr.clmul { plainOps with p := 9, b := .reg 12, a := .reg 4, mod := 1, ls := true, d := 8 }) ].all (fun p => startsAt box p.1 p.2) = true := by decide

theorem words_compare : [
    (0x02400030040A0830, Instr.icmp { plainOps with p := 9, b := .reg 12, a := .reg 4, mod := 1, ls := true, d := 8 }),
    (0x02400030040A0831, Instr.fcmp { plainOps with p := 9, b := .reg 12, a := .reg 4, mod := 1, ls := true, d := 8 }),
    (0x0241003004020832, Instr.sel { plainOps with p := 9, c := .reg 16, b := .reg 12, a := .reg 4, ls := true, d := 8 }),
    (0x0240000004020833, Instr.mov { plainOps with p := 9, a := .reg 4, ls := true, d := 8 }),
    (0x02400000040A0834, Instr.movi { plainOps with p := 9, a := .reg 4, mod := 1, ls := true, d := 8 }),
    (0x0240000301020835, Instr.movs { plainOps with p := 9, a := .imm 1, ls := true, d := 8 }),
    (0x0240000004020836, Instr.mov64 { plainOps with p := 9, a := .reg 4, ls := true, d := 8 }),
    (0x02400030040A0837, Instr.icmp64 { plainOps with p := 9, b := .reg 12, a := .reg 4, mod := 1, ls := true, d := 8 }) ].all (fun p => startsAt box p.1 p.2) = true := by decide

theorem words_fp32 : [
    (0x02400030040A0840, Instr.fadd { plainOps with p := 9, b := .reg 12, a := .reg 4, mod := 1, ls := true, d := 8 }),
    (0x02400030040A0841, Instr.fmul { plainOps with p := 9, b := .reg 12, a := .reg 4, mod := 1, ls := true, d := 8 }),
    (0x02410030040A0842, Instr.ffma { plainOps with p := 9, c := .reg 16, b := .reg 12, a := .reg 4, mod := 1, ls := true, d := 8 }),
    (0x0240003004220843, Instr.fmin { plainOps with p := 9, b := .reg 12, a := .reg 4, mod := 4, ls := true, d := 8 }),
    (0x0240003004220844, Instr.fmax { plainOps with p := 9, b := .reg 12, a := .reg 4, mod := 4, ls := true, d := 8 }),
    (0x02400000040A0845, Instr.frnd { plainOps with p := 9, a := .reg 4, mod := 1, ls := true, d := 8 }),
    (0x02400000040A0846, Instr.ffrc { plainOps with p := 9, a := .reg 4, mod := 1, ls := true, d := 8 }),
    (0x02400030040A0847, Instr.fscl { plainOps with p := 9, b := .reg 12, a := .reg 4, mod := 1, ls := true, d := 8 }),
    (0x0240000004220848, Instr.frcp { plainOps with p := 9, a := .reg 4, mod := 4, ls := true, d := 8 }),
    (0x0240000004220849, Instr.frsq { plainOps with p := 9, a := .reg 4, mod := 4, ls := true, d := 8 }),
    (0x02400000040A084A, Instr.fsqrt { plainOps with p := 9, a := .reg 4, mod := 1, ls := true, d := 8 }),
    (0x02400030040A084B, Instr.fdiv { plainOps with p := 9, b := .reg 12, a := .reg 4, mod := 1, ls := true, d := 8 }),
    (0x024000000422084C, Instr.fex2 { plainOps with p := 9, a := .reg 4, mod := 4, ls := true, d := 8 }),
    (0x024000000422084D, Instr.flg2 { plainOps with p := 9, a := .reg 4, mod := 4, ls := true, d := 8 }),
    (0x024000000422084E, Instr.fsin { plainOps with p := 9, a := .reg 4, mod := 4, ls := true, d := 8 }),
    (0x024000000422084F, Instr.fcos { plainOps with p := 9, a := .reg 4, mod := 4, ls := true, d := 8 }) ].all (fun p => startsAt box p.1 p.2) = true := by decide

theorem words_packed : [
    (0x02400030040A0850, Instr.hadd2 { plainOps with p := 9, b := .reg 12, a := .reg 4, mod := 1, ls := true, d := 8 }),
    (0x02400030040A0851, Instr.hmul2 { plainOps with p := 9, b := .reg 12, a := .reg 4, mod := 1, ls := true, d := 8 }),
    (0x02410030040A0852, Instr.hfma2 { plainOps with p := 9, c := .reg 16, b := .reg 12, a := .reg 4, mod := 1, ls := true, d := 8 }),
    (0x0240003004220853, Instr.hmin2 { plainOps with p := 9, b := .reg 12, a := .reg 4, mod := 4, ls := true, d := 8 }),
    (0x0240003004220854, Instr.hmax2 { plainOps with p := 9, b := .reg 12, a := .reg 4, mod := 4, ls := true, d := 8 }),
    (0x02410030040A0855, Instr.fdp2 { plainOps with p := 9, c := .reg 16, b := .reg 12, a := .reg 4, mod := 1, ls := true, d := 8 }),
    (0x02410030040A0856, Instr.fdp4 { plainOps with p := 9, c := .reg 16, b := .reg 12, a := .reg 4, mod := 1, ls := true, d := 8 }),
    (0x02400000040A0857, Instr.f2i { plainOps with p := 9, a := .reg 4, mod := 1, ls := true, d := 8 }),
    (0x02400000040A0858, Instr.i2f { plainOps with p := 9, a := .reg 4, mod := 1, ls := true, d := 8 }),
    (0x02400C08040A0859, Instr.f2f { plainOps with p := 9, b := .imm 2, a := .reg 4, mod := 1, ls := true, d := 8 }),
    (0x02400030040A085A, Instr.cvpk { plainOps with p := 9, b := .reg 12, a := .reg 4, mod := 1, ls := true, d := 8 }),
    (0x02400030040A085B, Instr.cvup { plainOps with p := 9, b := .reg 12, a := .reg 4, mod := 1, ls := true, d := 8 }),
    (0x02410000040A085C, Instr.dsenc { plainOps with p := 9, c := .reg 16, a := .reg 4, mod := 1, ls := true, d := 8 }),
    (0x024000300402085D, Instr.dsdec { plainOps with p := 9, b := .reg 12, a := .reg 4, ls := true, d := 8 }) ].all (fun p => startsAt box p.1 p.2) = true := by decide

theorem words_cross : [
    (0x02400030040A0860, Instr.relay { plainOps with p := 9, b := .reg 12, a := .reg 4, mod := 1, ls := true, d := 8 }),
    (0x02400000040A0861, Instr.poll { plainOps with p := 9, a := .reg 4, mod := 1, ls := true, d := 8 }),
    (0x02400000040A0862, Instr.sred { plainOps with p := 9, a := .reg 4, mod := 1, ls := true, d := 8 }),
    (0x02400000040A0863, Instr.sscan { plainOps with p := 9, a := .reg 4, mod := 1, ls := true, d := 8 }),
    (0x02400000040A0864, Instr.matchv { plainOps with p := 9, a := .reg 4, mod := 1, ls := true, d := 8 }),
    (0x02400000040A0865, Instr.firstv { plainOps with p := 9, a := .reg 4, mod := 1, ls := true, d := 8 }) ].all (fun p => startsAt box p.1 p.2) = true := by decide

theorem words_memory : [
    (0x02400000040A0870, Instr.ld { plainOps with p := 9, a := .reg 4, mod := 1, ls := true, d := 8 }),
    (0x0240003004080071, Instr.st { plainOps with p := 9, b := .reg 12, a := .reg 4, mod := 1 }),
    (0x02400030040A0872, Instr.ldb { plainOps with p := 9, b := .reg 12, a := .reg 4, mod := 1, ls := true, d := 8 }),
    (0x0241003004080073, Instr.stb { plainOps with p := 9, c := .reg 16, b := .reg 12, a := .reg 4, mod := 1 }),
    (0x0240003004020874, Instr.ldtg { plainOps with p := 9, b := .reg 12, a := .reg 4, ls := true, d := 8 }),
    (0x0241003004000075, Instr.sttg { plainOps with p := 9, c := .reg 16, b := .reg 12, a := .reg 4 }),
    (0x0240000004020876, Instr.tagrd { plainOps with p := 9, a := .reg 4, ls := true, d := 8 }),
    (0x0240003004000077, Instr.tagwr { plainOps with p := 9, b := .reg 12, a := .reg 4 }),
    (0x0240000004080078, Instr.pref { plainOps with p := 9, a := .reg 4, mod := 1 }),
    (0x0240000004080079, Instr.cctl { plainOps with p := 9, a := .reg 4, mod := 1 }) ].all (fun p => startsAt box p.1 p.2) = true := by decide

theorem words_atomic : [
    (0x02400030040A0880, Instr.atom { plainOps with p := 9, b := .reg 12, a := .reg 4, mod := 1, ls := true, d := 8 }),
    (0x02400030040A0881, Instr.atom64 { plainOps with p := 9, b := .reg 12, a := .reg 4, mod := 1, ls := true, d := 8 }),
    (0x0241003004020882, Instr.cas { plainOps with p := 9, c := .reg 16, b := .reg 12, a := .reg 4, ls := true, d := 8 }),
    (0x0241003004020883, Instr.cas64 { plainOps with p := 9, c := .reg 16, b := .reg 12, a := .reg 4, ls := true, d := 8 }),
    (0x02400030040A0884, Instr.fatom { plainOps with p := 9, b := .reg 12, a := .reg 4, mod := 1, ls := true, d := 8 }),
    (0x02400030040A0885, Instr.hatom2 { plainOps with p := 9, b := .reg 12, a := .reg 4, mod := 1, ls := true, d := 8 }),
    (0x0240003004080086, Instr.red { plainOps with p := 9, b := .reg 12, a := .reg 4, mod := 1 }),
    (0x0240003004080087, Instr.fred { plainOps with p := 9, b := .reg 12, a := .reg 4, mod := 1 }) ].all (fun p => startsAt box p.1 p.2) = true := by decide

theorem words_engine : [
    (0x0240003004080090, Instr.cpy { plainOps with p := 9, b := .reg 12, a := .reg 4, mod := 1 }),
    (0x0241003004400091, Instr.gath { plainOps with p := 9, c := .reg 16, b := .reg 12, a := .reg 4, mod := 8 }),
    (0x0241003004080092, Instr.bags { plainOps with p := 9, c := .reg 16, b := .reg 12, a := .reg 4, mod := 1 }),
    (0x0241003004000093, Instr.scad { plainOps with p := 9, c := .reg 16, b := .reg 12, a := .reg 4 }),
    (0x0240003004400094, Instr.fill { plainOps with p := 9, b := .reg 12, a := .reg 4, mod := 8 }),
    (0x0240000301080095, Instr.waitc { plainOps with p := 9, a := .imm 1, mod := 1 }),
    (0x02400000000A0896, Instr.cntrd { plainOps with p := 9, mod := 1, ls := true, d := 8 }) ].all (fun p => startsAt box p.1 p.2) = true := by decide

theorem words_matrix : [
    (0x02400000040208A0, Instr.sclaim { plainOps with p := 9, a := .reg 4, ls := true, d := 8 }),
    (0x02400030040000A1, Instr.srel { plainOps with p := 9, b := .reg 12, a := .reg 4 }),
    (0x02410030040000A2, Instr.swr { plainOps with p := 9, c := .reg 16, b := .reg 12, a := .reg 4 }),
    (0x02400000040A08A3, Instr.srd { plainOps with p := 9, a := .reg 4, mod := 1, ls := true, d := 8 }),
    (0x02400000040208A4, Instr.aclaim { plainOps with p := 9, a := .reg 4, ls := true, d := 8 }),
    (0x02400030040000A5, Instr.arel { plainOps with p := 9, b := .reg 12, a := .reg 4 }),
    (0x02410030040800A6, Instr.mma { plainOps with p := 9, c := .reg 16, b := .reg 12, a := .reg 4, mod := 1 }),
    (0x02400000040000A7, Instr.aclr { plainOps with p := 9, a := .reg 4 }),
    (0x02400000040208A8, Instr.ard { plainOps with p := 9, a := .reg 4, ls := true, d := 8 }),
    (0x02400030040000A9, Instr.awr { plainOps with p := 9, b := .reg 12, a := .reg 4 }),
    (0x02400030040800AA, Instr.aop { plainOps with p := 9, b := .reg 12, a := .reg 4, mod := 1 }),
    (0x02410030042000AB, Instr.adrn { plainOps with p := 9, c := .reg 16, b := .reg 12, a := .reg 4, mod := 4 }) ].all (fun p => startsAt box p.1 p.2) = true := by decide

theorem words_sync : [
    (0x800000150000000082400000000000B0, Instr.fence { plainOps with ext := .attr { ispec := 0, policy := 0, order := 2, scope := 5, offset := 0 }, p := 9 }),
    (0x02400000040800B1, Instr.bar { plainOps with p := 9, a := .reg 4, mod := 1 }),
    (0x02400000040A08B2, Instr.bara { plainOps with p := 9, a := .reg 4, mod := 1, ls := true, d := 8 }),
    (0x02400030040800B3, Instr.barw { plainOps with p := 9, b := .reg 12, a := .reg 4, mod := 1 }),
    (0x02400030040000B4, Instr.boinit { plainOps with p := 9, b := .reg 12, a := .reg 4 }),
    (0x02400030040000B5, Instr.boexp { plainOps with p := 9, b := .reg 12, a := .reg 4 }),
    (0x02400030040208B6, Instr.boarr { plainOps with p := 9, b := .reg 12, a := .reg 4, ls := true, d := 8 }),
    (0x02400030040000B7, Instr.bowait { plainOps with p := 9, b := .reg 12, a := .reg 4 }),
    (0x800000050000004082410030040000B8, Instr.alinit { plainOps with ext := .attr { ispec := 0, policy := 0, order := 0, scope := 5, offset := 64 }, p := 9, c := .reg 16, b := .reg 12, a := .reg 4 }),
    (0x02400030040A08B9, Instr.altake { plainOps with p := 9, b := .reg 12, a := .reg 4, mod := 1, ls := true, d := 8 }),
    (0x02400030040000BA, Instr.algive { plainOps with p := 9, b := .reg 12, a := .reg 4 }),
    (0x02400000040208BB, Instr.alread { plainOps with p := 9, a := .reg 4, ls := true, d := 8 }),
    (0x02400000040208BC, Instr.alpeek { plainOps with p := 9, a := .reg 4, ls := true, d := 8 }),
    (0x02400000040208BD, Instr.alclose { plainOps with p := 9, a := .reg 4, ls := true, d := 8 }) ].all (fun p => startsAt box p.1 p.2) = true := by decide

theorem words_graph : [
    (0x02400030040208C0, Instr.launch { plainOps with p := 9, b := .reg 12, a := .reg 4, ls := true, d := 8 }),
    (0x02400000040000C1, Instr.ndec { plainOps with p := 9, a := .reg 4 }),
    (0x02400030040000C2, Instr.evsig { plainOps with p := 9, b := .reg 12, a := .reg 4 }) ].all (fun p => startsAt box p.1 p.2) = true := by decide

theorem words_system : [
    (0x02400003010A08F0, Instr.csrrd { plainOps with p := 9, a := .imm 1, mod := 1, ls := true, d := 8 }),
    (0x02400033010800F1, Instr.csrwr { plainOps with p := 9, b := .reg 12, a := .imm 1, mod := 1 }),
    (0x00000000000800F2, Instr.tret { plainOps with mod := 1 }),
    (0x02400030040A08F3, Instr.ctxsv { plainOps with p := 9, b := .reg 12, a := .reg 4, mod := 1, ls := true, d := 8 }),
    (0x02400000040208F4, Instr.ctxld { plainOps with p := 9, a := .reg 4, ls := true, d := 8 }),
    (0x02410030041800F5, Instr.xlinv { plainOps with p := 9, c := .reg 16, b := .reg 12, a := .reg 4, mod := 3 }) ].all (fun p => startsAt priv p.1 p.2) = true := by decide

/-! The branch words (R137), one of them worked in the spec. -/

def startsBr (s : State) (i : Instr) (k : Nat) : Bool :=
  match i.branch, s.sheaf k with
  | some o, some sh =>
    (match mapFind s.wgs sh.wg with
    | some w => decide (s.cur = some k) && sh.issues && (o.p == 0 || !sh.pend.getLsbD o.p.toNat) && i.wfBranch && (o.p == 0 || decide (o.p.toNat < w.nReg))
        && (o.p == 0 || sh.force.isSome
          || (List.range 32).all (fun t => !sh.m.getLsbD t || !sh.rpoison.contains (o.p.toNat * 32 + t)))
    | none => false)
  | _, _ => false

theorem startsBr_gives {s : State} {i : Instr} {k : Nat} (h : startsBr s i k = true) : ∃ o sh w, i.branch = some o ∧ StartsBranch s i o k sh w := by
  unfold startsBr at h
  split at h
  · rename_i o sh hf hs
    split at h
    · rename_i w hw
      simp only [Bool.and_eq_true, Bool.or_eq_true, Bool.not_eq_true', beq_iff_eq, decide_eq_true_eq, List.all_eq_true, List.mem_range] at h
      obtain ⟨⟨⟨⟨⟨h1, h2⟩, h3⟩, h4⟩, h5⟩, h6⟩ := h
      refine ⟨o, sh, w, hf, ⟨h1, hs, hw, h2, h3, h4, h5, ?_⟩⟩
      rcases h6 with (h6 | h6) | h6
      · exact .inl h6
      · exact .inr (.inl h6)
      · refine .inr (.inr fun t ht hm => ?_)
        rcases h6 t ht with h | h
        · simp [hm] at h
        · exact h
    · cases h
  · cases h

theorem words_branch :
    decodeTableWord 64 0x000000000FFFFA01 = some (.bra { pn := false, p := 0, rcv := 0, tgt := 0xFFFFA }) ∧
    decodeTableWord 64 0x0240000040000202 = some (.brc { pn := false, p := 9, rcv := 4, tgt := 2 }) ∧
    decodeTableWord 64 0x0000000000000204 = some (.call { pn := false, p := 0, rcv := 0, tgt := 2 }) ∧
    startsBr box (.bra { pn := false, p := 0, rcv := 0, tgt := 0xFFFFA }) 0 = true ∧
    startsBr box (.brc { pn := false, p := 9, rcv := 4, tgt := 2 }) 0 = true ∧
    startsBr box (.call { pn := false, p := 0, rcv := 0, tgt := 2 }) 0 = true := by decide

/-! Ill-formed terms that `wf` refuses, one for each check. -/

theorem refuses_mod : (Instr.and { plainOps with mod := 1 }).wf = false := by decide
theorem refuses_latch_destination : (Instr.st { plainOps with a := .reg 4, ls := true }).wf = false := by decide
theorem refuses_source_kind : (Instr.movs { plainOps with a := .reg 4 }).wf = false := by decide
theorem refuses_unused_field : (Instr.popc { plainOps with b := .reg 4 }).wf = false := by decide
theorem refuses_ext_without_use : (Instr.iadd { plainOps with ext := .imm32 5 }).wf = false := by decide
theorem refuses_use_without_ext : (Instr.iadd { plainOps with b := .ext }).wf = false := by decide
theorem refuses_attr : (Instr.iadd { plainOps with ext := .attr { ispec := 0, policy := 0, order := 0, scope := 0, offset := 0 } }).wf = false := by decide
theorem refuses_hold : (Instr.ld { plainOps with a := .reg 4, hd := true }).wf = false := by decide
theorem refuses_predicate : (Instr.iadd { plainOps with pn := true }).wf = false := by decide
theorem refuses_brc_without_predicate : (Instr.brc { pn := false, p := 0, rcv := 4, tgt := 2 }).wf = false := by decide
theorem refuses_bra_with_reconvergence : (Instr.bra { pn := false, p := 0, rcv := 4, tgt := 2 }).wf = false := by decide
theorem refuses_assigned_opcode : (Instr.unassignedOpcode 0x10).wf = false := by decide
theorem refuses_register_write : (Instr.registerWrite 0x102 4 0).wf = false ∧ (Instr.registerWrite 0x100 3 0).wf = false := by decide
theorem refuses_vector : (Instr.msixVectorUnmask 64).wf = false := by decide
theorem refuses_heap : (Instr.translationWalk 15).wf = false := by decide
theorem refuses_slot : (Instr.nodeArm 65536 0).wf = false ∧ (Instr.slotWrite 0 60 [0, 0, 0, 0, 0]).wf = false ∧ (Instr.decrement 65536).wf = false
    ∧ (Instr.priorityAgeing 65536).wf = false ∧ (Instr.placeWorkgroup 4).wf = false ∧ (Instr.preemptCandidate 4).wf = false := by decide

/-! What the hypotheses of the statements speak of, at slot 0. -/

def ctxAt (s : State) (i : Instr) : Option Ctx :=
  match i.form, s.sheaf 0 with
  | some (o, f), some sh => (mapFind s.wgs sh.wg).map (fun w => startCtx s o f 0 sh w)
  | _, _ => none
def eAt (s : State) (i : Instr) : TMask := ((ctxAt s i).map (fun c => c.e)).getD 0
def eaAt (s : State) (i : Instr) (t : Nat) : DWord :=
  match i.form, ctxAt s i with
  | some (o, _), some c => pointerEa c o t
  | _, _ => 0
def locAt (s : State) (i : Instr) (t : Nat) : Option Loc := s.locate wg1 (eaAt s i t)
def brE (s : State) (o : BrOps) : TMask :=
  match s.sheaf 0 with
  | some sh => (branchCtx s o 0 sh wg1).e
  | none => 0
/-- The machine with its sheaf changed. -/
def boxed (f : Sheaf → Sheaf) : State := { box with sheaves := [(0, f { sheaf1 with regs := regsOf [(9, 1)] })] }
def entry (rpc : DWord) (m : TMask) (ppc : DWord) : StackEntry := { rpc := rpc, pmask := m, ppc := ppc }
/-- Only thread 0 of v9 is not 0. -/
def oneRegs : Map Word := [(288, 1)]

/-! Lanes: every instruction of the families starts at `box` (the theorems `words_…`). -/

theorem witness_IntegerResults : ∃ o f sh w, Starts box (.iadd { plainOps with p := 9, b := .reg 12, a := .reg 4, mod := 1, ls := true, d := 8 }) o f 0 sh w :=
  starts_gives (by decide)
theorem witness_LogicCompareResults : ∃ o f sh w, Starts box (.clmul { plainOps with p := 9, b := .reg 12, a := .reg 4, mod := 1, d := 63 }) o f 0 sh w :=
  starts_gives (by decide)
theorem witness_Fp32Results : ∃ o f sh w, Starts box (.ffma { plainOps with p := 9, c := .reg 16, b := .reg 12, a := .reg 4, d := 8 }) o f 0 sh w :=
  starts_gives (by decide)
theorem witness_PackedConvertResults : ∃ o f sh w, Starts box (.hadd2 { plainOps with p := 9, b := .reg 12, a := .reg 4, d := 8 }) o f 0 sh w :=
  starts_gives (by decide)
theorem witness_CrossResults : ∃ o f sh w, Starts box (.poll { plainOps with p := 9, a := .reg 4, d := 8 }) o f 0 sh w :=
  starts_gives (by decide)

/-! Control. -/

theorem witness_ReconvergenceStack :
    (box.sheaf 0).map (fun sh => sh.stack) = some [] ∧
    ((boxed (fun sh => { sh with stack := [entry 0x408 0xFF 0x500] })).sheaf 0).map (fun sh => decide (sh.pc ≠ 0x408)) = some true ∧
    ((boxed (fun sh => { sh with stack := [entry 0x400 0xFF 0x500] })).sheaf 0).map (fun sh => decide (sh.pc = 0x400 ∧ sh.m ≠ 0)) = some true ∧
    ((boxed (fun sh => { sh with m := 0, stack := [entry 0x500 0xFF 0x500] })).sheaf 0).map (fun sh => decide (sh.m = 0 ∧ sh.spilled = [])) = some true ∧
    (let e := entry 0x600 0xF0 0x608
     let s := (boxed (fun sh => { sh with stack := [entry 0x400 0xFF 0x400], spilled := [e] })).lsWrite 0 (wg1.spillAt 0 0) e.bytes
     s.lsRead 0 (wg1.spillAt 0 0) 16 = e.bytes) := by decide

theorem witness_PushAndSpill :
    (List.replicate 31 (entry 0x400 1 0x400)).length < 32 ∧
    ∃ old rest, List.replicate 32 (entry 0x400 1 0x400) = old :: rest ∧ rest.length = 31 :=
  ⟨by decide, _, _, rfl, by decide⟩

theorem witness_InstructionEnd :
    ((boxed (fun sh => { sh with chain := 6, stack := [entry 0x408 1 0x500] })).sheaf 0).map (fun sh =>
      decide (sh.m ≠ 0 ∧ sh.errCopy = none ∧ sh.errMatrix = none ∧ sh.stack.getLast?.map (fun e => decide (e.rpc ≠ sh.pc)) = some true)) = some true ∧
    ((boxed (fun sh => { sh with chain := 7 })).sheaf 0).map (fun sh => decide (sh.m ≠ 0 ∧ sh.stack = [])) = some true := by decide

/-- SLEEP without a thread, of 0 cycles and of more than the limit; RET with an empty stack, another entry on top, part of M and all of M;
CALL with the last place free and with none. -/
theorem witness_PlainControlAndCalls :
    (let i : Instr := .sleep { plainOps with p := 9, a := .imm 0 }
     starts (machine []) i 0 = true ∧ eAt (machine []) i = 0 ∧ starts box i 0 = true ∧ eAt box i = 0xFFFFFFFF) ∧
    (let i : Instr := .sleep { plainOps with a := .reg 4 }
     starts (machine [(4, 0xFFFFFFFF)]) i 0 = true) ∧
    (let i : Instr := .ret { plainOps with p := 9 }
     starts box i 0 = true ∧
     (let s := boxed (fun sh => { sh with stack := [entry 0x400 1 0x500] })
      starts s i 0 = true) ∧
     (let s := boxed (fun sh => { sh with regs := oneRegs, stack := [entry 0x501 1 0x501] })
      starts s i 0 = true ∧ eAt s i ≠ 0xFFFFFFFF) ∧
     (let s := boxed (fun sh => { sh with stack := [entry 0x501 1 0x501] })
      starts s i 0 = true ∧ eAt s i = 0xFFFFFFFF)) ∧
    (let i : Instr := .call { pn := false, p := 0, rcv := 0, tgt := 2 }
     512 * wg1.nSheaf ≤ wg1.units * 65536 ∧
     startsBr (boxed (fun sh => { sh with stack := List.replicate 32 (entry 0x500 1 0x500), spilled := List.replicate 31 (entry 0x500 1 0x500) })) i 0 = true ∧
     startsBr (boxed (fun sh => { sh with stack := List.replicate 32 (entry 0x500 1 0x500), spilled := List.replicate 32 (entry 0x500 1 0x500) })) i 0 = true) := by
  decide

theorem witness_BranchDiverges :
    (let o : BrOps := { pn := false, p := 9, rcv := 4, tgt := 2 }
     let part := boxed (fun sh => { sh with regs := oneRegs })
     let full := boxed (fun sh => { sh with regs := oneRegs, stack := List.replicate 32 (entry 0x500 1 0x500), spilled := List.replicate 32 (entry 0x500 1 0x500) })
     startsBr box (.brc o) 0 = true ∧ brE box o = 0xFFFFFFFF ∧ startsBr (machine []) (.brc o) 0 = true ∧ brE (machine []) o = 0 ∧
     startsBr part (.brc o) 0 = true ∧ brE part o = 1 ∧ startsBr full (.brc o) 0 = true ∧ brE full o = 1) ∧
    startsBr (boxed (fun sh => { sh with regs := oneRegs })) (.brc { pn := false, p := 9, rcv := 4, tgt := 4 }) 0 = true := by decide

/-- BRX with no thread, to 0x500, with no room, to another space, to a misaligned address and 2^31 words away; CALLX likewise. -/
theorem witness_PeelingBranches :
    (let i : Instr := .brx { plainOps with p := 9, b := .imm 1, a := .reg 4 }
     let j : Instr := .callx { plainOps with p := 9, b := .imm 1, a := .reg 4 }
     let at_ (lo hi : Word) : State := machine [(4, lo), (5, hi), (9, 1)]
     let full : State := boxed (fun sh => { sh with
       regs := [(128, 0x500), (288, 1)]
       stack := List.replicate 32 (entry 0x500 1 0x500)
       spilled := List.replicate 32 (entry 0x500 1 0x500) })
     starts (machine []) i 0 = true ∧ eAt (machine []) i = 0 ∧ starts (at_ 0x500 0) i 0 = true ∧ eAt (at_ 0x500 0) i = 0xFFFFFFFF ∧
     starts full i 0 = true ∧ eAt full i = 1 ∧ starts (at_ 0 0x10000000) i 0 = true ∧ starts (at_ 0x504 0) i 0 = true ∧
     starts (at_ 0x408 4) i 0 = true ∧ ((0x400000408#64 - 0x408).toInt.natAbs / 8 = 2 ^ 31) ∧
     starts (machine []) j 0 = true ∧ starts (at_ 0x500 0) j 0 = true ∧ starts full j 0 = true ∧ starts (at_ 0 0x10000000) j 0 = true ∧
     starts (at_ 0x504 0) j 0 = true ∧ starts (at_ 0x408 4) j 0 = true) := by decide

theorem witness_ThreadsExit :
    starts box (.exit { plainOps with p := 9 }) 0 = true ∧
    ((boxed (fun sh => { sh with m := 0 })).sheaf 0).map (fun sh => decide (sh.m = 0 ∧ sh.stack = [] ∧ sh.ended = false ∧ sh.respTraps = [])) = some true ∧
    ((boxed (fun sh => { sh with m := 0, live := 0, ended := true })).sheaf 0).map (fun sh => sh.ended) = some true ∧
    (let s := boxed (fun sh => { sh with m := 0, live := 0, ended := true })
     (s.sheaf 0).map (fun sh => s.outstanding 0 sh) = some false) := by decide

/-! Traps. -/

def handlerSheaf (sh : Sheaf) : Sheaf := { sh with level := .handler, handler := some { depth := 0, level := .user, entry := none, resp := false } }
def raised (c : Nat) : TrapReq := { cause := c, info := 0, mask := 1, rmask := 1, pc := 0x400, npc := 0x408, resp := false, entry := none }

/-- A privileged opcode at USER level, illegal fields, an odd pair, a latch read at a chain's head; each may issue. -/
theorem witness_DecodeTraps :
    (let ok (s : State) (i : Instr) : Bool := (match i.form, s.sheaf 0 with
      | some (o, f), some sh => decide (s.cur = some 0) && decide (mapFind s.wgs sh.wg = some wg1) && sh.issues && scoreboardFree sh o f
      | _, _ => false)
     ok box (.csrrd { plainOps with a := .imm 1, mod := 1, d := 2 }) = true ∧
     ok box (.ld { plainOps with hd := true }) = true ∧ (Instr.ld { plainOps with hd := true }).wfGeneral = false ∧
     ok box (.iadd64 { plainOps with a := .reg 4, b := .reg 6, d := 3 }) = true ∧
     (match (Instr.iadd64 { plainOps with a := .reg 4, b := .reg 6, d := 3 }).form with
      | some (o, f) => operandsOk 64 o f
      | none => true) = false ∧
     ok box (.iadd { plainOps with a := .latch true, b := .reg 6, d := 3 }) = true ∧
     latchesOk sheaf1.atHead { plainOps with a := .latch true, b := .reg 6, d := 3 } = false ∧
     (box.sheaf 0).map (fun sh => sh.issues) = some true) := by decide

theorem witness_IssueChecks :
    ((boxed (fun sh => { sh with pend := 16 })).sheaf 0).map (fun sh =>
      (match (Instr.iadd { plainOps with a := .reg 4, d := 3 }).form with
        | some (o, f) => scoreboardFree sh o f
        | none => true)) = some false ∧
    ((boxed (fun sh => { sh with wait := .sleep 5 })).sheaf 0).map (fun sh => sh.issues) = some false ∧
    ((boxed (fun sh => { sh with rpoison := [128] })).sheaf 0).map (fun sh =>
      (match (Instr.iadd { plainOps with a := .reg 4, d := 3 }).form with
        | some (o, f) => sh.issues && scoreboardFree sh o f && operandsOk 64 o f && latchesOk sh.atHead o
            && decide (poisonedThreads sh.atHead (execMask sh.atHead false 0) o f = 1)
        | none => false)) = some true := by decide

theorem witness_SoftwareTraps :
    starts box (.brk { plainOps with p := 9 }) 0 = true ∧ eAt box (.brk { plainOps with p := 9 }) ≠ 0 ∧
    starts (machine []) (.brk { plainOps with p := 9 }) 0 = true ∧ eAt (machine []) (.brk { plainOps with p := 9 }) = 0 ∧
    starts box (.trap { plainOps with p := 9, a := .imm 0 }) 0 = true ∧ eAt box (.trap { plainOps with p := 9, a := .imm 0 }) ≠ 0 ∧
    starts (machine []) (.trap { plainOps with p := 9, a := .imm 1 }) 0 = true := by decide

theorem witness_HandlerEntry :
    (box.sheaf 0).map (fun sh => decide (sh.level = .user)) = some true ∧
    (box.sheaf 0).map (fun sh => box.handlerBase 0 sh 0x01) = some (some 0x10000) ∧
    (box.sheaf 0).map (fun sh => box.handlerBase 0 sh 0x11) = some (some 0) ∧ mapFind box.wgs 1 = some wg1 ∧
    box.ctx wg1.asid = some ctx1 ∧ (box.core (slotCore 0)).dbgAttach = false := by decide

theorem witness_TrapKills :
    (let none_ : State := { box with ctxs := [(1, { ctx1 with trapBase := 0 })] }
     (none_.sheaf 0).map (fun sh => none_.handlerBase 0 sh 0x01) = some none) ∧
    ((boxed handlerSheaf).sheaf 0).map (fun sh => decide (sh.level ≠ .user)) = some true ∧
    (priv.sheaf 0).map (fun sh => decide (sh.level = .system)) = some true ∧ mapFind box.nodes 5 = some node1 ∧
    mapFind box.wgs 1 = some wg1 := by decide

/-- TRET outside a handler, with another depth, with .skip, with threads to execute again after either kind of trap, and without. -/
theorem witness_TrapReturn :
    (let i : Instr := .tret plainOps
     let at_ (f : Sheaf → Sheaf) : State := boxed (fun sh => f { handlerSheaf sh with
       trap := { cause := 0x20, pc := 0x400, npc := 0x408, mask := 1, rmask := 1, amask := 0xFFFFFFFF, info := 0 } })
     starts priv i 0 = true ∧ (priv.sheaf 0).map (fun sh => sh.handler) = some none ∧
     starts (at_ (fun sh => { sh with stack := [entry 0x500 1 0x500] })) i 0 = true ∧
     starts (at_ id) i 0 = true ∧ starts (at_ id) (.tret { plainOps with mod := 1 }) 0 = true ∧
     starts (at_ (fun sh => { sh with trap := { sh.trap with rmask := 0 } })) i 0 = true ∧
     starts (at_ (fun sh => { sh with handler := some { depth := 0, level := .user, entry := some 3, resp := true } })) i 0 = true) := by decide

theorem witness_ControlRegisters :
    (let i : Instr := .csrrd { plainOps with p := 9, a := .imm 0, d := 2 }
     let j : Instr := .csrrd { plainOps with p := 9, a := .imm 0x30, d := 2 }
     let h : State := boxed handlerSheaf
     starts priv i 0 = true ∧ eAt priv i ≠ 0 ∧ starts h i 0 = true ∧ csrReadLevel 0 ≤ Level.handler.code ∧
     starts h j 0 = true ∧ Level.handler.code < csrReadLevel 0x30 ∧
     starts h (.csrwr { plainOps with p := 9, a := .imm 4, b := .reg 4 }) 0 = true ∧ csrWriteLevel 4 ≤ Level.handler.code ∧
     starts h (.csrwr { plainOps with p := 9, a := .imm 0x30, b := .reg 4 }) 0 = true ∧ Level.handler.code < csrWriteLevel 0x30 ∧
     (let z : State := { h with sheaves := [(0, handlerSheaf { sheaf1 with regs := [] })] }
      starts z i 0 = true ∧ eAt z i = 0 ∧ starts z (.csrwr { plainOps with p := 9, a := .imm 4, b := .reg 4 }) 0 = true)) := by decide

theorem witness_DebugPort :
    (let s : State := { boxed (fun sh => { sh with stopped := true, trap := { sh.trap with rmask := 1, amask := 3 } }) with
      cores := [(0, { Core.reset with dbgAttach := true })] }
     (s.core (slotCore 0)).dbgAttach = true ∧ (s.sheaf 0).map (fun sh => sh.stopped) = some true) := by decide

/-! Memory. -/

/-- v4:v5 as a pointer, v9 set. -/
def pointing (lo hi : Word) : State := machine [(4, lo), (5, hi), (9, 1)]
def releasing (s : State) : State := s.beginRelease 0 0 3 0 0 none (.fence (.nop plainOps) none)
def acquire1 : WinEntry :=
  { sheaf := 0, pc := 0, npc := 8, asid := 1, level := .user, thr := [], blks := [], mask := 1, left := 1, order := none,
    kept := false, remote := false, uni := false, fails := [],
    instr := .ld { plainOps with ext := .attr { ispec := 0, policy := 0, order := 1, scope := 5, offset := 0 } } }
def acquiring (s : State) : State := { s with win := [(0, acquire1)] }
/-- No thread; held; outside every space; misaligned; in place: the cases of `EntryClaim` for one instruction. -/
def entryCases (i : Instr) (read : Bool) (odd : Option Word) : Bool :=
  let hold (s : State) : State := if read then acquiring s else releasing s
  starts (machine []) i 0 && decide (eAt (machine []) i = 0)
    && starts (hold (pointing 0x1000 0x200000)) i 0 && !(hold (pointing 0x1000 0x200000)).windowFree 0 i
    && starts (pointing 0 0x70000000) i 0 && decide (locAt (pointing 0 0x70000000) i 31 = none)
    && starts (pointing 0 0x30000000) i 0
    && (match odd with
        | some a => starts (pointing a 0x200000) i 0 && (locAt (pointing a 0x200000) i 0).isSome && eaAt (pointing a 0x200000) i 0 != 0
        | none => true)
    && starts (pointing 0x1000 0x200000) i 0 && (pointing 0x1000 0x200000).windowFree 0 i
    && (match locAt (pointing 0x1000 0x200000) i 31 with
        | some (.dev _) => true
        | _ => false)
    && decide (eAt (pointing 0x1000 0x200000) i = 0xFFFFFFFF)

theorem witness_LoadStoreStart :
    entryCases (.ld { plainOps with p := 9, a := .reg 4, mod := 2, d := 8 }) true (some 0x1002) = true ∧
    entryCases (.st { plainOps with p := 9, a := .reg 4, b := .reg 12, mod := 2 }) false (some 0x1002) = true ∧
    entryCases (.ldtg { plainOps with p := 9, a := .reg 4, b := .reg 12, d := 8 }) true none = true ∧
    entryCases (.tagrd { plainOps with p := 9, a := .reg 4, d := 8 }) true none = true ∧
    entryCases (.sttg { plainOps with p := 9, a := .reg 4, b := .reg 12, c := .reg 16 }) false (some 0x1002) = true ∧
    entryCases (.tagwr { plainOps with p := 9, a := .reg 4, b := .reg 12 }) false none = true ∧
    starts (machine [(4, 0x1000), (5, 0x200000), (9, 1), (12, 0x900)]) (.tagwr { plainOps with p := 9, a := .reg 4, b := .reg 12 }) 0 = true ∧
    starts (machine [(4, 0x1000), (5, 0x200000), (9, 1), (16, 0x900)]) (.sttg { plainOps with p := 9, a := .reg 4, b := .reg 12, c := .reg 16 }) 0 = true := by
  decide

/-- Two threads of an ST at byte 62 (R256): the higher one's two bytes remain; the tag of the highest thread of an STTG, and of a TAGWR (R258). -/
theorem witness_StoreBytes :
    (let thr : Map ThreadReq := [(3, { addr := 0x103E, data := 0x1234, data2 := 0x0400 }), (9, { addr := 0x103E, data := 0xABCD, data2 := 0x0500 })]
     let i : Instr := .st { plainOps with mod := 1 }
     (storeBytesOf i thr 0x208).1.extractLsb' 496 16 = 0xABCD ∧ (storeBytesOf i thr 0x208).2 = (0xC000000000000000, none) ∧
     (storeBytesOf i thr 0x8).1.extractLsb' 496 16 = 0x1234 ∧ (storeBytesOf (.sttg plainOps) thr 0x208).2.2 = some 0x0500 ∧
     storeBytesOf (.tagwr plainOps) thr 0x208 = (0, 0, some 0xABCD)) := by decide

theorem witness_SendingRequests :
    (let thr : Map ThreadReq := [(0, { addr := 0x1000, data := 0, data2 := 0 }), (1, { addr := 0x103F, data := 0, data2 := 0 }),
       (31, { addr := 0x1040, data := 0, data2 := 0 })]
     mapSorted thr = true ∧ thr.all (fun x => decide (x.1 < 32)) = true) := by decide

theorem witness_LoadedValue :
    (match (Instr.ld { plainOps with a := .reg 4, mod := 3, d := 8 }).form with
      | some (_, f) => decide (f.dst ≠ .none)
      | none => false) = true ∧ (box.sheaf 0).isSome = true ∧
    (1#16 &&& wordsOf 0 1) ≠ 0 ∧ (2#16 &&& wordsOf 0 4) = 0 ∧
    (let b (base : DWord) (st : BlkStage) : BlkReq := { base := base, mask := 1, stage := st }
     let e (bs : List BlkReq) : WinEntry := { acquire1 with instr := .ld { plainOps with a := .reg 4, mod := 3, d := 8 }, blks := bs }
     let one : List BlkReq := [b 0x1000 .sent]
     let two : List BlkReq := [b 0x1000 .sent, b 0x1040 .held]
     let s (bs : List BlkReq) : State := { box with win := [(0, e bs)] }
     mapFind (s one).win 0 = some (e one) ∧ (e one).blks.find? (fun y => y.base == 0x1000 && y.stage == .sent) = some (b 0x1000 .sent) ∧
     (e two).blks.find? (fun y => y.base == 0x1000 && y.stage == .sent) = some (b 0x1000 .sent) ∧
     (∀ y ∈ one, y.base = 0x1000 ∨ y.stage = .done) ∧ (∃ y ∈ two, y.base ≠ 0x1000 ∧ y.stage ≠ .done) ∧ (e one).kept = false ∧ (e one).order = none ∧
     (e one).remote = false ∧ (e one).instr.acquires = false ∧ (e one).fails = [] ∧ Instr.takesEntry (e one).instr = true ∧ (0x09 : BitVec 8) ≠ 0x0C ∧
     mapSorted [(0, (7 : BitVec 128))] = true ∧ ((s one).sheaf 0).map (fun sh => sh.ended) = some false ∧
     (match (s one).answerBlk 0 0x1000 [(0, 7)] [] with
      | t => decide (t.win = [] ∧ (t.sheaf 0).map (fun sh => (sh.reg 8 0, sh.reg 9 0)) = some (7, 0))) = true) := by decide

/-- A BF16 block of scale 127: element 1 is 1.0 (R66); a block without a format, one of scale 0, a counter. -/
theorem witness_LoadedValue_tagged :
    (let x (tag : Tag) : BlkAns := { BlkAns.done with blk := 0x3F800000, tag := tag }
     let r : ThreadReq := { addr := 0x1000, data := 33, data2 := 0 }
     let v (tag : Tag) : Option (BitVec 128) := (loadValue (.ldtg plainOps) r (x tag)).toOption
     v 0x027F = some 0x3F800000 ∧ v 0x0200 = some 0 ∧ v 0x02FF = some 0x7FC00000 ∧ v 0 = none ∧ v 0xA000 = none ∧
     (loadValue (.tagrd plainOps) r (x 0xA000)).toOption = some 0xA000) := by decide

theorem witness_CacheHints :
    starts (pointing 0x1000 0x200000) (.pref { plainOps with p := 9, a := .reg 4 }) 0 = true ∧
    starts (pointing 0x1000 0x200000) (.cctl { plainOps with p := 9, a := .reg 4 }) 0 = true ∧
    (match locAt (pointing 0x1000 0x200000) (.cctl { plainOps with p := 9, a := .reg 4 }) 0 with
      | some (.dev _) => true
      | _ => false) = true ∧
    starts (pointing 0 0x10000000) (.cctl { plainOps with p := 9, a := .reg 4 }) 0 = true ∧
    locAt (pointing 0 0x10000000) (.cctl { plainOps with p := 9, a := .reg 4 }) 0 = some (.own 0) := by decide

/-- A record of two FP32 elements at 0x20_0000_0000_1000 in the local store, BOUNDS as given. -/
def withRecord (bounds x : Word) : State :=
  ((machine [(4, 0), (5, 0x10000000), (9, 1), (12, x)]).lsWrite 0 0
    ([0x1000, 0x200000, 2, 1, 8, 8, 0x10001, bounds].flatMap (fun v : Word => leBytes 4 v.toNat)))

theorem witness_RecordAccess :
    (let i : Instr := .ldb { plainOps with p := 9, a := .reg 4, b := .reg 12, d := 8 }
     let rec_ (s : State) : Option BufRec := match i.form, ctxAt s i with
       | some (o, _), some c => (c.record o 0).toOption
       | _, _ => none
     starts (withRecord 0 0) i 0 = true ∧ (rec_ (withRecord 0 0)).map (fun r => (r.bad, r.ext0, r.bounds)) = some (false, 2, 0) ∧
     starts (withRecord 0x100 2) i 0 = true ∧ starts (withRecord 0 2) i 0 = true ∧
     starts (withRecord 0 1) (.stb { plainOps with p := 9, a := .reg 4, b := .reg 12, c := .reg 16 }) 0 = true) := by decide

/-- What a pointer v4:v5 and the record of the given words 0, 1, 2, 6 and 7 at offset 0 give thread 0 for x of 2, and what holds or refuses them: a
pointer outside the region, off a 32-byte boundary, poison, FMT 9 or 6, a base in space 3; coordinates past the end under BOUNDS 0, 1 and
2, the last also with an empty array; a base in no space, and a misaligned one. -/
theorem witness_RecordAccess_stops :
    (let i : Instr := .ldb { plainOps with p := 9, a := .reg 4, b := .reg 12, mod := 2, d := 8 }
     let at_ (ptr hi base baseHi ext0 w6 w7 : Word) : State :=
       (machine [(4, ptr), (5, hi), (9, 1), (12, 2)]).lsWrite 0 0 ([base, baseHi, ext0, 1, 8, 8, w6, w7].flatMap (fun v : Word => leBytes 4 v.toNat))
     let rec_ (s : State) : Option (Except Nat BufRec) := match i.form, ctxAt s i with
       | some (o, _), some c => some (c.record o 0)
       | _, _ => none
     let cause (s : State) : Option Nat := match rec_ s with
       | some (.error e) => some e
       | _ => none
     let good (s : State) (p : BufRec → Bool) : Bool := match rec_ s with
       | some (.ok r) => p r
       | _ => false
     let fine : State := at_ 0 0x10000000 0x1000 0x200000 2 0x01000001 0
     let all (s : State) : Bool := starts s i 0 && decide (eAt s i = 0xFFFFFFFF) && s.windowFree 0 i && !s.releasePending 0
     starts (machine []) i 0 = true ∧ eAt (machine []) i = 0 ∧ starts (acquiring fine) i 0 = true ∧ (acquiring fine).windowFree 0 i = false ∧
     all (at_ 0 0 0 0 0 0 0) = true ∧ cause (at_ 0 0 0 0 0 0 0) = some 6 ∧ all (at_ 8 0x10000000 0 0 0 0 0) = true ∧ cause (at_ 8 0x10000000 0 0 0 0 0) = some 5 ∧
     (match i.form, ctxAt { fine with lsPoison := [(0, true)] } i with
      | some (o, _), some c => c.recordPoisoned o 0
      | _, _ => false) = true ∧
     (match i.form, ctxAt fine i with
      | some (o, _), some c => c.recordPoisoned o 0 || c.recordBusy o 0
      | _, _ => true) = false ∧
     good (at_ 0 0x10000000 0 0 2 0x09000001 0) (fun r => r.bad) = true ∧ good (at_ 0 0x10000000 0 0 2 0x06000001 0) (fun r => !r.bad && r.fmt == 6) = true ∧
     good (at_ 0 0x10000000 0 0x30000000 2 0x01000001 0) (fun r => !r.bad && eaSpace r.base == 3) = true ∧
     good fine (fun r => !r.bad && r.bound 2 0 == .trap && r.bound 1 0 == .inside 1 0) = true ∧
     good (at_ 0 0x10000000 0 0 2 0x01000001 1) (fun r => !r.bad && r.bound 2 0 == .dropped) = true ∧
     good (at_ 0 0x10000000 0 0 2 0x01000001 2) (fun r => !r.bad && r.bound 2 0 == .inside 1 0) = true ∧
     good (at_ 0 0x10000000 0 0 0 0x01000001 2) (fun r => !r.bad && r.bound 2 0 == .dropped) = true ∧
     good (at_ 0 0x10000000 0 0x70000000 3 0x01000001 0) (fun r => !r.bad && (fine.locate wg1 r.base).isNone) = true ∧
     good (at_ 0 0x10000000 0x1002 0x200000 3 0x01000001 0) (fun r => !r.bad && (fine.locate wg1 r.base).isSome && r.base.toNat % 4 != 0) = true) := by decide

theorem witness_AtomicStart :
    entryCases (.atom { plainOps with p := 9, a := .reg 4, b := .reg 12, d := 8 }) false (some 0x1002) = true ∧
    entryCases (.atom64 { plainOps with p := 9, a := .reg 4, b := .reg 12, d := 8 }) false (some 0x1004) = true ∧
    entryCases (.cas { plainOps with p := 9, a := .reg 4, b := .reg 12, c := .reg 16, d := 8 }) false (some 0x1002) = true ∧
    entryCases (.cas64 { plainOps with p := 9, a := .reg 4, b := .reg 12, c := .reg 16, d := 8 }) false (some 0x1004) = true ∧
    entryCases (.fatom { plainOps with p := 9, a := .reg 4, b := .reg 12, d := 8 }) false (some 0x1002) = true ∧
    entryCases (.hatom2 { plainOps with p := 9, a := .reg 4, b := .reg 12, d := 8 }) false (some 0x1002) = true ∧
    entryCases (.red { plainOps with p := 9, a := .reg 4, b := .reg 12 }) false (some 0x1002) = true ∧
    entryCases (.fred { plainOps with p := 9, a := .reg 4, b := .reg 12 }) false (some 0x1002) = true ∧
    (let i : Instr := .atom { plainOps with p := 9, a := .reg 4, b := .reg 12, d := 8 }
     let s := pointing 0x1000 0xD00000
     starts s i 0 = true ∧ locAt s i 0 = some (.dev 13) ∧ atomicUnsupported i (locAt s i 0) = true) := by decide

/-- ADD of 2 by threads 0 and 1 at one word, then CAS that fails (R336, R339, R340). -/
theorem witness_AtomicResults :
    (let x (t : Nat) : AtomItem := { thread := t, addr := 0x1004, b := 2, c := 9 }
     atomApply (.instr (.atom plainOps)) 0 [x 0, x 1] = ([(0, 0), (1, 2)], 0x400000000, 0xF0) ∧
     atomApply (.instr (.cas plainOps)) 0 [x 0] = ([(0, 0)], 0, 0) ∧ atomInt 9 (7 : Word) 7 = 0 ∧ atomInt 10 (8 : Word) 7 = 7) := by decide

/-! Order, barriers, barrier objects. -/

def rel1 (stage scope : Nat) (t : RelThen) : Release :=
  { sheaf := some 0, core := 0, lgrps := [0], scope := scope, stage := stage, own := none, before := 0, mark := 0, left := 0, then_ := t }

theorem witness_FencesAndReleases :
    (let i : Instr := .fence { plainOps with p := 9, ext := .attr { ispec := 0, policy := 0, order := 3, scope := 5, offset := 0 } }
     starts (machine []) i 0 = true ∧ eAt (machine []) i = 0 ∧ starts box i 0 = true ∧ eAt box i ≠ 0 ∧ box.acquirePending 0 = false ∧
     box.releasePending 0 = false) ∧
    (let r := rel1 5 5 (.fence (.fence plainOps) (some 5))
     let s : State := { box with rels := [(0, r)] }
     s.rels.find? (fun x => x.2.sheaf == some 0) = some (0, r) ∧ mapSorted s.rels = true ∧ s.stageDone 0 r = true ∧
     (5 ≤ r.stage ∨ r.scope < stageScope (r.stage + 1))) ∧
    (let r : Release := { rel1 0 1 (.barrier (.bar plainOps) 3 none 1) with before := 1 }
     let s : State := { box with rels := [(0, r)], win := [(0, acquire1)], sheaves := [(0, sheaf1)] }
     s.rels.find? (fun x => x.2.sheaf == some 0) = some (0, r) ∧ s.stageDone 0 r = false) ∧
    (let r := rel1 5 5 (.entry 7)
     let s : State := { box with rels := [(7, r)] }
     s.stageDone 7 r = true) := by decide

theorem witness_WorkgroupBarriers :
    (let b : Barrier := { expected := 2, arrived := 1, phase := false, byLive := false }
     b.arrived ≠ 0 ∧ b.arrive 1 (some 3) = none ∧ (b.arrive 1 (some 2)).isSome = true ∧ (b.arrive 1 none).isSome = true) ∧
    (let i : Instr := .bar { plainOps with p := 9, a := .imm 15 }
     starts (machine []) i 0 = true ∧ eAt (machine []) i = 0 ∧ starts box i 0 = true ∧ eAt box i ≠ 0 ∧ box.acquirePending 0 = false ∧
     starts box (.bar { plainOps with p := 9, a := .imm 16 }) 0 = true ∧
     starts box (.bar { plainOps with p := 9, a := .imm 0, b := .imm 2, mod := 2 }) 0 = true ∧
     starts box (.bar { plainOps with p := 9, a := .imm 0, mod := 1 }) 0 = true ∧
     starts box (.bara { plainOps with p := 9, a := .imm 15, d := 8 }) 0 = true ∧
     starts box (.bara { plainOps with p := 9, a := .imm 16, d := 8 }) 0 = true ∧
     starts box (.bara { plainOps with p := 9, a := .imm 0, b := .imm 1, mod := 3, d := 8 }) 0 = true) ∧
    (box.sheaf 0).map (fun sh => decide (sh.wait = .none)) = some true ∧ 15 < wg1.bars.length ∧
    ((wg1.bar 15).arrive (box.liveSheaves 1) none).isSome = true ∧
    starts box (.barw { plainOps with p := 9, a := .imm 15, b := .reg 12 }) 0 = true ∧
    starts box (.barw { plainOps with p := 9, a := .imm 16, b := .reg 12 }) 0 = true ∧
    starts (machine []) (.barw { plainOps with p := 9, a := .imm 15, b := .reg 12 }) 0 = true := by decide

/-- The object at offset 0x40 of the region with INIT set and EXPECTED 1. -/
def object1 : State := (pointing 0x40 0x10000000).setBo 0 0x40 { expected := 1, arrived := 0, phase := false, init := true }

theorem witness_BarrierObjects :
    (let i : Instr := .boexp { plainOps with p := 9, a := .reg 4, b := .reg 12 }
     let j : Instr := .boarr { plainOps with p := 9, a := .reg 4, b := .reg 12 }
     let n : Instr := .boinit { plainOps with p := 9, a := .reg 4, b := .reg 12 }
     let v : Instr := .bowait { plainOps with p := 9, a := .reg 4, b := .reg 12 }
     starts (machine []) i 0 = true ∧ eAt (machine []) i = 0 ∧ starts object1 i 0 = true ∧ locAt object1 i 0 = some (.own 0x40) ∧
     (object1.boAt 0 0x40).init = true ∧ object1.acquirePending 0 = false ∧ object1.releasePending 0 = false ∧
     starts (pointing 0x48 0x10000000) i 0 = true ∧ locAt (pointing 0x48 0x10000000) i 0 = some (.own 0x48) ∧
     starts (pointing 0x40 0x10000000) i 0 = true ∧ ((pointing 0x40 0x10000000).boAt 0 0x40).init = false ∧
     starts (pointing 0 0x30000000) i 0 = true ∧ starts object1 j 0 = true ∧ starts object1 n 0 = true ∧ starts object1 v 0 = true ∧
     starts (machine []) j 0 = true ∧ starts (machine []) n 0 = true ∧ starts (machine []) v 0 = true) ∧
    (let b : BObj := { expected := 1, arrived := 0, phase := false, init := true }
     0 < (b.expected + 0).toNat ∧ (b.expected + 0).toNat ≤ (b.arrived + 1).toNat ∧ (b.arrived + 0).toNat < (b.expected + 0).toNat ∧
     mapFind object1.bos (lsKey 0 0x80 / 16) ≠ some true) ∧
    ((boxed (fun sh => { sh with wait := .barrier 3 false })).sheaf 0).map (fun sh => sh.wait) = some (.barrier 3 false) ∧
    ((boxed (fun sh => { sh with wait := .object 0x1000000000000040 false (some 5) })).sheaf 0).isSome = true ∧
    ((boxed (fun sh => { sh with wait := .sleep 5 })).sheaf 0).isSome = true := by decide

/-! Code lines, requests, engines, matrices: issue. -/

def icLine (va : DWord) (pinned : Bool) : IcLine := { asid := 1, va := va, lo := 0, hi := 0, pinned := pinned, used := 0 }

theorem witness_CodeLines :
    (let i : Instr := .cfetch { plainOps with p := 9, a := .reg 4 }
     let j : Instr := .cpin { plainOps with p := 9, a := .reg 4, d := 8 }
     let u : Instr := .cunpin { plainOps with p := 9, a := .reg 4 }
     let s : State := { pointing 0x1000 0x200000 with cores := [(0, { Core.reset with ic := [icLine 0x0020000000001000 false] })] }
     starts (machine []) i 0 = true ∧ eAt (machine []) i = 0 ∧ starts (pointing 0x1000 0x10000000) i 0 = true ∧
     starts (pointing 0x1000 0x200000) i 0 = true ∧ starts s i 0 = true ∧ starts s j 0 = true ∧ starts s u 0 = true ∧
     s.icFind 0 1 0x0020000000001000 = some (icLine 0x0020000000001000 false) ∧
     starts (boxed (fun sh => { sh with cCode := 63 })) i 0 = true ∧ starts (boxed (fun sh => { sh with cCode := 62 })) i 0 = true ∧
     starts (machine []) j 0 = true ∧ starts (machine []) u 0 = true) := by decide

/-- ATTR with SCOPE 5 (DEVICE) alone. -/
def dev5 : Attr := { ispec := 0, policy := 0, order := 0, scope := 5, offset := 0 }

theorem witness_RequestsToUnits :
    (let i : Instr := .altake { plainOps with p := 9, a := .reg 4, b := .reg 12, d := 8 }
     starts (machine []) i 0 = true ∧ starts (releasing (pointing 0x1000 0x200000)) i 0 = true ∧
     (releasing (pointing 0x1000 0x200000)).windowFree 0 i = false ∧ starts (pointing 0x1000 0x10000000) i 0 = true ∧
     starts (pointing 0x1004 0x200000) i 0 = true ∧ starts (pointing 0x1000 0x200000) i 0 = true ∧
     (pointing 0x1000 0x200000).windowFree 0 i = true ∧ eAt (pointing 0x1000 0x200000) i ≠ 0 ∧
     starts (machine [(4, 0x1000), (5, 0x200000), (9, 1), (16, 1)]) (.alinit { plainOps with p := 9, a := .reg 4, b := .reg 12, c := .reg 16, ext := .attr dev5 }) 0 = true ∧
     starts (pointing 0x1000 0x200000) (.alinit { plainOps with p := 9, a := .reg 4, b := .reg 12, c := .reg 16, ext := .attr dev5 }) 0 = true) ∧
    (let i : Instr := .launch { plainOps with p := 9, a := .reg 12, b := .reg 4, d := 8 }
     let loc (s : State) : Option Loc := s.locate wg1 (((s.sheaf 0).map (fun sh => sh.pair 4 0)).getD 0)
     starts (machine []) i 0 = true ∧ starts (releasing box) i 0 = true ∧ (releasing box).releasePending 0 = true ∧
     starts (pointing 0x1000 0x200000) i 0 = true ∧ loc (pointing 0x1000 0x200000) = some (.dev 2) ∧
     starts (pointing 0x44 0x10000000) i 0 = true ∧ loc (pointing 0x44 0x10000000) = some (.own 0x44) ∧
     starts (pointing 0x40 0x10000000) i 0 = true ∧ loc (pointing 0x40 0x10000000) = some (.own 0x40) ∧
     (pointing 0x40 0x10000000).lsPoisonMask 0 0x40 = 0 ∧ (pointing 0x40 0x10000000).win = [] ∧
     starts box (.ndec { plainOps with p := 9, a := .reg 12 }) 0 = true ∧
     starts (machine [(9, 1), (12, 63)]) (.evsig { plainOps with p := 9, a := .reg 12, b := .reg 16 }) 0 = true ∧
     starts (machine [(9, 1), (12, 64)]) (.evsig { plainOps with p := 9, a := .reg 12, b := .reg 16 }) 0 = true ∧
     starts priv (.ctxsv { plainOps with p := 9, a := .reg 12, b := .reg 16, d := 8 }) 0 = true ∧
     starts priv (.ctxld { plainOps with p := 9, a := .reg 12, d := 8 }) 0 = true) ∧
    (let i : Instr := .xlinv { plainOps with p := 9, a := .reg 4, b := .reg 12, c := .reg 16, mod := 5 }
     let at_ (lo hi n : Word) : State := { priv with sheaves := [(0, { sheaf1 with level := .system, regs := regsOf [(4, lo), (5, hi), (9, 1), (12, n)] })] }
     starts { priv with sheaves := [(0, { sheaf1 with level := .system, regs := [] })] } i 0 = true ∧
     starts (at_ 0 0x10000000 1) i 0 = true ∧ starts (at_ 8 0 1) i 0 = true ∧ starts (at_ 0 0 0x1000001) i 0 = true ∧
     starts (at_ 0 0 0) i 0 = true ∧ starts (at_ 0x10000 0 0x1000000) i 0 = true) := by decide

theorem witness_EngineStart :
    (let i : Instr := .cpy { plainOps with p := 9, a := .reg 4, b := .reg 12, mod := 1 }
     starts (machine []) i 0 = true ∧ eAt (machine []) i = 0 ∧ starts box i 0 = true ∧ eAt box i ≠ 0 ∧ box.acquirePending 0 = false ∧
     starts (boxed (fun sh => { sh with cCopy := 63 })) i 0 = true ∧ starts (boxed (fun sh => { sh with cCopy := 62 })) i 0 = true ∧
     (match i.form with
      | some (o, f) => extRecord o f
      | none => true) = false) := by decide

theorem witness_CounterInstructions :
    (let i : Instr := .waitc { plainOps with p := 9, a := .imm 1 }
     starts (machine []) i 0 = true ∧ starts (boxed (fun sh => { sh with cCopy := 2 })) i 0 = true ∧
     starts (boxed (fun sh => { sh with cCopy := 1 })) i 0 = true ∧ starts (boxed (fun sh => { sh with errCopy := some 6 })) i 0 = true ∧
     starts (boxed (fun sh => { sh with errMatrix := some 8 })) (.waitc { plainOps with p := 9, a := .imm 0, mod := 1 }) 0 = true ∧
     eAt box i ≠ 0 ∧ starts box (.cntrd { plainOps with p := 9, d := 8 }) 0 = true) := by decide

/-- Slot or tile entries of lane group 0 claimed by workgroup 1, the lowest n. -/
def owning (s : State) (slots tiles : Nat) : State :=
  let es := List.range slots ++ (List.range tiles).map (fun t => 32 + t)
  { s with cores := [(0, { Core.reset with claims := es.map (fun e => (e, 1)), owners := es.map (fun e => (e, wg1.ident)) })] }

theorem witness_MatrixClaims :
    (let i : Instr := .sclaim { plainOps with p := 9, a := .reg 4, d := 8 }
     let parked : State := { machine [(4, 32), (9, 1)] with cores := [(0, { Core.reset with owners := [(31, (2, 7))] })] }
     starts (machine []) i 0 = true ∧ starts box i 0 = true ∧ starts (machine [(4, 33), (9, 1)]) i 0 = true ∧
     starts (machine [(4, 32), (9, 1)]) i 0 = true ∧ box.entryState 0 (mxEntry 0 false 31) = .free ∧
     starts parked i 0 = true ∧ parked.entryState 0 (mxEntry 0 false 31) = .parked ∧ parked.entryState 0 (mxEntry 0 false 0) = .free ∧
     starts (owning (machine [(4, 32), (9, 1)]) 1 0) i 0 = true ∧
     starts (machine [(4, 16), (9, 1)]) (.aclaim { plainOps with p := 9, a := .reg 4, d := 8 }) 0 = true ∧
     starts (machine [(4, 17), (9, 1)]) (.aclaim { plainOps with p := 9, a := .reg 4, d := 8 }) 0 = true) ∧
    (let i : Instr := .srel { plainOps with p := 9, a := .reg 4, b := .reg 12 }
     let at_ (base n : Word) : State := machine [(4, base), (9, 1), (12, n)]
     starts (machine []) i 0 = true ∧ starts box i 0 = true ∧ starts (at_ 31 2) i 0 = true ∧ starts (at_ 31 1) i 0 = true ∧
     starts (owning (at_ 31 1) 32 0) i 0 = true ∧ mapFind ((owning (at_ 31 1) 32 0).core 0).claims (mxEntry 0 false 31) = some 1 ∧
     (owning (at_ 31 1) 32 0).entryState 0 (mxEntry 0 false 31) = .live ∧ (owning (at_ 31 1) 32 0).mxQ 0 (slotLgrp 0) = [] ∧
     starts (owning (at_ 15 1) 0 16) (.arel { plainOps with p := 9, a := .reg 4, b := .reg 12 }) 0 = true) := by decide

/-- Convergence, range, claim, content and go for an instruction whose index v4 names row or tile `last` at most. -/
def matrixCases (i : Instr) (past last : Word) : Bool :=
  let at_ (x : Word) : State := machine [(4, x), (9, 1), (12, x), (16, 0)]
  starts (owning (boxed (fun sh => { sh with m := 1 })) 32 16) i 0 && decide (eAt (boxed (fun sh => { sh with m := 1 })) i = 1)
    && starts (owning (at_ past) 32 16) i 0 && starts (at_ last) i 0 && starts (owning (at_ last) 32 16) i 0
    && starts { owning (at_ last) 32 16 with cores := [(0, { (owning (at_ last) 32 16).core 0 with owners := [] })] } i 0
    && decide (eAt (at_ last) i = 0xFFFFFFFF)

theorem witness_MatrixOperations :
    matrixCases (.swr { plainOps with a := .reg 8, b := .reg 4, c := .reg 16 }) 2048 2047 = true ∧
    matrixCases (.srd { plainOps with a := .reg 4, d := 8 }) 2048 2047 = true ∧
    matrixCases (.srd { plainOps with a := .reg 4, mod := 1, d := 8 }) 2048 2047 = true ∧
    matrixCases (.mma { plainOps with a := .reg 4, b := .reg 16, c := .reg 16 }) 16 15 = true ∧
    matrixCases (.aclr { plainOps with a := .reg 4 }) 16 15 = true ∧
    matrixCases (.ard { plainOps with a := .reg 4, d := 8 }) 1024 1023 = true ∧
    matrixCases (.awr { plainOps with a := .reg 4, b := .reg 8 }) 1024 1023 = true ∧
    matrixCases (.aop { plainOps with a := .reg 4, b := .reg 16 }) 16 15 = true ∧
    matrixCases (.aop { plainOps with a := .reg 4, b := .reg 16, mod := 1 }) 16 15 = true ∧
    matrixCases (.aop { plainOps with a := .reg 4, mod := 2 }) 16 15 = true ∧
    matrixCases (.aop { plainOps with a := .reg 4, b := .reg 8, c := .reg 16, mod := 3 }) 16 15 = true ∧
    matrixCases (.adrn { plainOps with a := .reg 4, b := .reg 20, c := .reg 24, ext := .attr { dev5 with ispec := 0x54, scope := 0 }, mod := 4 }) 16 15 = true ∧
    (ofFP32 0x7FC00000).isNaN = true ∧ (ofFP32 0).isNaN = false ∧ FVal.lt (ofFP32 0) (ofFP32 0x3F800000) = true ∧
    FVal.eqv (ofFP32 0) (ofFP32 0x3F800000) = false ∧ FVal.lt (ofFP32 0x3F800000) (ofFP32 0) = false := by decide

/-! Messages and translations. -/

def letter (src dst : Agent) (m : Msg) : Packet := { src := src, dst := dst, prio := 1, msg := m, mcast := [], part := none }
def inbox (s : State) (p : Packet) : State := { s with net := [{ p := p, place := .inbox, age := 0, since := 0 }] }
theorem received_inbox (s : State) (p : Packet) : Received (inbox s p) p { inbox s p with net := [] } :=
  ⟨⟨[], _, [], rfl, rfl, rfl, rfl, by simp⟩, rfl⟩

/-- A page table of heap 2 in heap 0: the first GiB of the heap, readable, writable and executable, also in the home's cache. -/
def mapped : State :=
  { box with
    frames := []
    ctxs := [(1, { ctx1 with root := [0, 0, 0x100001] ++ List.replicate 13 0 })]
    mem := [(0x100000, 1), (0x100002, 0x11), (0x110000, 0x1F), (0x110003, 0x40)]
    tc := [(2, [{ asid := 1, va := 0x0020000000000000, size := 2 ^ 30, entry := 0x4000001F }])] }
def va2 : DWord := 0x0020000000001000
def dpa2 : Nat := 2 * 2 ^ 52 + 0x40001000
def perm7 : Perm := { r := true, w := true, x := true }
def read1 (asker : Asker) (kind : AccessKind) : ReadReq :=
  { asid := 1, va := va2, asker := asker, kind := kind, pol := 0, l1 := false, epoch := 0, ovl := 0, overM := 0, overT := none, bulk := false, place := 0 }
def write1 (w : Writer) (dpa : Option Nat) : WriteReq :=
  { id := 4, asid := 1, va := va2, dpa := dpa, blk := 0, mask := 0xF, tag := none, poison := 0, writer := w }
def contributor1 : Contributor := { id := 4, die := 0, core := 0, asker := .entry 0, poison := false, items := [] }
def atom1 : AtomReq :=
  { asid := 1, va := va2, op := .instr (.atom plainOps), order := 0, scope := 5, repro := false, poison := false, items := [], from_ := [contributor1] }
def from1 : HubFrom :=
  { wg := 1, idx := 0, core := 0, asid := 1, part := 0, d := some 8, mask := 1, pc := 0x400, level := .user, seq := 0 }
def blockReq (stage : BlkStage) : BlkReq := { base := va2, mask := 1, stage := stage }
def entry1 (stage : BlkStage) : WinEntry :=
  { acquire1 with instr := .st { plainOps with a := .reg 4, b := .reg 12, mod := 2 }, thr := [(0, { addr := va2, data := 5, data2 := 0 })], blks := [blockReq stage] }
def line1 : Line :=
  { asid := 1, va := va2, dpa := dpa2, blk := 0, tag := 0, poison := 0, perm := perm7, pol := 0, used := 0, atomic := false, dirty := 0, lastAtomic := 0, place := 0 }

theorem mapped_translates :
    mapped.homeLook 1 va2 .load (.entry 0) 0 = .ok dpa2 perm7 ∧ mapped.homeLook 1 va2 .atomic (.entry 0) 0 = .ok dpa2 perm7 ∧
    mapped.homeLook 1 va2 .store (.entry 0) 0 = .ok dpa2 perm7 ∧ mapped.dpaOf 1 va2 = some dpa2 ∧ mapped.memTagAt dpa2 = 0 ∧
    { mapped with tc := [] }.homeLook 1 va2 .load .line 0 = .miss ∧
    (match { mapped with tc := [] }.settle 1 va2 .load (.user, none) with
      | .ok e => decide (e = { asid := 1, va := 0x0020000000000000, size := 2 ^ 30, entry := 0x4000001F })
      | .error _ => false) = true := by decide

/-! The network, slices, homes and cores. -/

def flightAt (p : Packet) (pl : Place) : Flight := { p := p, place := pl, age := 0, since := 0 }
def toHome : Packet := letter (.slice 0 0) (.home 2) (.homeRead (read1 (.entry 0) .load) 0)

theorem witness_NetworkSteps :
    (let s : State := { box with net := [flightAt toHome (.wire 3 0)] }
     ∃ pre f rest, s.net = pre ++ f :: rest ∧ f.place = .wire 3 0 ∧ ∀ g ∈ pre, g.place ≠ .wire 3 0) ∧
    (let s : State := { box with net := [flightAt toHome (.tx 0 3)] }
     (s.txQueue 0 3 1).head? = some (flightAt toHome (.tx 0 3)) ∧ (s.txQueue 0 3 0).head? = none ∧ (s.txQueue 0 3 2).head? = none ∧ s.clk < 0 + 64) ∧
    (let s : State := { box with net := [flightAt toHome (.input 2 (Agent.slice 0 0).code)] }
     ∃ o, (s.heads 2 o).filter (fun h => s.outputFree 2 o h.2.p) ≠ [] ∧ (s.heads 2 99).filter (fun h => s.outputFree 2 99 h.2.p) = []) := by
  refine ⟨⟨[], _, [], rfl, rfl, by simp⟩, by decide, ?_⟩
  refine ⟨(({ box with net := [flightAt toHome (.input 2 (Agent.slice 0 0).code)] } : State).outputs 2 toHome).headD 0, by decide, by decide⟩

/-- A slice read that hits, one that misses, a confirmation, and a fill for its merge entry, each received. -/
theorem witness_SliceSteps :
    (let s (x : Slice) (m : Msg) : State := inbox { box with slices := [(0, x)] } (letter (.core 0) (.slice 0 0) m)
     let hit : Slice := { Slice.reset with lines := [line1] }
     (box.sliceHit ((s hit (.read (read1 (.entry 0) .load))).slice 0 0) (read1 (.entry 0) .load) 0).isSome = true ∧
     ((s hit (.read (read1 (.entry 0) .load))).slice 0 0).holds 1 va2 = false ∧
     (box.sliceHit Slice.reset (read1 (.entry 0) .store) 0).isNone = true ∧ (box.sliceHit Slice.reset (read1 (.entry 0) .load) 0).isNone = true ∧
     Slice.reset.merge.length < 32) ∧ (Slice.reset.pend = [] ∧ (Slice.reset.pend.length ≤ Config.pendingWrites)) ∧
    (let m : MergeEntry := { asid := 1, va := va2, kind := .load, recs := [(.core 0, [], read1 (.entry 0) .load)], open_ := true, before := [], later := [] }
     let x : Slice := { Slice.reset with merge := [m] }
     x.merge = m :: [] ∧ (read1 (.entry 0) .load).kind = m.kind ∧ (read1 (.entry 0) .load).pol ≠ 4 ∧ (BlkAns.done).status = .ok) ∧
    (atom1.from_.head? = some contributor1) ∧ (∀ core op item, (write1 (.through 0) none).writer ≠ .engine core op item) ∧
    (let m : SliceMark := { who := .rel 0, back := .core 0, before := [2] }
     let s : State := { box with slices := [(0, { Slice.reset with marks := [m], pend := [{ id := 3, asid := 1, va := va2, blk := 0, mask := 0, tag := none, poison := false, wait := false }] })] }
     (∀ f ∈ s.net, f.place ≠ .inbox) ∧ (s.slice 0 0).marks = [m] ∧ (s.slice 0 0).pend.all (fun y => !m.before.contains y.id) = true) := by
  refine ⟨by decide, ⟨rfl, Nat.zero_le _⟩, by decide, rfl, by simp [write1], ?_⟩
  refine ⟨?_, by decide, by decide⟩
  intro f hf
  cases hf

theorem witness_HomeSteps :
    (let s : State := { mapped with pend := [{ asid := 1, page := 0x0020000000000000, token := 7, kind := 1, level := 0, recd := none, made := 0, op := none, since := 0 }] }
     s.homeLook 1 va2 .load (.entry 0) 0 = .pending 7) ∧
    mapped.homeLook 1 va2 .load (.entry 0) 0 = .ok dpa2 perm7 ∧ mapped.memTagAt dpa2 ≠ 0xA000 ∧
    ({ mapped with memTag := [(dpaBlock dpa2, 0xA000)] } : State).memTagAt dpa2 = 0xA000 ∧ mapped.memPoisonAt dpa2 = false ∧
    (homeAsk (.homeRead (read1 (.entry 0) .load) 0)).isSome = true ∧ mapped.heap14Lost = false ∧
    (let p : Packet := letter (.slice 0 0) (.home 14) (.homeRead (read1 (.entry 0) .load) 0)
     let s : State := { inbox mapped p with clk := 60000 }
     (s.net.filter (fun g => g.place == .inbox)).length = 1 ∧ 0 + 60000 ≤ s.clk ∧ mapped.clk < 0 + 60000) ∧
    (let e : TcEntry := { asid := 1, va := 0x00D0000000000000, size := 2 ^ 30, entry := 0x4000001F }
     ({ mapped with tc := [(13, [e])] } : State).homeLook 1 0x00D0000000001000 .load (.entry 0) 0 = .ok (13 * 2 ^ 52 + 0x40001000) perm7) ∧
    (let e : TcEntry := { asid := 1, va := 0x00E0000000000000, size := 2 ^ 30, entry := 0x4000001F }
     ({ mapped with tc := [(14, [e])] } : State).homeLook 1 0x00E0000000001000 .load (.entry 0) 0 = .ok (14 * 2 ^ 52 + 0x40001000) perm7) := by decide

theorem witness_CoreResponses :
    (let s : State := { mapped with win := [(0, entry1 .sent)] }
     mapFind s.win 0 = some (entry1 .sent) ∧ (entry1 .sent).blks.find? (fun b => b.base == va2 && b.stage == .sent) = some (blockReq .sent) ∧
     s.sbOf 0 (slotLgrp 0) = []) ∧
    (let x : SbEntry := { seq := 1, asid := 1, va := va2, dpa := dpa2, blk := 0, mask := 1, tag := none }
     let s : State := { box with cores := [(0, { Core.reset with sb := [(0, [x])] })] }
     s.sbOf 0 0 = x :: []) ∧
    (let l : Line := { line1 with atomic := true, dirty := 1, lastAtomic := 0 }
     let s : State := { box with clk := 4096, cores := [(0, { Core.reset with l1 := [l] })] }
     (s.core 0).l1[0]? = some l ∧ l.lastAtomic + 4096 ≤ s.clk ∧ (s.l1Find 0 1 va2).isSome = true ∧ l.perm.w = true) ∧
    (let q : LsReq := { core := 0, base := 0x40, va := 0x1000000000000040, act := .write 0 1 none 0, who := .peer 1 0, asid := 1, span := none,
                        priv := false, since := 0, lane := 0 }
     let s : State := { box with cores := [(0, { Core.reset with bankQ := [q] })] }
     ((s.core 0).bankQ.filter (fun x => bankOf x.base == bankOf 0x40)) ≠ [] ∧ box.lsAdmits q = true ∧
     box.lsAdmits { q with base := 0x10000, asid := 2 } = false ∧ eaSpace q.va = 1 ∧ q.base % 64 = 0) ∧
    memClass (.st plainOps) ≠ .load ∧ (Instr.st plainOps).answers = false := by decide

def key1 : AlKey := { asid := 1, va := va2 }
def take1 (want wantHome : Nat) : AlTake :=
  { key := key1, core := 0, entry := 0, thread := 0, n := 1, part := false, want := want, wantHome := wantHome, exact := false }
def dieUnits (n : Nat) (cores : List Nat) : AlDie :=
  { key := key1, units := n, held := true, cores := cores, scarce := false, recalling := [], evict := false, sum := 0, poison := false, used := 0 }
def coreUnits (q : List AlTake) : AlCore :=
  { key := key1, units := 1, held := true, scarce := false, queue := q, asked := false, poison := false, used := 0 }
/-- A counter in memory with the given state, reserve and DIE_MASK. -/
def counter (state reserve dies : Nat) : State :=
  let b := blkSetNat (blkSetNat (blkSetNat 0 0 8 reserve) 16 2 dies) 14 1 state
  { (mapped.storeBlk dpa2 1 b (BitVec.allOnes 64) (some 0xA000) false) with net := [] }

theorem witness_AllowanceCounters :
    (let s : State := { mapped with alDie := [(0, [dieUnits 4 []])] }
     s.alDieOf 0 key1 = some (dieUnits 4 []) ∧ (take1 4 0).want ≤ (dieUnits 4 []).units ∧ (dieUnits 4 []).units < (take1 5 0).want ∧
     s.alDieOf 1 key1 = none ∧ (dieUnits 4 [0]).cores = [0]) ∧
    (let s : State := { mapped with cores := [(0, { Core.reset with al := [coreUnits [take1 1 1]] })] }
     s.alCore 0 key1 = some (coreUnits [take1 1 1]) ∧ (take1 1 1).n ≤ (coreUnits [take1 1 1]).units + 0) ∧
    (counter 0 8 0).memTagAt dpa2 = 0xA000 ∧ ctrReserve ((counter 0 8 0).memBlk dpa2) = 8 ∧ ctrDieMask ((counter 0 8 0).memBlk dpa2) = 0 ∧
    ctrPkgMask ((counter 0 8 0).memBlk dpa2) = 0 ∧ ctrDieMask ((counter 0 8 3).memBlk dpa2) = 3 ∧
    mapped.memTagAt dpa2 ≠ 0xA000 ∧ ((counter 0 8 0).alHomeAt key1).recalling = false ∧ (counter 0 8 0).dpaOf 1 va2 = some dpa2 ∧
    (counter 0 8 0).homeLook 1 va2 .atomic (.entry 0) 0 = .ok dpa2 perm7 ∧ eaHeap va2 ≠ 13 ∧ dpaTarget dpa2 ≠ 13 ∧
    (let s : State := { mapped with alHome := [{ key := key1, queue := [], dies := [0, 1], pkgs := [], recalling := true }] }
     1 ∈ (s.alHomeAt key1).dies ∧ (1 : Nat) ≠ 0) ∧
    (let s : State := { mapped with win := [(0, { entry1 .sent with instr := .altake { plainOps with a := .reg 4, b := .reg 12, d := 8 } })] }
     s.threadWaits 0 va2 0 = true) := by decide

/-! Code and constants, engines, matrix steps. -/

def icMiss1 (hi : Option Blk) : IcMiss :=
  { asid := 1, va := 0x0020000000001000, lo := none, hi := hi, fail := none, failAt := 0, sent := true, stale := false, want := [] }
def onCore0 (s : State) (k : Core) : State := { s with cores := [(0, k)] }

theorem witness_CodeAndConstants :
    (let q : ReadReq := { read1 .line .exec with va := 0x0020000000001000 }
     let s (hi : Option Blk) : State := onCore0 box { Core.reset with icMiss := [icMiss1 hi] }
     ((s none).core 0).icMiss = [icMiss1 none] ∧ (icMiss1 none).asid = q.asid ∧ q.va = (icMiss1 none).va ∧
     q.va &&& 0x01FFFFFFFFFFFF80 = q.va ∧ BlkAns.done.status = .ok ∧ BlkAns.done.poison = 0 ∧
     (((s (some 0)).core 0).ic.filter (fun l => icSet l.va == icSet (icMiss1 none).va)).length < 8) ∧
    (let s : State := { onCore0 box { Core.reset with ic := [icLine 0x400 false] } with sheaves := [(0, { sheaf1 with fetching := some 0x400 })] }
     s.sheaves = (0, { sheaf1 with fetching := some 0x400 }) :: [] ∧ mapFind s.wgs sheaf1.wg = some wg1 ∧
     s.icFind (slotCore 0) wg1.asid (0x400#64 &&& 0x01FFFFFFFFFFFF80) = some (icLine 0x400 false)) ∧
    (box.core 0).cc.length < 1024 ∧ box.constWaiters 0 1 va2 = [] ∧
    (let s (p : Bool) : State := onCore0 mapped { Core.reset with ic := [icLine 0x0020000000001000 p] }
     ((s false).icFind 0 1 (va2 &&& 0x01FFFFFFFFFFFF80)).map (fun l => l.pinned) = some false ∧
     ((s true).icFind 0 1 (va2 &&& 0x01FFFFFFFFFFFF80)).map (fun l => l.pinned) = some true ∧
     (s true).dpaOf 1 va2 = some dpa2 ∧ va2.toNat % 8 = 0) := by decide

/-- A copy of 0 bytes from A to B of the sheaf, or one from an address that is not aligned. -/
def engOp1 (a : DWord) (begun : Bool) (bo : Option Nat) : EngOp :=
  { id := 5, wg := 1, idx := 0, core := 0, matrix := false, instr := .gath { plainOps with a := .reg 4, b := .reg 12, c := .reg 16 }, asid := 1, own := 1, level := .user,
    lead := 0, mask := 1, a := a, b := a, c := 0, cs := [], recA := none, recB := none, words := [], begun := begun, items := [], bo := bo, boLeft := 0,
    span := none, key := 0, stream := 0, ctr := 0, complete := false }
def answer1 : LsAns := { who := .engine 0 5 0 0, va := 0x1000000000000040, vals := [], blk := .done, fails := [] }

theorem witness_EngineSteps :
    (let op : EngOp := engOp1 0 false none
     let s : State := onCore0 box { Core.reset with eng := [op] }
     (s.core 0).eng = [] ++ op :: [] ∧ op.begun = false ∧ s.storesOut op = false ∧ op.core = 0 ∧ mapFind s.wgs op.wg = some wg1 ∧
     (s.engParts wg1 op).1 = [] ∧ (s.engParts wg1 op).2.2.isSome = true) ∧
    (let op : EngOp := { engOp1 0x1000000000000000 false none with recB := some [0, 0, 0, 1, 0, 0, 0x01000001, 0] }
     let s : State := onCore0 box { Core.reset with eng := [op] }
     s.storesOut op = false ∧ s.engParts wg1 op = ([], [], none) ∧ op.instr.opcode = (Instr.gath plainOps).opcode) ∧
    (answer1.who = .engine 0 5 0 0) ∧
    (let op : EngOp := { engOp1 0 true (some 0x40) with items := [engItem 0 0 [] 0 0] }
     let s : State := onCore0 box { Core.reset with eng := [op] }
     s.opCore 5 = some 0 ∧ s.findOp 0 5 = some op ∧ op.core = 0 ∧ op.cores = [] ∧ op.bo = some 0x40 ∧
     BlkAns.done.status = .ok) ∧
    (engOp1 0 true none).finished = true ∧ (engOp1 0 false none).finished = false := by decide

def rowBuf1 : RowBuf := { lane := 255, wg := 1, idx := 0, row := 2047, words := List.replicate 32 7, tags := 0, before := [3] }
def mxOp1 (i : Instr) (st : MxStage) (b : DWord) : MxOp :=
  { id := 3, wg := 1, idx := 0, lane := 0, instr := i, stage := st, a := 15, b := b, c := 0, data := (List.range 32).map (fun t => (t, 1)), asid := 1,
    level := .user, recB := none, recC := none, badB := none, badC := none, repro := false, key := 0, stream := 0, ctr := 0, till := 0, rows := [] }
def mxHolds (op : MxOp) : State := onCore0 box { Core.reset with mq := [(0, [op])] }

theorem witness_MatrixSteps :
    (let s (b : List Nat) : State := onCore0 box { Core.reset with rows := [{ rowBuf1 with before := b }], mq := [(3, [mxOp1 (.mma plainOps) .queued 0])] }
     ((s [3]).core 0).rows.find? (fun x => x.lane == 255) = some rowBuf1 ∧ rowBuf1.row < 2048 ∧ rowBuf1.words.length = 32 ∧
     (∃ op ∈ (s [3]).mxQ 0 (255 / 64), op.id ∈ [3]) ∧ (∀ op ∈ (s [2]).mxQ 0 (255 / 64), op.id ∉ [2])) ∧
    (let s : State := mxHolds (mxOp1 (.aclr plainOps) .wanting 0)
     mxUsed (s.mxQ 0 0) < 16 ∧ (s.mxQ 0 0).filter (fun op => op.stage == .wanting) ≠ [] ∧ mxUsed (box.mxQ 0 0) = 0 ∧ box.mxQ 0 0 = [] ∧
     (s.sheaves.find? (fun e => e.2.wg == 1 && e.2.idx == 0)).isSome = true) ∧
    (let op (rows : List Nat) : MxOp := { mxOp1 (.mma plainOps) .queued 0 with rows := rows }
     (∀ x ∈ (mxHolds (op [])).mxQ 0 0, x.stage ≠ .running) ∧ ((mxHolds (op [])).mxQ 0 0).find? (fun x => x.stage == .queued) = some (op []) ∧
     ((mxHolds (op [4])).mxQ 0 0).find? (fun x => x.stage == .queued) = some (op [4])) ∧
    (let found (op : MxOp) : Bool := decide (((mxHolds op).mxQ 0 0).find? (fun x => x.stage == .running && x.till ≤ (mxHolds op).clk) = some op)
     found (mxOp1 (.aclr plainOps) .running 0) = true ∧ found (mxOp1 (.awr plainOps) .running 0) = true ∧
     found (mxOp1 (.mma plainOps) .running 0) = true ∧
     (mxOp1 (.awr plainOps) .running 0).a.toNat % 2 ^ 32 < 16 ∧
     ({ mxHolds (mxOp1 (.mma plainOps) .running 0) with slotTag := [(mxOff 0 false 0 0 / 64, 0xFFFF)] } : State).runTagsOk 0 0 0
       (mmaSpan plainOps.attr * (mmaPair plainOps.mod).as) (mmaPair plainOps.mod).fa = false) := by
  refine ⟨?_, by decide, by decide, by decide⟩
  refine ⟨by decide, by decide, by decide, ⟨_, List.mem_singleton.mpr rfl, by decide⟩, ?_⟩
  intro op h
  rw [List.mem_singleton.mp h]
  decide

/-! Stacks and storage, faults, slots, the hub's answers. -/

def stackOf (f : Stack → Stack) : State := { box with hbm := [(0, f Stack.reset)] }
def move1 (promote : Bool) (marked phases : Nat) : Move :=
  { page := 3, promote := promote, frame := 9, phases := phases, marked := List.range marked }
def moving (m : Move) : State := { box with trk := { box.trk with moves := [m] } }

theorem witness_StacksAndStorage :
    box.dev.phase = 6 ∧ (1 : BitVec 2) ≠ 3 ∧
    1 ∈ (mapGetD (stackOf (fun x => { x with switching := [1, 2], rate := 1 })).hbm 0 Stack.reset).switching ∧
    1 ∉ (mapGetD box.hbm 0 Stack.reset).switching ∧
    (let s : State := { stackOf (fun x => { x with pdIdle := 5, srIdle := 2 }) with clk := 2048 }
     let x := mapGetD s.hbm 0 Stack.reset
     let idle := s.clk - mapGetD x.pcUsed 0 0
     mapGetD x.pcUsed 0 0 ≤ s.clk ∧ x.pdIdle ≠ 0 ∧ mapGetD x.pcState 0 0 = 0 ∧ x.pdIdle.toNat ≤ idle ∧ x.srIdle ≠ 0 ∧ 1024 * x.srIdle.toNat ≤ idle ∧
     idle < 1024 * x.srIdle.toNat + 1 ∧ (mapGetD ({ s with clk := 4 } : State).hbm 0 Stack.reset).pdIdle.toNat > 4) ∧
    mapGetD (mapGetD (stackOf (fun x => { x with crcRun := [(31, 7)] })).hbm 0 Stack.reset).crcRun 31 0 + 1 = 8 ∧
    (box.sheaf 0).isSome = true ∧ (box.sheaf 0).map (fun sh => sh.rpoison) = some [] ∧
    (let s : State := { box with clk := 1200, trk := { box.trk with period := 1 } }
     s.trk.since + 1200 * s.trk.period ≤ s.clk) ∧
    (moving (move1 true 33 3)).trk.moves.find? (fun x => x.page == 3) = some (move1 true 33 3) ∧ 32 < (move1 true 33 3).marked.length ∧
    3 ≤ (move1 true 33 3).phases ∧ (move1 true 33 2).phases < 3 ∧ (move1 true 32 0).marked.length ≤ 32 ∧
    (∀ x ∈ (moving (move1 true 32 0)).trk.pool, x.2 ≠ 9) ∧
    (∀ d ∈ box.power.temps, d.2.toNat ≤ 1680) ∧ (0 : Word).toNat ≤ 1000 * box.power.limitW.toNat := by decide

def faultRec1 : FaultRec :=
  { va := va2, asid := 1, kind := 1, access := 0, mask := 1, node := 0, place := 0, lane := 0, slot := 0, level := 0, batch := 0, token := 7, time := 0 }
def pendPage1 (r : Option FaultRec) : PendPage :=
  { asid := 1, page := 0x0020000000000000, token := 7, kind := 1, level := 0, recd := r, made := 0, op := none, since := 0 }
def faulted1 : WinEntry := entry1 (.faulted 7)
def parked1 (d : Option Bool) : State :=
  { box with win := [(0, faulted1)], sheaves := [(0, { sheaf1 with parks := [{ token := 7, kind := .entry 0, done := d }] })] }

theorem witness_FaultHandling :
    (let s : State := { box with win := [(0, entry1 .sent)] }
     mapFind s.win 0 = some (entry1 .sent) ∧ memClass (entry1 .sent).instr ≠ .allow ∧ ({ BlkAns.done with status := .fault 7 }).status = .fault 7) ∧
    (let s : State := { box with clk := 256, pend := [pendPage1 (some faultRec1)] }
     s.pend.find? (fun x => x.recd.isSome && x.since + 256 ≤ s.clk) = some (pendPage1 (some faultRec1)) ∧
     ({ s with clk := 255 } : State).pend.find? (fun x => x.recd.isSome && x.since + 256 ≤ 255) = none) ∧
    (let s : State := { box with fq := { box.fq with held := [(0, faultRec1)], log2 := 4 } }
     s.fq.held = (0, faultRec1) :: [] ∧ s.fq.ringRoom = true ∧ ({ s.fq with log2 := 0 } : FaultQueue).ringRoom = false) ∧
    (let s : State := { box with nodes := [], pend := [pendPage1 none] }
     (∀ p ∈ s.pend, p.token = 7 → p.recd = none) ∧ (∀ c ∈ s.cores, c.2.eng = []) ∧
     (∀ p ∈ s.pend, p.token = 8 → p.recd.isSome = true)) ∧
    (let s := parked1 (some false)
     (s.sheaf 0).map (fun sh => decide (sh.replays = [] ∧ sh.halted = false ∧ sh.stopped = false ∧ sh.wait = .none)) = some true ∧
     mapFind s.win 0 = some faulted1 ∧ faulted1.blks.filter (fun b => b.stage == .faulted 7) = [blockReq (.faulted 7)] ∧
     ((parked1 none).sheaf 0).map (fun sh => sh.parks) = some [{ token := 7, kind := .entry 0, done := none }]) ∧
    (let r : RespTrap := { seq := 0, cause := 6, info := 0, mask := 1, pc := 0x400, level := .user, entry := none }
     ((boxed (fun sh => { sh with respTraps := [r] })).sheaf 0).map
       (fun sh => decide (sh.respTraps = [r] ∧ sh.level.code ≤ r.level.code ∧ sh.issues = true ∧ sh.force = none)) = some true ∧
     ((boxed (fun sh => { sh with respTraps := [r], halted := true, chain := 3 })).sheaf 0).map (fun sh => sh.issues) = some true ∧
     ((boxed (fun sh => { sh with respTraps := [r], halted := true })).sheaf 0).map (fun sh => sh.issues) = some false) := by decide

/-- A record of one workgroup of one sheaf of 64 registers at priority 4 with an in-degree. -/
def record1 (deg arm : Nat) : Blk :=
  let f (off len v : Nat) (b : Blk) : Blk := blkSetNat b off len v
  (f 8 4 1 (f 12 2 1 (f 14 2 1 (f 16 2 1 (f 18 1 8 (f 19 1 132 (f 24 8 0x0020000000001000 (f 32 2 deg (f 63 1 arm 0)))))))))
def slots : State := { mapped with ctxs := [(1, { ctx1 with root := [0, 0, 0x100001] ++ List.replicate 13 0, saveAreas := [(0, 0x100000)] })], slotOwner := [(65535, 1)] }
def slotIn (s : State) (f : SlotStatus → SlotStatus) : State := s.setSlot 65535 (f SlotStatus.reset)
def passes (e : Except Nat (List Window × List Nat)) : Bool := e.toOption.isSome

theorem witness_SlotSteps :
    (let s (p : Nat) : State := slotIn slots (fun x => { x with pending := p })
     let c (p : Nat) : State := (s p).setSlot 65535 { (s p).slot 65535 with pending := 0 }
     passes ((c 0).armCheck 65535 (record1 1 1)) = true ∧ ((s 2).slot 65535).pending = 2 ∧ ((s 2).slot 65535).state = .free ∧
     passes ((c 2).armCheck 65535 (record1 1 1)) = true ∧ recNat (record1 1 1) 32 2 = 1 ∧
     (match (c 0).armCheck 65535 (record1 1 2) with
      | .error x => decide (x = 2)
      | .ok _ => false) = true) ∧
    ((slotIn slots (fun x => { x with state := .waiting })).slot 65535).state = .waiting ∧
    ((slotIn slots (fun x => { x with state := .ready })).slot 65535).state = .ready ∧
    ((slotIn slots (fun x => { x with state := .error })).slot 65535).state = .error ∧
    (slots.slot 65535).state = .free ∧ (∀ f ∈ slots.net, f.place ≠ .inbox) ∧ slots.dev.phase ≠ 2 ∧ ({ slots with hostLink := true } : State).hostLink = true ∧
    ([1] : List Byte) ≠ [] ∧ 63 + ([1] : List Byte).length ≤ 64 ∧ ([1] : List Byte).getLast? ≠ some 0 ∧ ([0] : List Byte).getLast? = some 0 ∧
    slots.slotAllowed 0 1 5 = false ∧ slots.slotAllowed 0 1 65535 = true ∧
    (let s (n : Nat) : State := { slotIn slots (fun x => { x with state := .waiting }) with nodes := [(65535, { node1 with live := n })] }
     mapFind (s 2).nodes 65535 = some { node1 with live := 2 } ∧ 1 < 2 ∧ mapFind (s 1).nodes 65535 = some { node1 with live := 1 }) := by decide

def ending (n : Nat) (left : Nat) : State :=
  { box with nodes := [(5, { node1 with record := blkSetNat 0 44 8 n })], hubMarks := [{ who := .complete 5, left := left }] }
def cword1 : WriteReq := write1 (.cword 5) none

theorem witness_HubAnswers :
    (mapFind (ending 0 0).nodes 5 = some { node1 with record := blkSetNat 0 44 8 0 } ∧ (ending 0 0).net = [] ∧
     recNat (blkSetNat 0 44 8 0) 44 8 = 0 ∧ recNat (blkSetNat 0 44 8 0x0020000000001000) 44 8 ≠ 0 ∧
     (ending 0 0).hubMarks = [{ who := .complete 5, left := 0 }] ∧ 0 < 1 ∧ (ending 0 1).hubMarks = [{ who := .complete 5, left := 1 }]) ∧
    cword1.writer = .cword 5 ∧ BlkAns.done.status = .ok ∧ node1.succ = [] ∧ (recNat node1.record 58 2).testBit 2 = false ∧
    from1.d = some 8 ∧ box.sheaves = [(0, { sheaf1 with regs := regsOf [(9, 1)] })] ∧ sheaf1.wg = from1.wg ∧ sheaf1.idx = from1.idx ∧ sheaf1.ended = false ∧
    (let x : XlInv := { id := 4, slot := 0, wg := 1, idx := 0, asid := 1, va := va2, pages := 1, dies := [0], sent := true, left := 1 }
     let f : Flight := flightAt (letter (.hub) (.core 0) (.marked (.xlinv 4))) .inbox
     let s (fs : List Flight) : State := { boxed (fun sh => { sh with wait := .xlinv 4 }) with xls := [(4, x)], net := fs }
     (s []).xls = [(4, x)] ∧ x.sent = true ∧ 0 < x.left ∧ ((s []).sheaf 0).map (fun sh => decide (sh.wg = x.wg ∧ sh.idx = x.idx ∧ sh.wait = .xlinv 4)) = some true ∧
     (∀ g ∈ (s []).net, g.p.msg ≠ .marked (.xlinv 4)) ∧ (s [f]).net.length = x.left ∧
     (∀ g ∈ (s [f]).net, g.place = .inbox ∧ g.p.dst = .core (slotCore 0) ∧ g.p.msg = .marked (.xlinv 4))) := by decide

/-! Workgroups and nodes at the hub. -/

/-- Node 6 at level 4 needs 40 units of local store on a core of die 0; 60 units of each core of die 0 are held by a workgroup of node 5. -/
def node6 (units : Nat) : Node :=
  { node1 with record := blkSetNat (blkSetNat (record1 0 1) 20 1 units) 56 2 1, prio := 4, windows := [] , next := 0, blocked := some 0 }
def node5 : Node := { node1 with next := 1, record := blkSetNat (record1 0 1) 19 1 128 }
def hubReady (s : State) (x : Node) : State :=
  { s with nodes := [(5, node5), (6, x)], status := [(6, { SlotStatus.reset with state := .ready })] }
def crowded : State :=
  let w (c : Nat) : Workgroup := { wg1 with core := c, units := 100, lsBase := 0, lin := c }
  hubReady { box with sheaves := [], ctxs := [(1, { ctx1 with saveAreas := [(0, 0x10000000)] })], wgs := (List.range 16).map (fun c => (c + 1, w c)) } (node6 40)
def saved6 : State :=
  { hubReady box { node6 40 with next := 1 } with wgs := [(1, wg1), (2, { wg1 with node := 6, lin := 0, stage := .saved, units := 40, parts := [] })] }

theorem witness_WorkgroupPlacement :
    mapFind box.nodes 5 = some node1 ∧ node1.prio ≠ 0 ∧
    (let s := hubReady box (node6 40)
     s.servedNodes 0 = [6] ∧ mapFind s.nodes 6 = some (node6 40) ∧ s.nextWorks 6 (node6 40) = [.fresh 0] ∧
     (∀ c ∈ s.nodes, c.1 ≠ 6 → c.2.claimant = false) ∧ (s.choosePlace 6 (node6 40) (.fresh 0)).isSome = true) ∧
    (crowded.servedNodes 0 = [6] ∧ crowded.nextWorks 6 (node6 40) = [.fresh 0] ∧ (∀ c ∈ crowded.nodes, c.1 ≠ 6 → c.2.claimant = false) ∧
     crowded.choosePlace 6 (node6 40) (.fresh 0) = none) ∧
    (let nd := { node6 40 with next := 1 }
     saved6.servedNodes 0 = [6] ∧ saved6.slotPartition 6 = 0 ∧ mapFind saved6.nodes 6 = some nd ∧ saved6.nextWorks 6 nd = [.saved 2] ∧
     (∀ c ∈ saved6.nodes, c.1 ≠ 6 → c.2.claimant = false) ∧
     (saved6.choosePlace 6 nd (.saved 2)).isSome = true ∧ (mapFind saved6.wgs 2).map (fun w => w.node) = some 6) ∧
    (let w := { wg1 with stage := .reclaiming 5 }
     let s : State := { box with wgs := [(1, w)], clk := 5 }
     mapFind s.wgs 1 = some w ∧ w.stage = .reclaiming 5 ∧ s.fillsOut w.core w.lsBase w.units = false) ∧
    (let w := { wg1 with stage := .restoring 5 }
     let s : State := { box with wgs := [(1, w)], clk := 5 }
     mapFind s.wgs 1 = some w ∧ s.hubMarks = [] ∧ s.fillsOut w.core w.lsBase w.units = false ∧ w.kept = Saved.empty ∧ s.win = []) ∧
    (wg1.stage = .running ∧ (box.sheaf 0).map (fun sh => sh.wg) = some 1 ∧ ({ box with sheaves := [] } : State).opsOut 1 = false ∧
     mapFind box.wgs 1 = some wg1) := by decide

def vacating1 (clk : Nat) (st : WgStage) : State := { box with clk := clk, wgs := [(1, { wg1 with stage := st, asked := true })] }

theorem witness_PreemptionSteps :
    (crowded.nodes = [(5, node5)] ++ (6, node6 40) :: [] ∧ node1.blocked = none ∧
     mapFind crowded.nodes 6 = some (node6 40) ∧ crowded.slotPartition 6 = 0 ∧ (node6 40).claimant = false ∧ (node6 40).blocked = some 0 ∧
     (preemptWait (crowded.preWait.getD 0 0) (crowded.effNow 6 (node6 40))).isSome = true ∧
     crowded.victimsAll 6 (node6 40) (crowded.nextWorks 6 (node6 40)) [] = some [1]) ∧
    mapFind (vacating1 0 .running).wgs 1 = some { wg1 with stage := .running, asked := true } ∧ wg1.asked = false ∧
    ((boxed (fun sh => { sh with wait := .const va2 1, chain := 2 })).sheaf 0).map (fun sh => sh.awaitsWords) = some true ∧
    (box.sheaf 0).map (fun sh => sh.awaitsWords) = some false ∧
    (vacating1 1500 (.vacating 0)).win = [] ∧ (vacating1 1500 (.vacating 0)).halting 1 0 = true ∧
    ({ boxed (fun sh => { sh with chain := 1 }) with wgs := (vacating1 0 (.vacating 0)).wgs } : State).halting 1 0 = false ∧
    (∃ e ∈ (vacating1 1500 (.vacating 0)).sheaves, e.2.wg = 1 ∧ e.2.ended = false) ∧
    mapFind (vacating1 0 (.saving 9)).rels 9 = none ∧ (vacating1 0 (.saving 9)).halting 1 0 = true ∧
    (let s (n : Node) (x : SlotState) (w : Workgroup) : State :=
       { slots with slotOwner := [(5, 1)], nodes := [(5, n)], status := [(5, { SlotStatus.reset with state := x })], wgs := [(1, w)] }
     let t := s { node1 with record := record1 0 1 } .running wg1
     t.slotAllowed 0 1 5 = true ∧ (t.slot 5).state = .running ∧ (s node1 .ready wg1).slotAllowed 0 1 5 = true ∧
     ((s node1 .ready wg1).slot 5).state ≠ .running ∧ slots.slotAllowed 0 1 5 = false ∧ t.wgsOf 5 = [(1, wg1)] ∧
     mapFind t.wgs 1 = some wg1 ∧ t.vacatable 1 wg1 = true ∧ (mapFind t.nodes 5).isSome = true) ∧
    (let s : State := { box with cores := [(0, { Core.reset with mxSel := 3, claims := [(3, 1)] })] }
     (s.core 0).selected = some 3 ∧ mapFind (s.core 0).claims 3 = some 1 ∧ mapFind s.wgs 1 = some wg1) := by decide

/-! Reset, recovery, training, the host, contexts, ports. -/

def inPhase (n : Nat) : State := { box with dev := { box.dev with phase := n } }
/-- Fuses whose digest is one byte longer than the digest of the key in the flash. -/
def wrongFuses : State :=
  { inPhase 1 with fuses := { box.fuses with digestEd := 0 :: Config.sha384 (Config.setKeyEd (inPhase 1).flash) } }

/-- A set whose keys do not match the fuses fails its check, whatever the digest function is. -/
theorem witness_ResetAndRecovery_refused : wrongFuses.dev.phase = 1 ∧ wrongFuses.fuses.check wrongFuses.flashExtent wrongFuses.flash ≠ 0 := by
  refine ⟨rfl, ?_⟩
  have h : Config.sha384 (Config.setKeyEd wrongFuses.flash) ≠ wrongFuses.fuses.digestEd :=
    fun h => absurd (congrArg List.length h) (by simp [wrongFuses, inPhase])
  simp [Fuses.check, h]

/-- The states of recovery and its mailbox; whether a set passes depends on the implementation's signatures. -/
theorem witness_ResetAndRecovery :
    State.reset.dev.phase = 0 ∧ (inPhase 1).dev.phase = 1 ∧ 2 ≤ (inPhase 2).dev.phase ∧ (inPhase 1).dev.phase < 2 ∧
    (let s (status cmd : Nat) : State := { inPhase 2 with hostLink := true, mbox := { box.mbox with status := status, cmd := cmd } }
     (s 0 1).mbox.cmd = 1 ∧ (s 0 1).mbox.status ≠ 1 ∧ (s 0 1).mbox.setAddr.toNat + (s 0 1).mbox.setLen.toNat ≤ 2 ^ 52 ∧ (s 1 1).mbox.status = 1 ∧ (s 1 1).mbox.setLen.toNat ≤ (s 1 1).flashExtent ∧ (s 0 2).mbox.cmd = 2) := by
  decide

def training : State := { inPhase 3 with hostLink := true }
def trainedUpTo (us : List TrainUnit) : State := { training with train := us.map (fun u => { unit := u, attempts := 1, passed := true }) }
def ports12 : List TrainUnit := (List.range 12).map TrainUnit.troxia ++ [.expander 0, .expander 1]

theorem witness_TrainingAndTransition :
    training.mayTrain (.coreDie 1) = false ∧ { trainedUpTo ports12 with hostLink := false }.mayTrain (.coreDie 1) = false ∧ (inPhase 3).mayTrain (.troxia 11) = true ∧ (trainedUpTo ports12).mayTrain (.coreDie 1) = true ∧
    (trainedUpTo ports12).mayTrain (.lpddr 15) = true ∧ (inPhase 3).dev.phase = 3 ∧ (inPhase 6).dev.phase ≠ 3 ∧
    ({ training with train := [{ unit := .coreDie 1, attempts := 3, passed := false }] } : State).mayTrain (.coreDie 1) = false ∧
    3 ≤ ((({ training with train := [{ unit := .coreDie 1, attempts := 3, passed := false }] } : State).trained (.coreDie 1)).attempts) ∧
    (let s : State := { inPhase 5 with transAt := some 0, clk := 12000000 }
     s.transAt = some 0 ∧ s.dev.phase = 5 ∧ 0 + 12000000 ≤ s.clk ∧ s.clk < 1 + 12000000) ∧
    (let s : State := { inPhase 5 with ctxs := [(1, { ctx1 with saveAreas := [(0, 0x10000000)] })] }
     s.wgs = (1, wg1) :: [] ∧ wg1.stage = .running ∧ (s.askAll (s.together 1 wg1)).isSome = true) ∧
    (∃ e ∈ (inPhase 5).wgs, e.2.stage ≠ .saved) ∧
    (∀ e ∈ ({ inPhase 5 with wgs := [(1, { wg1 with stage := .saved })] } : State).wgs, e.2.stage = .saved) ∧
    (∀ e ∈ (inPhase 5).nodes, e.2.compl ≠ .releasing) ∧ (∃ e ∈ ({ inPhase 5 with nodes := [(5, { node1 with compl := .releasing })] } : State).nodes, e.2.compl = .releasing) := by decide

theorem witness_HostRegisters :
    ({ box with hostLink := true } : State).dev.phase ≠ 2 ∧ ({ inPhase 2 with hostLink := true } : State).dev.phase = 2 ∧ State.reset.hostLink = false ∧ ({ (inPhase 2).mbox with status := 1 } : Mailbox).status = 1 ∧ (inPhase 2).mbox.status ≠ 1 ∧
    (1 : DWord).toNat % 4 = 1 ∧ ¬(0x1008 ≤ 0xFFF ∧ 0xFFF ≤ 0x1014) ∧ ¬(0x1008 ≤ 0x1015 ∧ 0x1015 ≤ 0x1014) ∧ (0 : Nat) ≤ 8 ∧ 63 + 1 ≤ 64 := by decide

def switching : State := { State.reset with hbm := [(0, { Stack.reset with switching := List.range 32 })] }
/-- A stack all of whose channels switch holds every access, whatever the hash of its channels is. -/
theorem witness_HostAperture_waits : switching.stretchWaits 0x40000000 64 = true := by
  have h : switching.channelWaits 0x40000000 = true := by
    have h (n : Nat) : (List.range 32).contains (n % 64 / 2) = true := by
      rw [List.contains_iff_mem, List.mem_range]
      omega
    exact h _
  simpa [State.stretchWaits] using h

theorem witness_HostAperture :
    ({ box with hostLink := true } : State).posted = [] ∧ ({ box with hostLink := true } : State).dev.phase ≠ 2 ∧ State.reset.hostLink = false ∧
    (let s : State := { box with posted := [{ dpa := 0x4000003F, bytes := [1] }] }
     s.stretchWaits 0x4000003F 1 = false ∧ s.posted ≠ [] ∧ s.posted = { dpa := 0x4000003F, bytes := [1] } :: [] ∧ ([1] : List Byte) ≠ [] ∧ 0x4000003F % 64 + ([1] : List Byte).length ≤ 64 ∧
     dpaTarget 0x4000003F < 12 ∧ s.memTagAt 0x4000003F ≠ 0xA000 ∧
     ({ s with memTag := [(dpaBlock 0x4000003F, 0xA000)] } : State).memTagAt 0x4000003F = 0xA000) ∧
    (let s : State := { box with aper := 0x40000001, aperNow := 0x40000001 }
     s.aper = s.aperNow ∧ s.aperSettle = s ∧ s.aperNow.getLsbD 0 = true ∧ 2 ^ 36 - 1 < 2 ^ 36 ∧
     dpaTarget (s.aperNow.toNat / 2 ^ 30 * 2 ^ 30 + (2 ^ 36 - 1)) ≠ 13 ∧ dpaTarget (s.aperNow.toNat / 2 ^ 30 * 2 ^ 30 + (2 ^ 36 - 1)) ≠ 15 ∧ s.aperDpa 0 = some 0x40000000 ∧ s.memPoisonAt 0x40000000 = false ∧ s.stretchWaits 0x40000000 64 = false ∧
     s.aperDpa (2 ^ 36) = none) ∧
    box.aperNow.getLsbD 0 = false ∧ (inPhase 2).dev.phase = 2 := by decide

def running1 : State := { box with running := some ([], 2, []) }

theorem witness_ContextsAndIdentity :
    3 ≤ box.dev.phase ∧ box.ctxs ≠ [] ∧ State.reset.ctxs = [] ∧ box.ctx 1 ≠ none ∧ (∀ c ∈ box.ctxs, c.2.mode = box.modeNow) ∧ (∃ c ∈ ({ box with mode := .two } : State).ctxs, c.2.mode ≠ ({ box with mode := .two } : State).modeNow) ∧
    box.ctx 0xFFFE = none ∧ (0xFFFE : BitVec 16) ≠ 0 ∧
    (0xFFFE : BitVec 16) ≠ 0xFFFF ∧ 0 < modeParts box.modeNow ∧ (inPhase 4).dev.phase = 4 ∧ box.ctxBusy 1 = true ∧
    (let s : State := { box with nodes := [], wgs := [], sheaves := [] }
     s.ctxBusy 1 = false ∧ s.ctx 1 ≠ none ∧ (∀ c ∈ s.cores, ∀ e ∈ c.2.al, e.key.asid ≠ 1) ∧ (∀ d ∈ s.alDie, ∀ e ∈ d.2, e.key.asid ≠ 1) ∧ s.net = []) ∧
    running1.running = some ([], 2, []) ∧ running1.dev.phase = 6 ∧ running1.fuses.minSvn ≤ (2 : BitVec 16).toNat ∧ (2 : BitVec 16).toNat ≤ 2 ∧
    2 < (3 : BitVec 16).toNat ∧ (List.replicate 32 (0 : Byte)).length = 32 := by decide

def portOf (x : Port) : State := { box with ports := [(11, x)] }
def upPort : Port := { Port.reset with up := true, expect := 5, sent := 7, acked := 4, replay := [{ seq := 5, epoch := 0, req := 1 }, { seq := 6, epoch := 0, req := 2 }] }
def flit1 (seq : BitVec 24) (ok : Bool) : Flit := { seq := seq, keyBit := false, ack := 5, ok := ok, payload := [] }

theorem witness_PortsAndMarkers :
    mapFind (portOf upPort).ports 11 = some upPort ∧ upPort.up = true ∧ Port.reset.up = false ∧ mapFind (portOf Port.reset).ports 11 = some Port.reset ∧
    (flit1 5 false).ok = false ∧ mapGetD upPort.rejects 5 0 < 7 ∧ 7 ≤ mapGetD { upPort with rejects := [(5, 7)] }.rejects 5 0 ∧ (flit1 5 true).ok = true ∧
    (flit1 5 true).keyBit = (upPort.recvEpoch % 2 == 1) ∧ { flit1 5 true with keyBit := true }.keyBit ≠ (upPort.recvEpoch % 2 == 1) ∧
    upPort.recvBoth = false ∧ { upPort with recvBoth := true }.recvBoth = true ∧ upPort.queue = [] ∧ (flit1 5 true).seq = upPort.expect ∧ (flit1 6 true).seq ≠ upPort.expect ∧
    upPort.replay.filter (fun r => !seqFrom (flit1 5 true).ack r.seq) = [{ seq := 6, epoch := 0, req := 2 }] ∧
    (List.replicate 511 ({ seq := 0, epoch := 0, req := 0 } : HeldFlit)).length < 512 ∧ min 2 (512 - 511) = 1 ∧
    (∀ q ∈ (portOf upPort).podOut, q.port ≠ 11) ∧ upPort.rollover = none ∧ { upPort with rollover := some 5 }.rollover ≠ none ∧ upPort.waiting = [] ∧
    (let rolled : Port := { upPort with rollover := some 3, replay := [{ seq := 6, epoch := 1, req := 2 }], waiting := [9] }
     rolled.rollover = some 3 ∧ seqFrom rolled.acked 3 = true ∧ (∀ r ∈ rolled.replay, seqFrom r.seq 3 = true) ∧ rolled.recvBoth = false ∧ rolled.waiting = 9 :: [] ∧
     seqFrom rolled.acked 5 = false) ∧
    (let q : PodOut := { seq := 1, port := 0, pkg := 1, core := 0, asker := .entry 0, sheaf := 0, write := true, base := 0, mask := 1, bytes := 0 }
     let m (n : Nat) : PodMark := { who := .rel 0, back := .core 0, port := 0, before := n }
     let s (n : Nat) : State := { box with podOut := [q], podMarks := [m n] }
     (s 1).podMarks = m 1 :: [] ∧ (∀ f ∈ (s 1).net, f.place ≠ .inbox) ∧
     (∀ x ∈ (s 1).podOut, x.write = true → x.port = (m 1).port → (m 1).before ≤ x.seq) ∧
     (∀ y ∈ (s 2).podMarks, ∃ x ∈ (s 2).podOut, x.write = true ∧ x.port = y.port ∧ x.seq < y.before)) := by decide

/-! A step, the round trip, the stores. -/

def fetched : State := box.withFetchWord 64 0x0000000300000135
def broken : State := box.withFetchWord 64 0x0000080003000340
def debugging : State :=
  { fetched with cores := [(0, { Core.reset with dbgAttach := true, dbgAsid := 1, bp := [0, 0, 0, 0x401] })] }

theorem witness_StepRunsDecoded :
    (fetched.agenda = [] ∧ fetched.cur = some 0 ∧ (fetched.sheaf 0).map (fun sh => fetched.debugTrap 0 sh) = some none ∧
     (fetched.sheaf 0).map (fun sh => (match decodeBytes (fetchBytes sh.fbuf sh.pc) with
      | .ok x => decide (x = (.movs { plainOps with a := .imm 0, d := 1 }, List.replicate 8 0))
      | _ => false)) = some true) ∧
    (broken.agenda = [] ∧ broken.cur = some 0 ∧ (broken.sheaf 0).map (fun sh => broken.debugTrap 0 sh) = some none ∧
     (broken.sheaf 0).map (fun sh => (match decodeBytes (fetchBytes sh.fbuf sh.pc) with
      | .error (.fields op) => decide (op = 0x40)
      | _ => false)) = some true) ∧
    ((debugging.sheaf 0).map (fun sh => (debugging.debugTrap 0 sh).isSome) = some true ∧ debugging.agenda = []) ∧
    ({ box with agenda := [.manifestCheck] } : State).agenda = .manifestCheck :: [] := by decide

theorem witness_EncodingRoundTrip :
    (Instr.fadd { plainOps with p := 9, b := .reg 12, a := .reg 4, d := 8 }).encodable = true ∧
    (match decodeWords 0x0000000300000135 0 with
      | .ok i => decide (i = .movs { plainOps with a := .imm 0, d := 1 })
      | .error _ => false) = true := by decide

theorem witness_StoresWfKept : fetched.storesWf = true ∧ (match step fetched with
    | .next t => t.storesWf
    | _ => false) = true := by decide

/-! One step. Expected results are the spec's own: the table of R142, the worked examples of R63, R80, R213, R215, R31. -/

/-- What holds of the sheaf of slot 0 after one step that fetches a word. -/
def afterWord (s : State) (nbits w : Nat) (f : Sheaf → Bool) : Bool :=
  match step (s.withFetchWord nbits w) with
  | .next t => ((t.sheaf 0).map f).getD false
  | _ => false
def trapped (cause info : Word) (sh : Sheaf) : Bool := sh.trap.cause &&& 0xFF == cause && sh.trap.info == info && sh.level != .user
def ones3 : State := machine ((3, 0x3F800000) :: [])

/-- The first four fates of the table of R142, and those of IADD64 and of the zero word. -/
theorem test_fates :
    afterWord box 64 0x000000000000000F (trapped 1 1) = true ∧ afterWord box 64 0x0000080003000340 (trapped 1 3) = true ∧
    afterWord box 64 0x00000000000000F0 (fun sh => sh.trap.cause &&& 0xFF == 3) = true ∧ afterWord box 64 0x0000000000040070 (fun sh => sh.trap.cause &&& 0xFF == 1) = true ∧
    afterWord box 64 0x0000001804000317 (fun sh => sh.trap.cause &&& 0xFF == 2) = true ∧ afterWord box 64 0 (fun sh => sh.pc == 0x408 && sh.trap.cause &&& 0xFF == 0) = true := by
  decide
/-- The first instruction after package reset. -/
theorem test_reset_runs : afterWord State.reset 64 0 (fun sh => sh.pc == 8) = true := by decide
/-- R142's FADD v3, v3, 1.5 on 1.0, in every thread. -/
theorem test_fadd_ext :
    afterWord ones3 128 0x000000003FC000008000080003000340 (fun sh => (List.range 32).all (fun t => sh.reg 3 t == 0x40200000) && sh.pc == 0x410) = true := by
  decide
/-- R142's FMUL v3, v3, 2. -/
theorem test_fmul_short : afterWord ones3 64 0x00000C0803000341 (fun sh => sh.reg 3 31 == 0x40000000) = true := by decide
/-- R213: DSENC of 0.41 shifts 0x1C in above 0x23; DSDEC gives 0.4375 and 0.375 (R63). -/
theorem test_ds8 :
    (match exec (.dsenc { plainOps with a := .reg 4, c := .reg 5, d := 6 }) (machine [(4, 0x3ED1EB85), (5, 0x23)]) with
    | .next t => ((t.sheaf 0).map (fun sh => sh.reg 6 0 == 0x231C)).getD false
    | _ => false) = true ∧
    (match exec (.dsdec { plainOps with a := .reg 4, b := .imm 1, d := 6 }) (machine [(4, 0x231C)]) with
    | .next t => ((t.sheaf 0).map (fun sh => sh.reg 6 0 == 0x3EC00000)).getD false
    | _ => false) = true ∧
    (match exec (.dsdec { plainOps with a := .reg 4, b := .imm 0, d := 6 }) (machine [(4, 0x231C)]) with
    | .next t => ((t.sheaf 0).map (fun sh => sh.reg 6 0 == 0x3EE00000)).getD false
    | _ => false) = true := by decide
/-- R215: RELAY.off by -1 with threads 0 to 7 executing. -/
theorem test_relay :
    (match exec (.relay { plainOps with p := 9, a := .reg 7, b := .imm 0xFF, mod := 1, d := 8 })
      { box with sheaves := [(0, { sheaf1 with regs := (List.range 8).map (fun t => (224 + t, BitVec.ofNat 32 (100 + t))) ++ (List.range 8).map (fun t => (288 + t, 1)) })] } with
    | .next t => ((t.sheaf 0).map (fun sh => (List.range 9).map (fun t => sh.reg 8 t) == [100, 100, 101, 102, 103, 104, 105, 106, 0])).getD false
    | _ => false) = true := by decide
/-- R80: a block of 1,000, -3.3 and 0.001 drained to E4M3 has the tag 0x0481 and the codes 0x78, 0xB5 and 0x00. -/
theorem test_block_scale : narrowBlock 4 false (fun _ => .rne) [ofFP32 0x447A0000, ofFP32 0xC0533333, ofFP32 0x3A83126F] = ([0x78, 0xB5, 0], 0x0481) := by decide
/-- An addition that wraps. -/
theorem test_iadd_wraps :
    (match exec (.iadd { plainOps with a := .reg 4, b := .imm 1, d := 4 }) (machine [(4, 0xFFFFFFFF)]) with
    | .next t => ((t.sheaf 0).map (fun sh => sh.reg 4 17 == 0 && sh.reg 3 17 == 0)).getD false
    | _ => false) = true := by decide

/-! Cases of single clauses: each a state and operands that meet that clause's own hypotheses. -/

/-- A TRET whose frame is still to be written by the handler's own store, and an atomic line of another address in the L1. -/
theorem witness_TrapReturn_frame :
    (let t : Sheaf := { handlerSheaf sheaf1 with trap := { cause := 0x20, pc := 0x400, npc := 0x408, mask := 1, rmask := 1, amask := 0xFFFFFFFF, info := 0 } }
     let s : State := boxed (fun _ => { t with regs := regsOf [(9, 1)] })
     let e : WinEntry := { acquire1 with instr := .st plainOps, blks := [{ base := s.frameVa 0, mask := 1, stage := .sent }] }
     let busy : State := { s with win := [(0, e)] }
     starts s (.tret plainOps) 0 = true ∧ s.frameBusy 0 = false ∧ (∀ l ∈ (s.core 0).l1, l.atomic = true → s.inFrame 0 l.asid l.va = false) ∧
     starts busy (.tret plainOps) 0 = true ∧ busy.frameBusy 0 = true ∧ t.stack.length + t.spilled.length = 0) := by decide

/-- A record read that an earlier store of the sheaf to the same block holds. -/
theorem witness_RecordAccess_busy :
    (let i : Instr := .ldb { plainOps with p := 9, a := .reg 4, b := .reg 12, d := 8 }
     let e : WinEntry := { acquire1 with instr := .st plainOps, blks := [{ base := 0x1000000000000000, mask := 1, stage := .sent }] }
     let s : State := { withRecord 0 0 with win := [(0, e)] }
     starts s i 0 = true ∧ s.windowFree 0 i = true ∧
     (match i.form, ctxAt s i with
      | some (o, _), some c => c.recordBusy o 0
      | _, _ => false) = true) := by decide

/-- CPIN of several lines that are present, of one that is absent with room to pin it or none, and CFETCH with an earlier CFETCH outstanding. -/
theorem witness_CodeLines_lines :
    (let i : Instr := .cfetch { plainOps with p := 9, a := .reg 4 }
     let j : Instr := .cpin { plainOps with p := 9, a := .reg 4, d := 8 }
     let at_ (k : Core) : State := { pointing 0x1000 0x200000 with cores := [(0, k)] }
     let two : State := { machine [] with
       sheaves := [(0, { sheaf1 with regs := regsOf [(5, 0x200000), (9, 1)] ++ (List.range 32).map (fun t => (4 * 32 + t, BitVec.ofNat 32 (0x1000 + 128 * (t % 2)))) })]
       cores := [(0, { Core.reset with ic := [icLine 0x0020000000001000 true, icLine 0x0020000000001080 false] })] }
     let full : Core := { Core.reset with ic := (List.range 4).map (fun n => icLine (BitVec.ofNat 64 (0x0020000000001000 + 128 * 128 * (n + 1))) true) }
     let code1 : CountedOp := { id := 1, wg := 1, idx := 0, left := 1 }
     starts two j 0 = true ∧ starts two i 0 = true ∧
     (List.range 32).all (fun t => (two.icFind 0 1 (((two.sheaf 0).map (fun sh => sh.pair 4 t)).getD 0 &&& 0x01FFFFFFFFFFFF80)).isSome) = true ∧
     starts (at_ Core.reset) j 0 = true ∧ (at_ Core.reset).icFind 0 1 0x0020000000001000 = none ∧ ((at_ Core.reset).core 0).icMiss = [] ∧
     ((at_ Core.reset).core 0).pinRoom 0x0020000000001000 = true ∧
     starts (at_ full) j 0 = true ∧ (at_ full).icFind 0 1 0x0020000000001000 = none ∧ ((at_ full).core 0).pinRoom 0x0020000000001000 = false ∧
     starts (at_ { full with code := [code1] }) i 0 = true) := by decide

/-- LAUNCH behind the sheaf's own store to the record, and of a record with poisoned words; AOP's bias in the local store, with and without such a store. -/
theorem witness_RequestsToUnits_records :
    (let i : Instr := .launch { plainOps with p := 9, a := .reg 12, b := .reg 4, d := 8 }
     let e : WinEntry := { acquire1 with instr := .st plainOps, blks := [{ base := 0x1000000000000040, mask := 1, stage := .sent }] }
     let p : State := pointing 0x40 0x10000000
     let bias : Instr := .aop { plainOps with a := .reg 4, b := .reg 16, mod := 1 }
     let q : State := owning (machine [(4, 15), (9, 1), (16, 0x40), (17, 0x10000000)]) 32 16
     starts { p with win := [(0, e)] } i 0 = true ∧ { p with win := [(0, e)] }.blockBusy 0 0x1000000000000040 = true ∧ p.blockBusy 0 0x1000000000000040 = false ∧
     starts { p with lsPoison := [(17, true)] } i 0 = true ∧ { p with lsPoison := [(17, true)] }.lsPoisonMask 0 0x40 ≠ 0 ∧
     starts q bias 0 = true ∧ (∀ d ∈ [0, 64, 128, 192, 255], q.blockBusy 0 (0x1000000000000040 + BitVec.ofNat 64 d) = false) ∧ q.acquirePending 0 = false ∧
     starts { q with win := [(0, e)] } bias 0 = true ∧ { q with win := [(0, e)] }.blockBusy 0 (0x1000000000000040 + BitVec.ofNat 64 0) = true) := by decide

/-- Entry n of a full die: key n, used last at n. -/
def dieUsed (n : Nat) : AlDie := { dieUnits 2 [] with key := { asid := 1, va := BitVec.ofNat 64 (64 * n) }, used := n }
def fullDie : State := { mapped with alDie := [(0, (List.range 1024).map dieUsed)] }

/-- A die with as many entries as it holds, none of them recalling: the one used least recently is alone before all others. -/
theorem witness_AllowanceCounters_full :
    mapGetD fullDie.alDie 0 [] = (List.range 1024).map dieUsed ∧ (mapGetD fullDie.alDie 0 []).length = 1024 ∧
    (∀ x ∈ mapGetD fullDie.alDie 0 [], x.recalling = []) ∧ dieUsed 0 ∈ mapGetD fullDie.alDie 0 [] ∧
    (∀ x ∈ mapGetD fullDie.alDie 0 [], x = dieUsed 0 ∨ (dieUsed 0).used < x.used) ∧ fullDie.alDieOf 0 key1 = none := by
  have h : mapGetD fullDie.alDie 0 [] = (List.range 1024).map dieUsed := rfl
  have hn (x : AlDie) (hx : x ∈ mapGetD fullDie.alDie 0 []) : ∃ n, n < 1024 ∧ dieUsed n = x := by
    rw [h] at hx
    simpa using hx
  refine ⟨h, by rw [h]; simp, ?_, by rw [h]; exact List.mem_map.2 ⟨0, by simp, rfl⟩, ?_, ?_⟩
  · intro x hx
    obtain ⟨n, -, rfl⟩ := hn x hx
    rfl
  · intro x hx
    obtain ⟨n, -, rfl⟩ := hn x hx
    rcases Nat.eq_zero_or_pos n with rfl | hp
    · exact .inl rfl
    · exact .inr hp
  · refine List.find?_eq_none.2 fun x hx => ?_
    obtain ⟨n, hl, rfl⟩ := hn x hx
    have hne : (dieUsed n).key ≠ key1 := by
      intro he
      have hv : 64 * n % 2 ^ 64 = 0x0020000000001000 := congrArg (fun k => k.va.toNat) he
      omega
    simp [hne]

/-- A poisoned entry, room at every die, a die entry that is SCARCE or only recalling, a core that records SCARCE, a counter that is OPEN, SCARCE or
POISONED and one that refuses gives. -/
theorem witness_AllowanceCounters_more :
    (∀ x, (mapGetD mapped.alDie x []).length < 1024) ∧
    (let s (e : AlDie) : State := { mapped with alDie := [(0, [e])] }
     (s { dieUnits 4 [] with poison := true }).alDieOf 0 key1 = some { dieUnits 4 [] with poison := true } ∧
     (s { dieUnits 4 [] with scarce := true }).alDieOf 0 key1 = some { dieUnits 4 [] with scarce := true } ∧
     (s { dieUnits 0 [] with held := false, recalling := [3], scarce := true }).alDieOf 0 key1 = some { dieUnits 0 [] with held := false, recalling := [3], scarce := true } ∧
     eaSpace key1.va ≠ 5) ∧
    (let s (e : AlCore) : State := onCore0 mapped { Core.reset with al := [e] }
     (s { coreUnits [] with scarce := true, held := false }).alCore 0 key1 = some { coreUnits [] with scarce := true, held := false } ∧ mapped.alCore 0 key1 = none ∧
     (s (coreUnits [])).alCore 0 key1 = some (coreUnits [])) ∧
    (counter 0 8 0).alAllowed key1 = true ∧ (counter 0 8 0).alCause key1 = none ∧ (counter 0 8 0).alNoGive key1 = false ∧ (counter 0 8 0).alScarce key1 = false ∧
    (counter 1 8 0).alAllowed key1 = true ∧ (counter 1 8 0).alCause key1 = none ∧ (counter 1 8 0).alNoGive key1 = false ∧ (counter 1 8 0).alScarce key1 = true ∧
    ctrState ((counter 2 8 0).memBlk dpa2) = 2 ∧ ctrNoGive ((counter 0 8 0).memBlk dpa2) = false ∧ ctrState ((counter 1 8 0).memBlk dpa2) = 1 ∧
    (counter 0 8 0).channelWaits dpa2 = false ∧ (counter 0 8 0).lostAt va2 = false ∧ (counter 0 8 0).homeLook 1 va2 .store (.entry 0) 0 = .ok dpa2 perm7 ∧
    (∀ x ∈ (counter 0 8 0).alHome, x.key ≠ key1) := by
  refine ⟨fun _ => ?_, by decide⟩
  show (0 : Nat) < 1024
  decide

/-- The later block of a line that a CPIN of the only sheaf waits for. -/
theorem witness_CodeAndConstants_pin :
    (let m : IcMiss := { icMiss1 (some 0) with want := [.pin 1 0 (some 8) 1] }
     let s : State := onCore0 box { Core.reset with icMiss := [m] }
     (s.core 0).icMiss = [m] ∧ m.stale = false ∧ m.fail = none ∧ m.want = [.pin sheaf1.wg sheaf1.idx (some 8) 1] ∧
     s.sheaves = [(0, { sheaf1 with regs := regsOf [(9, 1)] })] ∧ sheaf1.ended = false ∧ mapFind s.wgs 1 = some wg1 ∧ wg1.saved = [] ∧
     ((s.core 0).ic.filter (fun l => icSet l.va == icSet m.va)).length < 8) := by decide

/-- A line and a merge entry of a remote heap (heap 2 at die 0) with a write on its way before, and one after, the read of the home. -/
theorem witness_SliceSteps_remote :
    (let y (n : Nat) : PendWrite := { id := n, asid := 1, va := va2, blk := 0, mask := 1, tag := none, poison := false, wait := false }
     let m : MergeEntry := { asid := 1, va := va2, kind := .load, recs := [(.core 0, [], read1 (.entry 0) .load)], open_ := true, before := [3], later := [] }
     let x : Slice := { Slice.reset with lines := [line1], merge := [m], pend := [y 3, y 4] }
     let s : State := { box with slices := [(0, x)] }
     isRemote 0 va2 = true ∧ isRemote 0 0x1000 = false ∧ (s.slice 0 0).pend.filter (fun z => z.id == 4) = [y 4] ∧ 4 ∉ m.before ∧ 3 ∈ m.before ∧
     ((s.slice 0 0).pendingOf 1 va2).filter (fun z => !m.before.contains z.id) = [y 4] ∧
     (∃ l ∈ (s.slice 0 0).lines, l.asid = 1 ∧ l.va = va2 ∧ isRemote 0 l.va = true) ∧ (BlkAns.failed (.bad 0x09)).status ≠ .ok) := by decide

def switchingAll : State := { mapped with hbm := (List.range 12).map (fun n => (n, { Stack.reset with switching := List.range 32 })) }
/-- Channels that switch hold every access to the block, and to the tables of its translation. -/
theorem witness_HomeSteps_waits : switchingAll.channelWaits dpa2 = true ∧ (∃ d ∈ switchingAll.tablePlaces 1 va2, switchingAll.channelWaits d = true) ∧
    (∀ d ∈ mapped.tablePlaces 1 va2, mapped.channelWaits d = false) ∧ mapped.channelWaits dpa2 = false := by
  have h (n : Nat) : (List.range 32).contains (n % 64 / 2) = true := by
    rw [List.contains_iff_mem, List.mem_range]
    omega
  refine ⟨h _, ⟨(switchingAll.tablePlaces 1 va2).headD 0, by decide, h _⟩, ?_, by decide⟩
  have hp : mapped.tablePlaces 1 va2 = [0x100000, 0x110000] := by decide
  intro d hd
  rw [hp] at hd
  rcases List.mem_cons.1 hd with rfl | hd
  · decide
  · rcases List.mem_cons.1 hd with rfl | hd
    · decide
    · cases hd

/-- An atomic of the host's memory; heap 14 after its link has dropped, its record still owed. -/
theorem witness_HomeSteps_heaps :
    (let e : TcEntry := { asid := 1, va := 0x00D0000000000000, size := 2 ^ 30, entry := 0x4000001F }
     let s : State := { mapped with tc := [(13, [e])] }
     s.homeLook 1 0x00D0000000001000 .atomic (.entry 0) 0 = .ok (13 * 2 ^ 52 + 0x40001000) perm7 ∧ dpaTarget (13 * 2 ^ 52 + 0x40001000) = 13 ∧
     s.memPoisonAt (13 * 2 ^ 52 + 0x40001000) = false ∧ ({ atom1 with va := 0x00D0000000001000 } : AtomReq).from_ = [contributor1]) ∧
    (let e : TcEntry := { asid := 1, va := 0x00E0000000000000, size := 2 ^ 30, entry := 0x4000001F }
     let s : State := { mapped with tc := [(14, [e])], heap14Lost := true, heap14Owed := true }
     s.homeLook 1 0x00E0000000001000 .load (.entry 0) 0 = .ok (14 * 2 ^ 52 + 0x40001000) perm7 ∧ s.heap14Lost = true ∧ s.heap14Owed = true) := by decide

/-- A bank that accepts a request, and one that has accepted one in this cycle. -/
theorem witness_CoreResponses_bank :
    (let q : LsReq := { core := 0, base := 0x40, va := 0x1000000000000040, act := .write 0 1 none 0, who := .peer 1 0, asid := 1, span := none,
                        priv := false, since := 0, lane := 0 }
     let s (at_ : Map Nat) : State := onCore0 { box with clk := 9 } { Core.reset with bankQ := [q], bankAt := at_ }
     mapGetD ((s []).core 0).bankAt (bankOf 0x40) 0 ≤ (s []).clk ∧ (s [(bankOf 0x40, 10)]).clk < mapGetD ((s [(bankOf 0x40, 10)]).core 0).bankAt (bankOf 0x40) 0 ∧
     (∀ x ∈ [q], x ≠ q → LsReq.first x q = false) ∧ (∀ c op item n, q.who ≠ .put c op item n)) := by
  refine ⟨by decide, by decide, by simp, by simp⟩

/-- The words of a record. -/
def recWords (base : DWord) (ext0 ext1 s1 s2 : Word) (fmt w7 : Word) : List Word :=
  [base.extractLsb' 0 32, base.extractLsb' 32 32, ext0, ext1, s1, s2, fmt * 0x1000000 + 1, w7]
def engOp2 (i : Instr) (a b : DWord) (recA recB : Option (List Word)) (cs : Map Word) : EngOp :=
  { engOp1 a false none with instr := i, a := a, b := b, recA := recA, recB := recB, cs := cs }
def cpyOf (md : BitVec 5) : Instr := .cpy { plainOps with a := .reg 4, b := .reg 12, mod := md }

/-- An operation that begins: one refused, a CPY with parts whose destination fits, one with none, and one past its region. -/
theorem witness_EngineSteps_begin :
    (let plain : List Word := recWords 0x0020000000001000 16 2 64 0 1 0
     let own (off : DWord) : List Word := recWords (0x1000000000000000 + off) 16 2 64 0 1 0
     let op (md : BitVec 5) (a : DWord) (ra : List Word) : EngOp := { engOp2 (cpyOf md) a 0 (some ra) (some plain) [] with c := 0 }
     let s (e : EngOp) : State := onCore0 box { Core.reset with eng := [e] }
     let ok (e : EngOp) : Bool := match (s e).engParts wg1 e with
       | (items, words, none) => !items.isEmpty && (s e).extentOk wg1 e (bufRec (words ++ (e.recA.getD []))) (e.extent (bufRec (e.recA.getD [])) (bufRec words))
       | _ => false
     let spills (e : EngOp) : Bool := match (s e).engParts wg1 e with
       | (items, words, none) => !items.isEmpty && !(s e).extentOk wg1 e (bufRec (e.recA.getD [])) (e.extent (bufRec (e.recA.getD [])) (bufRec words))
       | _ => false
     ok (op 0 0 plain) = true ∧ spills (op 0 0 (own 0xFFFFFF)) = true ∧ (s (op 2 0 plain)).engParts wg1 (op 2 0 plain) = ([], plain, none) ∧
     (s (op 1 0 plain)).engParts wg1 (op 1 0 plain) = ([], [], some causeAddress) ∧
     ((s (op 0 0 plain)).core 0).eng = [] ++ op 0 0 plain :: [] ∧ (op 0 0 plain).begun = false ∧ (s (op 0 0 plain)).storesOut (op 0 0 plain) = false ∧
     mapFind (s (op 0 0 plain)).wgs 1 = some wg1) := by decide

/-- A part of a multicast copy that its packet returns to, an own block written with and without a barrier object, and arrivals of this cycle and
of an earlier one. -/
theorem witness_EngineSteps_returns :
    (let it : EngItem := { engItem 0 0 [some va2] 64 0x40 with asked := [7] }
     let op : EngOp := { engOp2 (cpyOf 2) 0x40 0 none (some (recWords va2 16 1 64 0 1 0)) [] with c := 3, begun := true, items := [it] }
     let s : State := onCore0 box { Core.reset with eng := [op] }
     s.opCore 5 = some 0 ∧ s.findOp 0 5 = some op ∧ op.item 0 = some it ∧ op.cores = [0, 1] ∧ 0 ∉ it.asked ∧ BlkAns.done.status = .ok ∧ BlkAns.done.tag.toNat / 256 ≤ 8 ∧
     ({ op with bo := some 0x40 } : EngOp).bo = some 0x40 ∧ op.bo = none ∧ (BlkAns.failed (.bad 0x06)).status = .bad 0x06) ∧
    (let f (since : Nat) : Flight := { flightAt (letter (.core 1) (.core 0) (.boArr 1 0x40 64 1 5 0)) .inbox with since := since }
     let s : State := { box with clk := 9, net := [f 7, f 7, f 9] }
     s.net = f 7 :: [f 7] ++ [f 9] ∧ (∀ g ∈ f 7 :: [f 7], g.since = 7 ∧ (s.boDue 0 g).isSome = true ∧ (s.boDue 0 g).map (fun x => x.off) = some 0x40) ∧
     (∀ g ∈ [f 9], s.boDue 0 g = none)) := by decide

/-- The records of CPY: the refused formats, alignments and extents, and pairs that pass, for each form of destination. -/
theorem witness_EngineParts_copies :
    (let op (md : BitVec 5) (a : DWord) (c : DWord) (ra rb : List Word) : EngOp := { engOp2 (cpyOf md) a 0 (some ra) (some rb) [] with c := c }
     let a (fmt w7 : Word) (x : Word) : List Word := recWords 0x0020000000002000 x 2 64 0 fmt w7
     let b (base : DWord) (w7 : Word) : List Word := recWords base 16 2 64 0 1 w7
     let good (e : EngOp) : Bool := (box.goodRecord wg1 e.recB e.b).toOption.isSome && (box.goodRecord wg1 e.recA e.a).toOption.isSome
     let parts (e : EngOp) : Option Nat × Bool := ((box.engParts wg1 e).2.2, (box.engParts wg1 e).1.isEmpty)
     let pass : Option Nat × Bool := (none, false)
     good (op 0 0 0 (a 1 0 16) (b va2 0)) = true ∧ (bufRec (b va2 0)).empty = false ∧ parts (op 0 0 0 (a 1 0 16) (b va2 0)) = pass ∧
     parts (op 0 0 0 (a 2 0 16) (b va2 0)) = (some causeFormat, true) ∧ parts (op 0 0 0 (a 1 0x100 16) (b (va2 + 32) 0)) = (some causeMisaligned, true) ∧
     parts (op 0 0 0 (a 1 0x100 16) (b va2 0)) = pass ∧ parts (op 0 0 0 (a 1 0 15) (b va2 0)) = (some causeBounds, true) ∧ parts (op 0 0 0 (a 1 1 15) (b va2 0)) = pass ∧
     parts (op 1 0 0 [] (b va2 0)) = (some causeAddress, true) ∧ parts (op 1 0x1000000000000040 0 [] (b va2 0)) = pass ∧
     parts (op 1 0x1000000000000044 0 [] (b va2 0x100)) = (some causeMisaligned, true) ∧ parts (op 2 0x40 0x10000 [] (b va2 0)) = (some causeIllegalOperand, true) ∧
     parts (op 2 0x40 0 [] (b va2 0)) = (none, true) ∧ parts (op 2 0x40 3 [] (b va2 0)) = pass ∧ parts (op 2 0x44 3 [] (b va2 0x100)) = (some causeMisaligned, true) ∧
     (∀ y z, y < min 2 2 → z < min 1 1 → ((bufRec (b va2 0)).at 0 y z).toNat + 64 ≤ 2 ^ 64)) := by
  refine ⟨by decide, by decide, by decide, by decide, by decide, by decide, by decide, by decide, by decide, by decide, by decide, by decide, by decide, by decide,
    by decide, ?_⟩
  intro y z hy hz
  have hz0 : z = 0 := by omega
  subst hz0
  have h : y = 0 ∨ y = 1 := by omega
  rcases h with rfl | rfl <;> decide

/-- What a part reads and writes: sources in memory, in the own region and outside, blocks of each kind of tag, and destinations of each kind. -/
theorem witness_EngineParts_blocks :
    (let op : EngOp := engOp2 (cpyOf 0) 0 0 none none []
     let it : EngItem := engItem 0 0 [some va2] 64 0x40
     let b (tag : Tag) : EngBlk := { blk := 5, tag := tag, poison := 0, status := .ok }
     let p (a : DWord) (m : BitVec 64) : Put := { addr := a, blk := 0, mask := m, poison := 0 }
     box.engLoc op va2 = some (.dev 2) ∧ op.cores = [] ∧ (engOp2 (cpyOf 2) 0 0 none none []).instr = cpyOf 2 ∧ box.engLoc op 0x7000000000000000 = none ∧
     box.engLoc op 0x1000000000000040 = some (.own 0x40) ∧ box.engLoc op 0x2000000100000040 = some (.peer 1 0x40) ∧ (1 : Nat) ≠ op.core ∧
     it.len ≤ 64 ∧ it.src = [some va2] ∧ va2.toNat % 64 + it.len ≤ 64 ∧ (b 0xA000).tag.toNat / 256 = 0xA0 ∧ (b 0x0900).tag.toNat / 256 = 9 ∧
     (b 0x0200).tag.toNat / 256 ≤ 8 ∧ ({ b 0 with status := .bad 0x0C } : EngBlk).status = .bad 0x0C ∧ (p 0 0).mask = 0 ∧ (p va2 1).mask ≠ 0 ∧
     va2.toNat % 64 = 0) := by decide

/-- Rows of tables: good, without a format, a counter, a row of zeros. -/
theorem witness_EngineParts_rows :
    (let b (tag : Tag) : EngBlk := { blk := 5, tag := tag, poison := 0, status := .ok }
     let it (tag : Tag) : EngItem := { engItem 0 0 [some va2, none] 0 0x1000000000000040 with got := [(readNo 0 0, b tag)] }
     (it 0x017F).src[0]? = some (some va2) ∧ (∀ n, n < (16 + 512 / elemBits 1 - 1) / (512 / elemBits 1) → mapFind (it 0x017F).got (readNo 0 n) = some (b 0x017F)) ∧
     (b 0x017F).tag.toNat / 256 = 1 ∧ mapFind (it 0).got (readNo 0 0) = some (b 0) ∧ mapFind (it 0xA000).got (readNo 0 0) = some (b 0xA000) ∧
     (it 0).src[1]? = some none ∧ (match (it 0x017F).row 16 0 with
      | .vals xs => decide (xs.length = 16)
      | _ => false) = true) := by
  refine ⟨by decide, ?_, by decide, by decide, by decide, by decide, by decide⟩
  intro n hn
  have h : n = 0 := by
    simp only [elemBits] at hn
    omega
  subst h
  decide

/-- GATH and BAGS: refused records, rows inside and outside under each BOUNDS, lists of bags. SCAD and FILL in the same way. -/
theorem witness_EngineParts_tables :
    (let gath : Instr := .gath { plainOps with a := .reg 4, b := .reg 12, c := .reg 16 }
     let bags : Instr := .bags { plainOps with a := .reg 4, b := .reg 12, c := .reg 16 }
     let scad : Instr := .scad { plainOps with a := .reg 4, b := .reg 12, c := .reg 16 }
     let fill : Instr := .fill { plainOps with a := .reg 4, b := .reg 12 }
     let t (base : DWord) (s1 w7 : Word) : List Word := recWords base 16 2 s1 0 1 w7
     let own : DWord := 0x1000000000000040
     let cause (s : State) (e : EngOp) : Option Nat × Bool := ((s.engParts wg1 e).2.2, (s.engParts wg1 e).1.isEmpty)
     let op (i : Instr) (a : DWord) (r : List Word) (cs : Map Word) : EngOp := engOp2 i a 0 none (some r) cs
     (bufRec (t va2 64 0x400)).bad = true ∧ (bufRec (t va2 64 0)).bad = false ∧ (bufRec (t va2 64 0)).empty = false ∧ gathPitch (bufRec (t va2 64 0)) 0 = 64 ∧
     cause box (op gath own (t va2 64 0) [(0, 1)]) = (none, false) ∧ cause box (op gath own (t va2 64 0) [(0, 1), (1, 2)]) = (some causeBounds, false) ∧
     cause box (op gath own (t va2 64 1) [(0, 2)]) = (none, false) ∧ cause box (op gath own (t va2 64 2) [(0, 2)]) = (none, false) ∧
     cause box (op gath 0 (t va2 64 0) [(0, 1)]) = (some causeAddress, true) ∧ cause box (op gath own (t va2 32 0) [(0, 1)]) = (some causeMisaligned, true) ∧
     (box.bagOf wg1 false 0x40).toOption = some ([], [], false) ∧ cause box (op bags own (t va2 64 0) [(0, 0x40)]) = (none, false) ∧
     (match box.bagOf wg1 false 2 with
      | .error e => e == causeAddress
      | .ok _ => false) = true ∧
     (match (box.lsWrite 0 0 [0, 0, 1]).bagOf wg1 false 0 with
      | .error e => e == causeIllegalOperand
      | .ok _ => false) = true ∧
     (match (box.lsWrite 0 65532 [1]).bagOf wg1 false 65532 with
      | .error e => e == causeAddress
      | .ok _ => false) = true ∧
     cause box (op scad own (t va2 64 0) [(0, 1)]) = (none, false) ∧ cause box (op scad va2 (t va2 64 0) [(0, 1)]) = (some causeAddress, true) ∧
     cause box (op scad own (t va2 32 0) [(0, 1)]) = (some causeMisaligned, true) ∧ cause box (op scad own (recWords va2 16 2 64 0 4 0) [(0, 1)]) = (some causeFormat, true) ∧
     cause box (op scad own (t own 64 0) [(0, 1)]) = (some causeAddress, true) ∧ cause box (op scad own (t va2 64 2) [(0, 2)]) = (none, false) ∧
     cause box (engOp2 fill 0 0 (some (t va2 64 0x100)) none []) = (some causeIllegalOperand, true) ∧
     cause box (engOp2 fill 0 0 (some (t va2 64 0)) none []) = (none, false)) := by decide

/-- Operations that end: an MMA over runs of the right tag (BF16 and INT8), each AOP, an ARD, an ADRN to one and to two records; records of an ADRN
that pass and that fail each check. -/
theorem witness_MatrixSteps_ends :
    (let found (op : MxOp) : Bool := decide (((mxHolds op).mxQ 0 0).find? (fun x => x.stage == .running && x.till ≤ (mxHolds op).clk) = some op)
     let mma (md : BitVec 5) : MxOp := { mxOp1 (.mma { plainOps with mod := md }) .running 0 with a := 15 }
     let tagged (t : Tag) : State := { mxHolds (mma 0) with slotTag := (List.range 128).map (fun n => (mxOff 0 false 0 0 / 64 + n, t)) }
     found (mma 0) = true ∧ found (mma 6) = true ∧ (mma 6).a.toNat % 2 ^ 32 < 16 ∧ (mmaPair 0).fa ≠ 7 ∧ (mmaPair 6).fa = 7 ∧
     (tagged 0x027F).runTagsOk 0 0 0 (mmaSpan plainOps.attr * (mmaPair 0).as) (mmaPair 0).fa = true ∧
     (tagged 0x027F).runTagsOk 0 0 0 (mmaSpan plainOps.attr) (mmaPair 0).fb = true ∧
     (tagged 0x077F).runTagsOk 0 0 0 (mmaSpan plainOps.attr * (mmaPair 6).as) (mmaPair 6).fa = true ∧
     (List.range 4).all (fun md => found (mxOp1 (.aop { plainOps with mod := BitVec.ofNat 5 md }) .running 0)) = true ∧
     found (mxOp1 (.ard { plainOps with d := 8 }) .running 0) = true ∧ found (mxOp1 (.adrn plainOps) .running 0) = true ∧
     found (mxOp1 (.adrn { plainOps with mod := 4 }) .running 0) = true ∧ (mxHolds (mma 0)).sheaf 0 = some { sheaf1 with regs := regsOf [(9, 1)] } ∧ sheaf1.errMatrix = none) ∧
    (let r (base : DWord) (ext0 fmt s1 : Word) : List Word := recWords base ext0 64 s1 0 fmt 0
     let get (ws : List Word) (code : Nat) : Nat := match drainRecord (some ws) none code with
       | .ok _ => 0
       | .error e => e
     get (r va2 64 1 256) 0 = 0 ∧ get (r va2 64 6 32) 6 = 0 ∧ get (r va2 63 1 256) 0 = causeIllegalOperand ∧ get (r va2 64 2 256) 0 = causeFormat ∧
     get (r va2 64 1 192) 0 = causeMisaligned ∧ get (r (va2 + 32) 64 1 256) 1 = causeMisaligned ∧ get (r 0x5000000000000000 64 1 256) 1 = causeAddress ∧
     get (r 0x3000000020000000 64 2 128) 2 = causeAddress) := by decide

/-- Records made before and after one another in a ring with room, a ring whose place switches, the parks of each kind released and failed, a trap owed,
traps of two times, a wait for a constant. -/
theorem witness_FaultHandling_more :
    (let s (clk : Nat) (made : Nat) : State := { box with clk := clk, pend := [{ pendPage1 (some faultRec1) with made := made }], fq := { box.fq with held := [(3, faultRec1)], log2 := 4 } }
     (s 256 2).fq.ringRoom = true ∧ (s 256 2).channelWaits (s 256 2).fq.slot = false ∧ (∀ h ∈ (s 256 2).fq.held, 2 < h.1) ∧
     (∀ x ∈ (s 256 2).pend, x.recd = some faultRec1 ∧ x.made = 2 ∧ x.since + 256 ≤ (s 256 2).clk ∧ (s 255 2).clk < x.since + 256) ∧
     (∀ x ∈ (s 256 4).pend, x.recd = none ∨ 3 < x.made) ∧ (∀ h ∈ (s 256 4).fq.held, h = (3, faultRec1))) ∧
    (let park (k : ParkKind) (d : Option Bool) : State := boxed (fun sh => { sh with parks := [{ token := 7, kind := k, done := d }] })
     let goes (s : State) (k : ParkKind) (d : Bool) : Bool := (s.sheaf 0).map (fun sh => decide (sh.parks = [{ token := 7, kind := k, done := some d }] ∧ sh.replays = [] ∧
       sh.halted = false ∧ sh.stopped = false ∧ sh.wait = .none)) == some true
     goes (parked1 (some true)) (.entry 0) true = true ∧ goes (park (.const 1 0x410) (some false)) (.const 1 0x410) false = true ∧
     goes (park (.const 1 0x410) (some true)) (.const 1 0x410) true = true ∧ goes (park .fetch (some false)) .fetch false = true ∧
     goes (park .fetch (some true)) .fetch true = true) ∧
    (let o : Owed := { cause := 0x06, info := 0, mask := 1, pc := 0x400, npc := 0x410, va := 0, level := .user }
     let s : State := boxed (fun sh => { sh with owed := some o })
     (s.sheaf 0).map (fun sh => decide (sh.owed = some o ∧ o.pc = sh.pc ∧ o.level = sh.level ∧ sh.issues = true ∧ s.debugTrap 0 sh = none)) = some true) ∧
    (let r (n : Nat) (l : Level) : RespTrap := { seq := n, cause := 6, info := 0, mask := 1, pc := 0x400, level := l, entry := none }
     let s (f : Sheaf → Sheaf) : State := boxed (fun sh => f { sh with respTraps := [r 4 .user, r 2 .user] })
     let oldest (s : State) : Bool := (s.sheaf 0).map (fun sh => decide ((∀ x ∈ sh.respTraps, x = r 2 .user ∨ 2 < x.seq) ∧ r 2 .user ∈ sh.respTraps ∧
       sh.level.code ≤ (r 2 .user).level.code ∧ sh.force = none)) == some true
     oldest (s id) = true ∧ ((s id).sheaf 0).map (fun sh => sh.issues) = some true ∧
     oldest (s (fun sh => { sh with wait := .const va2 1 })) = true ∧
     ((s (fun sh => { sh with wait := .const va2 1 })).sheaf 0).map (fun sh => ({ sh with wait := .none } : Sheaf).issues) = some true ∧
     ((s (fun sh => { sh with force := some 1 })).sheaf 0).map (fun sh => sh.force) = some (some 1)) := by decide

/-- A node of slot 65535 armed with the link up, a record refused for each reason, tables that can be read or not. -/
theorem witness_SlotSteps_codes :
    (let up : State := { slots with hostLink := true }
     let code (s : State) (r : Blk) : Nat := match s.armCheck 65535 r with
       | .error e => e
       | .ok _ => 0
     let with_ (off len v : Nat) : Blk := blkSetNat (record1 0 1) off len v
     up.hostLink = true ∧ up.dev.phase ≠ 2 ∧ slots.hostLink = false ∧ code up (record1 0 1) = 0 ∧ mapGetD up.slotOwner 65535 0 = 1 ∧
     code { up with slotOwner := [] } (record1 0 1) = 1 ∧ code up (with_ 21 1 1) = 2 ∧ code up (with_ 58 2 1) = 3 ∧ code up (with_ 0 8 4) = 4 ∧
     code up (with_ 18 1 33) = 5 ∧ code up (with_ 19 1 4) = 6 ∧ code up (with_ 56 2 16) = 7 ∧ code up (with_ 24 8 0x0020000000001008) = 8 ∧
     code up (with_ 34 2 4097) = 9 ∧ code up (with_ 44 8 2) = 9 ∧ code up (with_ 60 3 1) = 10 ∧ code up (with_ 20 1 255) = 11 ∧
     (up.windowTable 1 0x0020000000001000).isSome = true ∧ up.windowTable 1 8 = none ∧ up.hubRead 1 0x1000 96 = none ∧
     (up.hubRead 1 0x0020000000001000 96).isSome = true ∧
     ({ up with mem := mapInsert up.mem (dpa2 + 12) 2 }).windowTable 1 0x0020000000001000 = none) := by decide

/-- The answers of a completion word: refused, of a block with an error, of a lost heap, faulted and then released or failed. -/
theorem witness_HubAnswers_status :
    (let s : State := { ending 1 0 with released := [] }
     let a (st : MemStatus) : BlkAns := { BlkAns.done with status := st }
     (a (.bad 0x06)).status = .bad 0x06 ∧ (0x06 : BitVec 8) ≠ 0x0C ∧ (0x06 : BitVec 8) ≠ 0x10 ∧ (a (.bad 0x0C)).status = .bad 0x0C ∧ (a (.bad 0x10)).status = .bad 0x10 ∧
     (a (.fault 7)).status = .fault 7 ∧ mapFind s.released 7 = none ∧ mapFind ({ s with released := [(7, true)] } : State).released 7 = some true) := by decide

/-- Two nodes that are ready at one level, armed at one time; the first has room, or only the second has; and a third that claims the room left. -/
def hubTwo (wgs : Map Workgroup) (a b : Node) : State :=
  { box with sheaves := [], ctxs := [(1, { ctx1 with saveAreas := [(0, 0x10000000)] })], wgs := wgs, nodes := [(5, node5), (6, a), (7, b)],
             status := [(6, { SlotStatus.reset with state := .ready }), (7, { SlotStatus.reset with state := .ready })] }
def filled (from_ : Nat) : Map Workgroup := (List.range (16 - from_)).map (fun c => (c + 1, { wg1 with core := c + from_, units := 100, lsBase := 0, lin := c }))

theorem witness_WorkgroupPlacement_two :
    (let s : State := hubTwo [] (node6 40) (node6 40)
     mapSorted s.nodes = true ∧ s.servedNodes 0 = [6, 7] ∧ mapFind s.nodes 6 = some (node6 40) ∧ mapFind s.nodes 7 = some (node6 40) ∧
     (∀ c ∈ s.nodes, c.2.claimant = false) ∧ s.nextWorks 6 (node6 40) = [.fresh 0] ∧ s.nextWorks 7 (node6 40) = [.fresh 0] ∧
     (s.choosePlace 6 (node6 40) (.fresh 0)).map (fun p => p.core) = some 0 ∧ s.dev.phase = 6 ∧ recNat (node6 40).record 56 2 ≠ 0 ∧ recNat node5.record 56 2 = 0) := by
  decide

theorem witness_WorkgroupPlacement_second :
    (let s : State := hubTwo (filled 0) (node6 40) (node6 4)
     s.servedNodes 0 = [6, 7] ∧ s.nextWorks 6 (node6 40) = [.fresh 0] ∧ s.nextWorks 7 (node6 4) = [.fresh 0] ∧ (∀ c ∈ s.nodes, c.2.claimant = false) ∧
     s.choosePlace 6 (node6 40) (.fresh 0) = none ∧ (s.choosePlace 7 (node6 4) (.fresh 0)).isSome = true) := by decide

theorem witness_WorkgroupPlacement_claim :
    (let b : Node := { node6 60 with claimant := true }
     let s : State := { hubTwo (filled 1) (node6 60) b with status := [(6, { SlotStatus.reset with state := .ready })] }
     let ps := s.placesFor 6 (node6 60) (.fresh 0)
     s.servedNodes 0 = [6] ∧ s.nextWorks 6 (node6 60) = [.fresh 0] ∧ s.wouldFit 7 = true ∧ ps ≠ [] ∧
     (∀ p ∈ ps, (s.placeFresh 6 (node6 60) 0 p).wouldFit 7 = false)) := by decide

/-- Victims of no kind; workgroups whose sheaves have all ended; a load of the workgroup sent; a record with its place in the save area. -/
theorem witness_PreemptionSteps_more :
    crowded.victimsAll 6 (node6 200) [.fresh 0] [] = none ∧ (∀ e ∈ ({ vacating1 0 .running with sheaves := [(0, { sheaf1 with ended := true })] } : State).sheaves, e.2.wg = 1 → e.2.ended = true) ∧
    (let e : WinEntry := { entry1 .sent with instr := .ld { plainOps with a := .reg 4, mod := 2, d := 8 } }
     let s : State := { vacating1 1500 (.vacating 0) with win := [(3, e)] }
     mapFind s.wgs 1 = some { wg1 with stage := .vacating 0, asked := true } ∧ s.win = [(3, e)] ∧ e.sheaf = 0 ∧ (s.sheaf 0).map (fun sh => sh.wg) = some 1 ∧
     (∀ y ∈ s.sheaves, y.2.wg = 1 → y.2.ended = false) ∧ memClass e.instr = .load ∧ (∃ b ∈ e.blks, b.stage = .sent) ∧ 0 + 1500 ≤ s.clk) ∧
    (let s : State := { vacating1 0 (.vacating 0) with ctxs := [(1, { ctx1 with saveAreas := [(0x0020000000000000, 0x10000000)] })] }
     (s.recordSlot wg1).isSome = true ∧ (∀ x ∈ s.sheaves, ∀ y ∈ s.sheaves, x.2.wg = 1 → y.2.wg = 1 → x.2.idx = y.2.idx → x = y) ∧
     (∀ x ∈ s.sheaves, x.2.wg = 1 → x.2.idx < wg1.nSheaf ∧ x.2.stack.length ≤ 32 ∧ (x.2.cls.filter (fun c => c.2.stored)).length ≤ 32 ∧
       (s.win.filter (fun e => e.2.sheaf == x.1)).length + (wg1.kept.win.filter (fun e => e.2.sheaf == x.2.idx)).length ≤ 16) ∧ s.halting 1 0 = true) := by decide

end Sys2Proof.Tests
end

section
/-! PROOFS. NOP, YIELD, SLEEP, BRA, CALL and RET (R180, R183, R184, R186), BRK and TRAP (R187, R371): where an instruction that
has passed every check starts from, what its arm answers there, and the two statements. -/

namespace Sys2Proof.Machine

/-! Where an instruction that has passed every check starts from. -/

section
variable (s : State) (k : Nat) (sh : Sheaf) (w : Workgroup)

@[simp] theorem startCtx_s (o : Ops) (f : Form) : (startCtx s o f k sh w).s = s.setSheaf k sh.atHead := rfl
@[simp] theorem startCtx_k (o : Ops) (f : Form) : (startCtx s o f k sh w).k = k := rfl
@[simp] theorem startCtx_sh (o : Ops) (f : Form) : (startCtx s o f k sh w).sh = sh.issued := rfl
@[simp] theorem startCtx_begun (o : Ops) (f : Form) : (startCtx s o f k sh w).begun = s.setSheaf k sh.issued :=
  setSheaf_setSheaf s k sh.atHead sh.issued

@[simp] theorem branchCtx_s (o : BrOps) : (branchCtx s o k sh w).s = s.setSheaf k sh.atHead := rfl
@[simp] theorem branchCtx_k (o : BrOps) : (branchCtx s o k sh w).k = k := rfl
@[simp] theorem branchCtx_sh (o : BrOps) : (branchCtx s o k sh w).sh = sh.issued := rfl
@[simp] theorem branchCtx_w (o : BrOps) : (branchCtx s o k sh w).w = w := rfl
@[simp] theorem branchCtx_begun (o : BrOps) : (branchCtx s o k sh w).begun = s.setSheaf k sh.issued :=
  setSheaf_setSheaf s k sh.atHead sh.issued
end

@[simp] theorem issued_advance (sh : Sheaf) (i : Instr) :
    sh.issued.advance i = { sh.issued with pc := sh.pc + BitVec.ofNat 64 i.size } := by
  simp [Sheaf.advance]

/-- A push has room by the count of hardware and spilled entries, which issue leaves alone (R173). -/
theorem pushRoom_issued_iff (w : Workgroup) (sh : Sheaf) :
    pushRoom w sh.issued = true ↔
      sh.stack.length + sh.spilled.length < (if 512 * w.nSheaf ≤ w.units * 65536 then 64 else 32) := by
  simp [pushRoom, Workgroup.spills]

/-! What the arms answer. -/

section
variable {s : State} {o : Ops} {f : Form} {k : Nat} {sh : Sheaf} {w : Workgroup}

theorem exec_nop_of_starts (h : Starts s (.nop o) o f k sh w) :
    exec (.nop o) s = .next ((s.setSheaf k { sh.issued with pc := sh.pc + BitVec.ofNat 64 (Instr.nop o).size }).finish k o.hd 1) := by
  rw [exec_nop, execNop, runGeneral_go h]
  simp only [startCtx_s, startCtx_k, startCtx_sh, issued_advance, setSheaf_setSheaf]

theorem exec_yield_of_starts (h : Starts s (.yield o) o f k sh w) :
    exec (.yield o) s = .next (((s.setSheaf k { sh.issued with pc := sh.pc + BitVec.ofNat 64 (Instr.yield o).size }).finish k o.hd 1).onSheaf k
      (fun x => { x with yielded := true })) := by
  rw [exec_yield, execYield, runGeneral_go h]
  simp only [startCtx_s, startCtx_k, startCtx_sh, issued_advance, setSheaf_setSheaf]

/-- SLEEP counts from the clock at its issue, which writing the sheaf leaves alone. -/
theorem exec_sleep_of_starts (h : Starts s (.sleep o) o f k sh w) :
    let c := startCtx s o f k sh w
    let done := (s.setSheaf k { sh.issued with pc := sh.pc + BitVec.ofNat 64 (Instr.sleep o).size }).finish k o.hd 1
    let count := min (low (srcValue c.sh c.ext f.a o.a ((threadsOf c.e).headD 0))).toNat 1048575
    exec (.sleep o) s = .next (if c.e = 0 ∨ count = 0 then done else done.onSheaf k (fun x => { x with wait := .sleep (s.clk + count + 1) })) := by
  rw [exec_sleep, execSleep, runGeneral_go h]
  simp only [startCtx_s, startCtx_k, startCtx_sh, issued_advance, setSheaf_setSheaf, setSheaf_clk, low]
  exact congrArg Host.Outcome.next (ite_congr (by rw [Bool.or_eq_true, beq_iff_eq, beq_iff_eq]) (fun _ => rfl) (fun _ => rfl))

theorem exec_bra_of_starts {o : BrOps} (h : StartsBranch s (.bra o) o k sh w) :
    exec (.bra o) s = .next ((s.setSheaf k { sh.issued with pc := sh.pc + (o.tgt.signExtend 64 <<< 3) }).finish k false 1) := by
  rw [exec_bra, execBra, runBranch_go h]
  simp only [branchTarget, branchCtx_s, branchCtx_k, branchCtx_sh, issued_pc, setSheaf_setSheaf]

theorem exec_call_of_room {o : BrOps} (h : StartsBranch s (.call o) o k sh w) (hroom : pushRoom w sh.issued = true) :
    exec (.call o) s = .next ((((s.setSheaf k sh.issued).push k w
      { rpc := (sh.pc + 8) ||| 1, pmask := sh.m, ppc := (sh.pc + 8) ||| 1 }).onSheaf k
        (fun x => { x with pc := sh.pc + (o.tgt.signExtend 64 <<< 3) })).finish k false 1) := by
  rw [exec_call, execCall, runBranch_go h]
  simp only [hroom, branchTarget, branchCtx_begun, branchCtx_k, branchCtx_sh, branchCtx_w, issued_pc, issued_m, Bool.not_true,
    Bool.false_eq_true, if_false]

theorem exec_call_of_no_room {o : BrOps} (h : StartsBranch s (.call o) o k sh w) (hroom : pushRoom w sh.issued = false) :
    exec (.call o) s =
      .next ((s.setSheaf k sh.atHead).issueTrap k (.call o) 0x0D 0 (branchCtx s o k sh w).e (branchCtx s o k sh w).e) := by
  rw [exec_call, execCall, runBranch_go h]
  simp only [hroom, causeReconvOverflow, branchCtx_s, branchCtx_k, branchCtx_sh, branchCtx_w, Bool.not_false, if_true]

theorem exec_ret_of_empty (h : Starts s (.ret o) o f k sh w) (hstack : sh.stack = []) :
    exec (.ret o) s =
      .next ((s.setSheaf k sh.atHead).issueTrap k (.ret o) 0x0E 0 (startCtx s o f k sh w).e (startCtx s o f k sh w).e) := by
  rw [exec_ret, execRet, runGeneral_go h]
  simp only [startCtx_s, startCtx_k, startCtx_sh, issued_stack, hstack, List.getLast?_nil, causeStack]

/-- RET with an entry on top that no call pushed. -/
theorem exec_ret_of_not_call {top : StackEntry} (h : Starts s (.ret o) o f k sh w) (htop : sh.stack.getLast? = some top)
    (hcall : top.rpc.getLsbD 0 = false) :
    exec (.ret o) s =
      .next ((s.setSheaf k sh.atHead).issueTrap k (.ret o) 0x0E 0 (startCtx s o f k sh w).e (startCtx s o f k sh w).e) := by
  rw [exec_ret, execRet, runGeneral_go h]
  simp only [startCtx_s, startCtx_k, startCtx_sh, issued_stack, htop, hcall, causeStack, Bool.not_false, if_true]

theorem exec_ret_of_part {top : StackEntry} (h : Starts s (.ret o) o f k sh w) (htop : sh.stack.getLast? = some top)
    (hcall : top.rpc.getLsbD 0 = true) (he : (startCtx s o f k sh w).e ≠ sh.m) :
    exec (.ret o) s =
      .next ((s.setSheaf k sh.atHead).issueTrap k (.ret o) 0x04 0 (startCtx s o f k sh w).e (startCtx s o f k sh w).e) := by
  have hne : ((startCtx s o f k sh w).e != sh.m) = true := bne_iff_ne.mpr he
  rw [exec_ret, execRet, runGeneral_go h]
  simp only [startCtx_s, startCtx_k, startCtx_sh, issued_stack, issued_m, htop, hcall, hne, causeConvergence, Bool.not_true,
    Bool.false_eq_true, if_false, if_true]

/-- RET by every thread of M, to a call entry. -/
theorem exec_ret_of_call {top : StackEntry} (h : Starts s (.ret o) o f k sh w) (htop : sh.stack.getLast? = some top)
    (hcall : top.rpc.getLsbD 0 = true) (he : (startCtx s o f k sh w).e = sh.m) :
    exec (.ret o) s = .next ((((s.setSheaf k sh.issued).pop k).onSheaf k
      (fun x => { x with pc := top.rpc &&& 0xFFFFFFFFFFFFFFFE, m := top.pmask &&& x.live })).finish k o.hd 1) := by
  rw [exec_ret, execRet, runGeneral_go h]
  simp only [startCtx_begun, startCtx_k, startCtx_sh, issued_stack, issued_m, htop, hcall, he, bne_self_eq_false, Bool.not_true,
    Bool.false_eq_true, if_false]
  rfl

/-! BRK and TRAP. -/

theorem exec_brk_of_no_thread (h : Starts s (.brk o) o f k sh w) (he : (startCtx s o f k sh w).e = 0) :
    exec (.brk o) s = .next ((s.setSheaf k { sh.issued with pc := sh.pc + BitVec.ofNat 64 (Instr.brk o).size }).finish k o.hd 1) := by
  rw [exec_brk, execBrk, runGeneral_go h]
  simp only [he, startCtx_s, startCtx_k, startCtx_sh, issued_advance, setSheaf_setSheaf, beq_self_eq_true, if_true]

theorem exec_brk_of_thread (h : Starts s (.brk o) o f k sh w) (he : (startCtx s o f k sh w).e ≠ 0) :
    exec (.brk o) s =
      .next ((s.setSheaf k sh.atHead).issueTrap k (.brk o) 0x12 0 (startCtx s o f k sh w).e (startCtx s o f k sh w).e) := by
  have hne : ((startCtx s o f k sh w).e == 0) = false := beq_eq_false_iff_ne.mpr he
  rw [exec_brk, execBrk, runGeneral_go h]
  simp only [hne, startCtx_s, startCtx_k, causeBrk, Bool.false_eq_true, if_false]

/-- Legal fields have an A that its position accepts (R126, R127). -/
theorem generalOk_accepts_a {op : BitVec 8} (h : generalOk op o f = true) : f.a.accepts o o.a = true := by
  simp only [generalOk, Bool.and_eq_true] at h
  obtain ⟨⟨⟨⟨⟨⟨⟨-, ha⟩, -⟩, -⟩, -⟩, -⟩, -⟩, -⟩ := h
  exact ha

/-- The number of a well-formed TRAP is below 32 (R187). -/
theorem trap_number_lt {n : BitVec 8} (ha : o.a = .imm n) (hwf : (Instr.trap o).wfGeneral = true) : n.toNat < 32 := by
  obtain ⟨o', f', op, hform, -, hok⟩ := form_of_wfGeneral hwf
  obtain ⟨rfl, rfl⟩ : o = o' ∧ _ = f' := by simpa [Instr.form] using hform
  have hacc : Pos.accepts (.shortImm 32) o o.a = true := generalOk_accepts_a hok
  simp only [ha, Pos.accepts, Bool.and_eq_true, decide_eq_true_eq] at hacc
  exact hacc.1

/-- A short immediate below 128 keeps its value where a position takes it as an integer (R130). -/
theorem shortImm_int_toNat {n : BitVec 8} (h : n.toNat < 128) (w : Width) : (shortImm .int w n).toNat = n.toNat := by
  have hmsb : n.msb = false := by rw [BitVec.msb_eq_false_iff_two_mul_lt]; omega
  cases w <;> simp [shortImm, BitVec.signExtend_eq_setWidth_of_msb_false hmsb] <;> omega

theorem exec_trap_of_no_thread (h : Starts s (.trap o) o f k sh w) (he : (startCtx s o f k sh w).e = 0) :
    exec (.trap o) s = .next ((s.setSheaf k { sh.issued with pc := sh.pc + BitVec.ofNat 64 (Instr.trap o).size }).finish k o.hd 1) := by
  rw [exec_trap, execTrap, runGeneral_go h]
  simp only [he, startCtx_s, startCtx_k, startCtx_sh, issued_advance, setSheaf_setSheaf, beq_self_eq_true, if_true]

theorem exec_trap_of_thread {n : BitVec 8} (ha : o.a = .imm n) (h : Starts s (.trap o) o f k sh w) (he : (startCtx s o f k sh w).e ≠ 0) :
    exec (.trap o) s =
      .next ((s.setSheaf k sh.atHead).issueTrap k (.trap o) (0x20 + n.toNat) 0 (startCtx s o f k sh w).e (startCtx s o f k sh w).e) := by
  have hne : ((startCtx s o f k sh w).e == 0) = false := beq_eq_false_iff_ne.mpr he
  have hn : n.toNat < 32 := trap_number_lt ha (decodeFails_none h.decode)
  obtain rfl : _ = f := (Prod.mk.inj (Option.some.inj h.form)).2
  have hcause : ∀ x y t, (srcValue x y (.shortImm 32) o.a t).toNat % 32 = n.toNat := fun x y t => by
    rw [ha]
    exact (congrArg (· % 32) (shortImm_int_toNat (by omega) .w32)).trans (Nat.mod_eq_of_lt hn)
  rw [exec_trap, execTrap, runGeneral_go h]
  simp only [hne, hcause, startCtx_s, startCtx_k, Bool.false_eq_true, if_false]
end

/-- Raising an issue-time trap without poison is entering the trap with the sheaf's own pc (R371). -/
theorem issueTrap_of_not_dataError {s : State} {k : Nat} {sh : Sheaf} (i : Instr) {cause : Nat} (info : Word) (mask e : TMask)
    (hsh : s.sheaf k = some sh) (hcause : cause ≠ causeDataError) :
    s.issueTrap k i cause info mask e = s.takeTrap k
      { cause := cause, info := info, mask := mask, rmask := e, pc := sh.pc, npc := sh.pc + BitVec.ofNat 64 i.size, resp := false,
        entry := none } := by
  simp [State.issueTrap, State.issueTrapAt, hsh, hcause]

/-- Settles O14, by what each arm answers in each of its cases. -/
theorem plainControlAndCalls : Obligations.PlainControlAndCalls := by
  unfold Obligations.PlainControlAndCalls
  refine ⟨⟨?nop, ?yield, ?sleep, ?bra⟩, ?call, ?ret⟩
  case nop => exact fun _ _ _ _ _ _ h => exec_nop_of_starts h
  case yield => exact fun _ _ _ _ _ _ h => exec_yield_of_starts h
  case sleep => exact fun _ _ _ _ _ _ h => exec_sleep_of_starts h
  case bra => exact fun _ _ _ _ _ h => exec_bra_of_starts h
  case call =>
    refine fun o s k sh w h => ⟨fun hroom => ?_, fun hfull => ?_⟩
    · exact exec_call_of_room h ((pushRoom_issued_iff w sh).mpr hroom)
    · exact exec_call_of_no_room h (Bool.eq_false_iff.mpr (fun hroom => Nat.not_lt.mpr hfull ((pushRoom_issued_iff w sh).mp hroom)))
  case ret =>
    refine fun o f s k sh w h => ⟨exec_ret_of_empty h, fun top htop => ⟨?_, ?_, ?_⟩⟩
    · exact exec_ret_of_not_call h htop
    · exact exec_ret_of_part h htop
    · exact exec_ret_of_call h htop

/-- Settles O20, by the trap request of an issue-time trap and by what BRK and TRAP answer with and without an executing thread. -/
theorem softwareTraps : Obligations.SoftwareTraps := by
  unfold Obligations.SoftwareTraps
  refine ⟨?request, ?brk, ?trap⟩
  case request => exact fun s k sh i cause info mask e hsh hcause => issueTrap_of_not_dataError i info mask e hsh hcause
  case brk => exact fun o f s k sh w h => ⟨exec_brk_of_no_thread h, exec_brk_of_thread h⟩
  case trap => exact fun o n f s k sh w ha h => ⟨exec_trap_of_no_thread h, exec_trap_of_thread ha h⟩

end Sys2Proof.Machine
end
